-- ==== Sys2Proof/Word.lean ====
section
/-! DEFINITION. Word.lean: the words of the machine (00 R3: bit 0 is the least significant bit). -/

namespace Sys2Proof

/-- One byte. -/
abbrev Byte := BitVec 8
/-- A 32-bit lane value or code offset (02 R36, R43). -/
abbrev W32 := BitVec 32
/-- A 64-bit scalar, address or handle (02 R41). -/
abbrev W64 := BitVec 64
/-- An FX96 accumulator element (11 R246). -/
abbrev W96 := BitVec 96
/-- A scratchpad granule, an object or a window register (06 R132, 09 R194, 14 R338). -/
abbrev W128 := BitVec 128
/-- A set of lanes of a group, bit l for lane l: a predicate register, an active mask (02 R34, R41). -/
abbrev Mask := BitVec 128
/-- One value for each of a group's 128 lanes (01 R20). -/
abbrev Lanes (α : Type) := Vector α 128
/-- One value for each of a stack task's 64 lanes (13 R282). -/
abbrev SLanes (α : Type) := Vector α 64

end Sys2Proof
end

