-- ==== Sys2Proof/Syntax.lean ====
section
/-! DEFINITION. Syntax.lean: the instructions of both instruction sets and the events of the opcode table, one
constructor a row of spec/opcode_table.json. Fields hold what the encodings carry (02 R27, R28, 13 R287); register
numbers and immediates are numbers, their bounds are WellFormed's. -/

namespace Sys2Proof

/-- Length codes (02 R24). -/
inductive Len where | l64 | l96 | l128
  deriving DecidableEq, Repr

/-- What every first word carries beside its operands (02 R27): length, stall count, safe point, U, predicate. -/
structure Hdr where
  len   : Len
  stall : Nat
  sp    : Bool
  u     : Bool
  neg   : Bool
  pr    : Nat
  deriving DecidableEq, Repr

/-- Crossbar patterns (02 R32), codes 0b000 to 0b110. -/
inductive Pat where | id | rot | rotn | bfly | mir | bck | bcs
  deriving DecidableEq, Repr

/-- A pattern with its amount k (02 R32). -/
structure Xb where
  pat : Pat
  amt : Nat
  deriving DecidableEq, Repr

/-- A source operand (02 R29, R30): a vector register read through a pattern, a scalar register, an immediate as its
field's bits, or none. -/
inductive Src where
  | none
  | vec (r : Nat) (x : Xb)
  | sca (r : Nat)
  | imm (v : W64)
  deriving DecidableEq, Repr

/-- The operands of an arithmetic instruction: destination, up to three sources, and N, the scalar that supplies the
lane of pattern 0b110 (02 R32; 0 when no pattern is 0b110). -/
structure Ops where
  d : Nat
  a : Src
  b : Src
  c : Src
  n : Nat
  deriving DecidableEq, Repr

/-- Integer types T (04 R77). -/
inductive ITy where | i32 | n32 | i64 | n64
  deriving DecidableEq, Repr

/-- FN of the integer class (04 R77): scalar form, modifier, type. -/
structure IFn where
  s : Bool
  m : Nat
  t : ITy
  deriving DecidableEq, Repr

/-- Floating formats F (05 R105). -/
inductive FTy where | f32 | f64 | f16 | bf16
  deriving DecidableEq, Repr

/-- FN of the floating class (05 R105): negate addend, negate product, rounding mode 0-3, format. -/
structure FFn where
  n2 : Bool
  n1 : Bool
  rm : Nat
  f  : FTy
  deriving DecidableEq, Repr

/-- The conversion descriptor of FCVT (05 R113). -/
structure CvtD where
  sat : Bool
  rm  : Nat
  st  : Nat
  dt  : Nat
  deriving DecidableEq, Repr

/-- Operands of the memory class (06 R133-R135). `bv` is BV or SD; `off` is the byte offset, sign-extended from the
width of its field; `fe`, `far`, `ord`, `nx` are the modifier byte. -/
structure MemOp where
  d   : Nat
  a   : Nat
  xa  : Pat
  b   : Nat
  xb  : Pat
  sz  : Nat
  bv  : Bool
  ix  : Nat
  off : W32
  nx  : Bool
  fe  : Nat
  far : Bool
  ord : Nat
  deriving DecidableEq, Repr

/-- Operands of ATOM, ATOMS, LR and SC (08 R186, R187). -/
structure AtomOp where
  op    : Nat
  ix    : Nat
  d     : Nat
  a     : Nat
  xa    : Pat
  b     : Nat
  xb    : Pat
  c     : Nat
  e     : Nat
  bv    : Bool
  w64   : Bool
  sgn   : Bool
  nx    : Bool
  kind  : Nat
  scope : Nat
  nr    : Bool
  off   : BitVec 14
  deriving DecidableEq, Repr

/-- The engine field set of XCOPY, XFILL, XGATH and XCOLL (10 R226). -/
structure XFld where
  rb   : Nat
  sr   : Nat
  sn   : Nat
  k    : Nat
  cop  : Nat
  cfmt : Nat
  esz  : Nat
  ord  : Bool
  pd   : Nat
  deriving DecidableEq, Repr

/-- The register operands of XCOPY, XFILL, XGATH and XCOLL, and the queue q (10 R225). -/
structure XOp where
  d : Nat
  a : Nat
  b : Nat
  c : Nat
  q : Nat
  f : XFld
  deriving DecidableEq, Repr

/-- The matrix field set (11 R239). -/
structure MFld where
  n   : Nat
  row : Nat
  pri : Nat
  z   : Bool
  shp : Bool
  fmt : Nat
  nw  : Nat
  ws  : Nat
  tl  : Nat
  cls : Bool
  sat : Bool
  rm  : Nat
  en  : Nat
  acc : Bool
  wh  : Bool
  pd  : Nat
  deriving DecidableEq, Repr

/-- Register operands and field set of MWLD, MMA, MACRD and MACWR (11 R239); `set` is MWLD's SET. -/
structure MOp where
  d   : Nat
  a   : Nat
  b   : Nat
  c   : Nat
  set : Nat
  f   : MFld
  deriving DecidableEq, Repr

/-- Operands of LDK and STK, RLDX and RSTX (13 R290, R298). -/
structure KOp where
  d   : Nat
  a   : Nat
  b   : Nat
  off : Byte
  sz  : Nat
  sd  : Bool
  ix  : Nat
  deriving DecidableEq, Repr

/-- A vector source with its pattern, and the lane that `.bcs` takes (02 R32). -/
structure VecSrc where
  r  : Nat
  xa : Pat
  n  : Nat
  deriving DecidableEq, Repr

/-- What a write-back event acts on (08 R172): an L1 line of a core, or a requester-side copy in a quadrant's
spiral; with `drop`, the line or copy is dropped as well. -/
inductive WbWhat where
  | l1 (core line : Nat) (drop : Bool)
  | copy (quad tile : Nat) (drop : Bool)
  deriving DecidableEq, Repr

/-- Who outside reads device memory, a peer link or 16 for the host, and the address (15 R342, R347). -/
structure OutAdr where
  src : Nat
  pa  : Nat
  deriving DecidableEq, Repr

/-- A turn of an engine's port (11 R243): the request at an index of its table, and which piece of its operand it serves, from 1 on, or 0 for all
that is left. -/
structure PortTurn where
  i    : Nat
  part : Nat
  deriving DecidableEq, Repr

/-- The two halves of a write from outside (08 R175): accepted at an interface (peer link, or 16 for the host), then
applied and counted at its home die. Beside them the driver loads a firmware image: 0 of the system controller, 1 of the
dispatchers, 2 of the stack-core loaders (15 R355). -/
inductive ExtAct where
  | accept (src : Nat) (pa : Nat) (bytes : List Byte)
  | claim (src : Nat) (pa : Nat)
  | apply (die : Nat)
  | image (stage x : Nat)
  deriving DecidableEq, Repr

/-- What an uncorrectable error strikes (14 R340): the load or atomic of an outbound-queue entry; a store in flight, a host's or peer's write
at a die, or the next row or word that a stack core writes; the read at an address `va` of a job or request of an engine, or a piece that a request writes there; the read of a stack
task, at a lane; a group's backing area. -/
inductive MemErr where
  | entry (g idx : Nat)
  | store (idx : Nat)
  | outside (die idx : Nat)
  | row (sc : Nat)
  | job (cpe idx va : Nat)
  | request (engine idx va : Nat)
  | piece (engine idx va : Nat)
  | task (sc lane : Nat)
  | backing (g : Nat)
  deriving DecidableEq, Repr

/-- The phases of a lane repair (13 R309). -/
inductive Repair where | stop | resume
  deriving DecidableEq, Repr

/-- Every step of the opcode table. Core instructions first, in the table's order, then events and stack-core
instructions. Events take as arguments the choices that the manual leaves to the machine or to the outside. -/
inductive Instr where
  -- control (03)
  | nop (h : Hdr)
  | bra (h : Hdr) (imm : W32)
  | brx (h : Hdr) (a : Src) (n : Nat)
  | call (h : Hdr) (d : Nat) (imm : W32)
  | callx (h : Hdr) (d : Nat) (a : Src) (n : Nat)
  | ret (h : Hdr) (a : Src) (n : Nat)
  | exit (h : Hdr)
  | tail (h : Hdr)
  | yield (h : Hdr) (rot : Bool)
  -- integer (04)
  | iadd (h : Hdr) (f : IFn) (o : Ops)
  | isub (h : Hdr) (f : IFn) (o : Ops)
  | imul (h : Hdr) (f : IFn) (o : Ops)
  | imulh (h : Hdr) (f : IFn) (o : Ops)
  | imad (h : Hdr) (f : IFn) (o : Ops)
  | imin (h : Hdr) (f : IFn) (o : Ops)
  | imax (h : Hdr) (f : IFn) (o : Ops)
  | iabs (h : Hdr) (f : IFn) (o : Ops)
  | shl (h : Hdr) (f : IFn) (o : Ops)
  | shr (h : Hdr) (f : IFn) (o : Ops)
  | sra (h : Hdr) (f : IFn) (o : Ops)
  | and (h : Hdr) (f : IFn) (o : Ops)
  | or (h : Hdr) (f : IFn) (o : Ops)
  | xor (h : Hdr) (f : IFn) (o : Ops)
  | andn (h : Hdr) (f : IFn) (o : Ops)
  | popc (h : Hdr) (f : IFn) (o : Ops)
  | clz (h : Hdr) (f : IFn) (o : Ops)
  | brev (h : Hdr) (f : IFn) (o : Ops)
  | bfx (h : Hdr) (f : IFn) (o : Ops)
  | bfi (h : Hdr) (f : IFn) (o : Ops)
  | isel (h : Hdr) (f : IFn) (o : Ops) (p : Nat)
  | icmp (h : Hdr) (f : IFn) (o : Ops)
  | lea (h : Hdr) (f : IFn) (o : Ops)
  | mov (h : Hdr) (f : IFn) (o : Ops)
  | movi (h : Hdr) (f : IFn) (o : Ops)
  | movw (h : Hdr) (f : IFn) (d : Nat) (imm : BitVec 16) (piece : Nat)
  | plop (h : Hdr) (d a b c : Nat) (lut : Byte)
  -- lane movement (04)
  | perm (h : Hdr) (w64 : Bool) (o : Ops)
  | vote (h : Hdr) (mode : Nat) (d a : Nat)
  | red (h : Hdr) (op : Nat) (t : ITy) (o : Ops)
  | scan (h : Hdr) (ex : Bool) (op : Nat) (t : ITy) (o : Ops)
  | bcast (h : Hdr) (w64 fromS toS : Bool) (d a : Nat) (xa : Pat) (c : Nat)
  | shape (h : Hdr) (mode : Nat) (d : Nat) (a : VecSrc)
  | packl (h : Hdr) (w64 cnt : Bool) (o : Ops) (c : Nat)
  -- floating (05)
  | fadd (h : Hdr) (f : FFn) (o : Ops)
  | fsub (h : Hdr) (f : FFn) (o : Ops)
  | fmul (h : Hdr) (f : FFn) (o : Ops)
  | ffma (h : Hdr) (f : FFn) (o : Ops)
  | fmin (h : Hdr) (f : FFn) (o : Ops)
  | fmax (h : Hdr) (f : FFn) (o : Ops)
  | fcmp (h : Hdr) (cond : Nat) (f : FTy) (o : Ops)
  | fcmpRflg (h : Hdr) (d : Nat)
  | fcmpCflg (h : Hdr) (d : Nat)
  | frcp (h : Hdr) (f : FFn) (o : Ops)
  | frsq (h : Hdr) (f : FFn) (o : Ops)
  | fsqrt (h : Hdr) (f : FFn) (o : Ops)
  | fexp2 (h : Hdr) (f : FFn) (o : Ops)
  | flog2 (h : Hdr) (f : FFn) (o : Ops)
  | fsin (h : Hdr) (f : FFn) (o : Ops)
  | fcos (h : Hdr) (f : FFn) (o : Ops)
  | ftanh (h : Hdr) (f : FFn) (o : Ops)
  | fcvt (h : Hdr) (d a : Nat) (xa : Pat) (n : Nat) (c : CvtD)
  | fround (h : Hdr) (f : FFn) (o : Ops)
  | qnt (h : Hdr) (push : Bool) (rm : Nat) (bf : Bool) (out : Nat) (d a : Nat) (xa : Pat) (b c : Nat)
  | dqnt (h : Hdr) (rm : Nat) (bf : Bool) (inp : Nat) (d a : Nat) (xa : Pat) (c : Nat)
  | amax (h : Hdr) (run : Bool) (f : FTy) (d a : Nat) (xa : Pat) (n : Nat)
  -- memory (06)
  | ld (h : Hdr) (o : MemOp)
  | st (h : Hdr) (o : MemOp)
  | ldu (h : Hdr) (o : MemOp)
  | stu (h : Hdr) (o : MemOp)
  | lds (h : Hdr) (o : MemOp)
  | sts (h : Hdr) (o : MemOp)
  | feset (h : Hdr) (o : MemOp)
  | fetest (h : Hdr) (o : MemOp)
  | pf (h : Hdr) (o : MemOp)
  -- spiral (07)
  | spdist (h : Hdr) (d a : Nat) (bv : Bool) (xa : Pat) (n : Nat)
  | sppin (h : Hdr) (d a : Nat)
  | spunpin (h : Hdr) (a : Nat)
  | sppull (h : Hdr) (a : Nat) (t : Src)
  | spclean (h : Hdr) (a b : Nat)
  | spinv (h : Hdr) (a b : Nat)
  | spflush (h : Hdr) (a b : Nat)
  -- ordering (08)
  | fence (h : Hdr) (kind scope : Nat)
  | atom (h : Hdr) (o : AtomOp)
  | atoms (h : Hdr) (o : AtomOp)
  | lr (h : Hdr) (o : AtomOp)
  | sc (h : Hdr) (o : AtomOp)
  -- synchronisation (09)
  | barinit (h : Hdr) (a b : Nat) (lock trap : Bool)
  | bararv (h : Hdr) (d a n : Nat) (lanes : Bool) (scope : Nat)
  | barwt (h : Hdr) (d a b c : Nat) (scope : Nat)
  | barq (h : Hdr) (d a : Nat) (clr : Bool)
  | lkacq (h : Hdr) (a scope : Nat)
  | lktry (h : Hdr) (d a scope : Nat)
  | lkrel (h : Hdr) (a scope : Nat)
  | grset (h : Hdr) (a b : Nat)
  | cvinit (h : Hdr) (cv b : Nat)
  | cvsign (h : Hdr) (d cv : Nat) (wt : Bool)
  | chsend (h : Hdr) (a c scope : Nat)
  | channelSlotWrite (g i : Nat)
  | chrecv (h : Hdr) (d a scope : Nat)
  -- asynchronous engines (10)
  | xcopy (h : Hdr) (o : XOp)
  | xfill (h : Hdr) (o : XOp)
  | xgath (h : Hdr) (o : XOp)
  | xcoll (h : Hdr) (o : XOp)
  | qput (h : Hdr) (d a q : Nat) (rec : Bool) (pd : Nat)
  | ftest (h : Hdr) (d a : Nat)
  | fwait (h : Hdr) (d a w : Nat)
  | fcancel (h : Hdr) (a : Nat)
  | fexp (h : Hdr) (d a : Nat)
  | fimp (h : Hdr) (d a : Nat)
  -- matrix (11)
  | mplane (h : Hdr) (d a c : Nat) (r srs fmt nw : Nat)
  | mwld (h : Hdr) (o : MOp)
  | mma (h : Hdr) (o : MOp)
  | macz (h : Hdr) (en mask : Nat)
  | macrd (h : Hdr) (o : MOp)
  | macwr (h : Hdr) (o : MOp)
  | mchain (h : Hdr) (n1 : Nat)
  | mstat (h : Hdr) (d en : Nat) (rel : Bool)
  -- work creation (12)
  | launch (h : Hdr) (d a q c : Nat) (dh gang ord : Bool) (pd : Nat)
  | wapp (h : Hdr) (d a pd : Nat)
  | wtake (h : Hdr) (d b pg pq : Nat)
  | widle (h : Hdr)
  -- system (14)
  | trap (h : Hdr) (code : Byte)
  | bkpt (h : Hdr) (tag : Byte)
  | sread (h : Hdr) (d num kind : Nat)
  | swriteFriv (h : Hdr) (a : Nat)
  | swriteSbchk (h : Hdr) (a : Nat)
  | swriteSpoob (h : Hdr) (a : Nat)
  | swriteNcw (h : Hdr) (a w : Nat)
  | pmrd (h : Hdr) (d sel : Nat)
  | sleep (h : Hdr) (a : Src)
  -- events of a group
  | sleepEnd (g : Nat)
  | barwtTimeout (g : Nat)
  | resultCommit (g i : Nat)
  | rotationRequest (g : Nat)
  | trapDeliver (g : Nat)
  | trapRecordWrite (ctx : Nat)
  | faultRecordWrite (ctx : Nat)
  | firmwareFaultCheck (ctx seq : Nat)
  | preemptRequest (g : Nat)
  | preemptTake (g : Nat)
  | preemptWithdraw (g : Nat)
  | preemptTimeout (g : Nat)
  | restore (g core slot : Nat)
  | gangAbort (g : Nat)
  | hiddenMoveOut (g : Nat)
  | hiddenRecall (g : Nat)
  | drydownFree (g : Nat)
  | gridEnd (grid : Nat)
  -- the abstract machine (08)
  | queueLeave (g i : Nat) (copy : Bool)
  | homeApply (i : Nat)
  | applyQueueHead (die src : Nat)
  | replyMerge (i : Nat)
  | writeBack (w : WbWhat)
  | externalWrite (e : ExtAct)
  | hostRead (pa : OutAdr) (n : Nat)
  | bisnpResponse (die : Nat)
  -- spiral (07)
  | promotionAccept (quad : Nat)
  | spiralAccessApply (quad i : Nat)
  | pullApply (quad i : Nat)
  | rangeStep (g i : Nat)
  -- engines (10, 11)
  | copyPacket (cpe ctx q : Nat)
  | fillPacket (cpe ctx q : Nat)
  | gatherPacket (cpe ctx q : Nat)
  | collectivePacket (cpe ctx q : Nat)
  | engineLineWrite (cpe job line : Nat)
  | engineComplete (cpe job : Nat)
  | leaseGrant (engine : Nat)
  | weightLoad (engine : Nat) (i : PortTurn)
  | arrayPass (engine : Nat) (i : PortTurn)
  | tilePortServe (engine : Nat) (i : PortTurn)
  -- dispatcher and curd (12)
  | launchPacket (die ctx q : Nat)
  | teamPlace (grid : Nat)
  | gangPacket (link ctx : Nat) (pkt : List W64)
  | gangAck (grid link : Nat) (ok : Bool)
  | gangTimeout (grid : Nat)
  | gangAbortMsg (grid : Nat)
  | gangEndReport (grid link : Nat)
  | itemArrive (die i : Nat)
  | quiescenceReport (grid : Nat)
  -- stack cores (13)
  | stackLaunch (die ctx q : Nat)
  | stackTaskStart (sc grid : Nat)
  | stackKernelEnd (grid : Nat)
  | stackPreempt (sc : Nat)
  | stackPreemptTimeout (sc : Nat)
  | stackRestore (sc : Nat)
  | rowStep (sc : Nat)
  | waitevWake (sc : Nat)
  | refreshInterval (ch : Nat)
  | refresh (ch : Nat)
  | laneRepair (ch : Nat) (phase : Repair)
  -- the stack-core instruction set (13)
  | sNop (h : Hdr)
  | sBra (h : Hdr) (mode : Nat) (imm : W32)
  | loop (h : Hdr) (d : Nat) (imm : W32)
  | sExit (h : Hdr)
  | waitev (h : Hdr) (a b cond : Nat)
  | srd (h : Hdr) (d num : Nat) (clr vec : Bool)
  | sAdd (h : Hdr) (f : IFn) (o : Ops)
  | sSub (h : Hdr) (f : IFn) (o : Ops)
  | sMul (h : Hdr) (f : IFn) (o : Ops)
  | sMad (h : Hdr) (f : IFn) (o : Ops)
  | sAnd (h : Hdr) (f : IFn) (o : Ops)
  | sOr (h : Hdr) (f : IFn) (o : Ops)
  | sXor (h : Hdr) (f : IFn) (o : Ops)
  | sShl (h : Hdr) (f : IFn) (o : Ops)
  | sShr (h : Hdr) (f : IFn) (o : Ops)
  | sCmp (h : Hdr) (f : IFn) (o : Ops)
  | sSel (h : Hdr) (f : IFn) (o : Ops) (p : Nat)
  | sMov (h : Hdr) (f : IFn) (o : Ops)
  | sMovi (h : Hdr) (f : IFn) (o : Ops)
  | sFadd (h : Hdr) (f : FFn) (o : Ops)
  | sFmul (h : Hdr) (f : FFn) (o : Ops)
  | sFfma (h : Hdr) (f : FFn) (o : Ops)
  | sFmin (h : Hdr) (f : FFn) (o : Ops)
  | sFmax (h : Hdr) (f : FFn) (o : Ops)
  | sFcvt (h : Hdr) (d a : Nat) (c : CvtD)
  | rld (h : Hdr) (a b rows1 : Nat)
  | rst (h : Hdr) (a b rows1 : Nat)
  | rldx (h : Hdr) (o : KOp)
  | rstx (h : Hdr) (o : KOp)
  | ratom (h : Hdr) (op ix d a b c : Nat)
  | vred (h : Hdr) (fl : Bool) (op : Nat) (t : ITy) (d a : Nat)
  | ldk (h : Hdr) (o : KOp)
  | stk (h : Hdr) (o : KOp)
  | post (h : Hdr) (d a b st : Nat)
  | sFence (h : Hdr)
  -- the system controller (14, 15)
  | resolve
  | resolveRefuse
  | trapactResume
  | trapactRetry
  | trapactEnd
  | trapactSave
  | shoot
  | shootComplete (i : Nat)
  | move
  | moveComplete (die i : Nat)
  | evict
  | stagedEvict (die unit : Nat)
  | fillEnter
  | fillLeave
  | pmcfg
  | ncwset
  | registerWrite (off : Nat) (v : W64)
  | warmReset (die : Nat) (byDriver : Bool)
  | warmResetReadmit (die : Nat) (ok : Bool)
  | routeSwitch (die : Nat)
  | drift (die tile : Nat)
  | accessNotice (die : Nat) (host : Bool) (region : Nat)
  | memerr (e : MemErr)
  | throttle (die : Nat) (on : Bool)
  | peerLinkState (link : Nat) (up : Bool)
  | coldReset (ctl disp ldr : Option Nat)
  | spdmRequest (nonce : Nat)
  | errorRecordWrite
  | noticeRecordWrite
  | reservedKindPacket (unit ctx q : Nat) (copyEngine : Bool)
  | unknownOpCommand
  | softErrorCorrected (die : Nat)
  deriving DecidableEq, Repr

end Sys2Proof
end

