-- ==== Sys2Proof/Machine/Spans.lean ====
section
/-! DEFINITION. Spans.lean: which registers an instruction reads and writes, as spans of one register file. One
table serves the odd-pair rule (02 R31), REGIDX (R29), STALLSHORT and the interlock (R38, R39). -/

namespace Sys2Proof

/-- Register files (02 R29, R41; 13 R282). -/
inductive RFile where | vec | sca | prd | hnd | cvr
  deriving DecidableEq, Repr

/-- `n` registers of a file from `base` on: a pair has n = 2, a `.b128` quad n = 4 (02 R31, 06 R134). -/
structure Span where
  f    : RFile
  base : Nat
  n    : Nat
  deriving DecidableEq, Repr

namespace Span
def v (r : Nat) (n : Nat := 1) : Span := ⟨.vec, r, n⟩
def s (r : Nat) (n : Nat := 1) : Span := ⟨.sca, r, n⟩
def p (r : Nat) : Span := ⟨.prd, r, 1⟩
def h (r : Nat) : Span := ⟨.hnd, r, 1⟩
def cv (r : Nat) : Span := ⟨.cvr, r, 1⟩
end Span

/-- W = 64 (04 R77). -/
def ITy.is64 : ITy → Bool
  | .i32 | .n32 => false
  | .i64 | .n64 => true

/-- An `.i` type (04 R77). -/
def ITy.signed : ITy → Bool
  | .i32 | .i64 => true
  | .n32 | .n64 => false

/-- Width of T in bits. -/
def ITy.bits (t : ITy) : Nat := if t.is64 then 64 else 32

/-- Registers a vector field of type T spans: 2 for a pair (04 R77). -/
def ITy.regs (t : ITy) : Nat := if t.is64 then 2 else 1

/-- Registers a vector field of format F spans (05 R105). -/
def FTy.regs : FTy → Nat
  | .f64 => 2
  | _ => 1

/-- The span of a source whose vector field names `w` registers. -/
def Src.spans (w : Nat) : Src → List Span
  | .vec r _ => [.v r w]
  | .sca r => [.s r]
  | _ => []

/-- A source uses pattern 0b110. -/
def Src.bcs : Src → Bool
  | .vec _ x => x.pat == .bcs
  | _ => false

/-- N is in use: one of the sources has pattern 0b110 (02 R32). -/
def Ops.bcs (o : Ops) : Bool := o.a.bcs || o.b.bcs

def nSpan (bcs : Bool) (n : Nat) : List Span := if bcs then [.s n] else []

/-- Source spans of an arithmetic instruction whose three sources span wa, wb, wc registers. -/
def Ops.reads (o : Ops) (wa wb wc : Nat) : List Span :=
  o.a.spans wa ++ o.b.spans wb ++ o.c.spans wc ++ nSpan o.bcs o.n

/-- The destination: a scalar in the scalar form (04 R79), else `w` vector registers. -/
def dst (s : Bool) (d w : Nat) : Span := if s then .s d else .v d w

/-- The predicate an instruction reads (02 R34). -/
def Hdr.reads (h : Hdr) : List Span := if h.pr = 0 then [] else [.p h.pr]

/-- Vector registers of an access of size code SZ (06 R134). -/
def szRegs (sz : Nat) : Nat := if sz = 5 then 2 else if sz = 6 then 4 else 1

/-- Spans of the address operands of the memory class (06 R133): a vector base is a pair but for window offsets. -/
def MemOp.addrSpans (o : MemOp) (win : Bool) : List Span :=
  [if o.bv then .v o.a (if win then 1 else 2) else .s o.a] ++ (if o.ix = 0 then [] else [.v o.b])

def AtomOp.addrSpans (o : AtomOp) (win : Bool) : List Span :=
  [if o.bv then .v o.a (if win then 1 else 2) else .s o.a] ++ (if o.ix = 0 then [] else [.v o.b])

def AtomOp.w (o : AtomOp) : Nat := if o.w64 then 2 else 1

/-- Registers of FCVT's type codes (05 R113): f64, i64 and n64 name pairs. -/
def cvtRegs (t : Nat) : Nat := if t = 1 || t = 9 || t = 13 then 2 else 1

def optS (c : Bool) (x : Span) : List Span := if c then [x] else []

/-- Registers an instruction reads. DESIGN CHOICE (log 83): B and C of a 64-bit BFX or BFI are single registers, of any number, since 04 R84 takes
32-bit values from them. DESIGN CHOICE (log 85): B of a 64-bit PERM is a single register, as R91's steps read it. -/
def Instr.reads : Instr → List Span
  | .brx h a n | .ret h a n => h.reads ++ a.spans 1 ++ nSpan a.bcs n
  | .callx h _ a n => h.reads ++ a.spans 1 ++ nSpan a.bcs n
  | .bra h _ | .call h _ _ | .exit h | .yield h _ => h.reads
  | .iadd h f o | .isub h f o | .imul h f o | .imulh h f o | .imad h f o | .imin h f o | .imax h f o | .iabs h f o
  | .and h f o | .or h f o | .xor h f o | .andn h f o | .popc h f o | .clz h f o | .brev h f o | .icmp h f o
  | .mov h f o => h.reads ++ o.reads f.t.regs f.t.regs f.t.regs
  | .isel h f o p => h.reads ++ o.reads f.t.regs f.t.regs 1 ++ [.p p]
  | .shl h f o | .shr h f o | .sra h f o | .lea h f o | .bfx h f o => h.reads ++ o.reads f.t.regs 1 1
  | .bfi h f o => h.reads ++ o.reads f.t.regs 1 1 ++ [dst f.s o.d f.t.regs]
  | .movi h _ _ => h.reads
  | .movw h f d _ _ => h.reads ++ [dst f.s d f.t.regs]
  | .plop h _ a b c _ => h.reads ++ [.p a, .p b, .p c]
  | .perm h w o => h.reads ++ o.reads (if w then 2 else 1) 1 1
  | .vote h _ _ a => h.reads ++ [.p a]
  | .red h _ t o | .scan h _ _ t o => h.reads ++ o.reads t.regs 1 1
  | .bcast h w fs _ _ a _ c => h.reads ++ [.v a (if w then 2 else 1)] ++ optS fs (.s c)
  | .shape _ m d ⟨a, xa, n⟩ => if m = 2 then [.v d] else .v a :: nSpan (xa == .bcs) n
  | .packl h w _ o _ => h.reads ++ o.reads (if w then 2 else 1) 1 1
  | .fadd h f o | .fsub h f o | .fmul h f o | .ffma h f o | .fmin h f o | .fmax h f o | .frcp h f o | .frsq h f o
  | .fsqrt h f o | .fexp2 h f o | .flog2 h f o | .fsin h f o | .fcos h f o | .ftanh h f o | .fround h f o =>
    h.reads ++ o.reads f.f.regs f.f.regs f.f.regs
  | .fcmp h _ f o => h.reads ++ o.reads f.regs f.regs f.regs
  | .fcvt h _ a xa n c => h.reads ++ [.v a (cvtRegs c.st)] ++ nSpan (xa == .bcs) n
  | .qnt h _ _ _ _ _ a _ b c => h.reads ++ [.v a, .s b, .s c]
  | .dqnt h _ _ _ _ a _ c => h.reads ++ [.v a, .s c]
  | .amax h _ _ d a xa n => h.reads ++ [.v a, .s d] ++ nSpan (xa == .bcs) n
  | .ld h o | .feset h o | .fetest h o | .pf h o => h.reads ++ o.addrSpans false
  | .st h o => h.reads ++ o.addrSpans false ++ [.v o.d (szRegs o.sz)]
  | .ldu h o => h.reads ++ [.s o.a]
  | .stu h o => h.reads ++ [.s o.a] ++ [if o.bv then .s o.d else .v o.d (szRegs o.sz)]
  | .lds h o => h.reads ++ o.addrSpans true
  | .sts h o => h.reads ++ o.addrSpans true ++ [.v o.d (szRegs o.sz)]
  | .spdist h _ a bv xa n => h.reads ++ [if bv then .v a 2 else .s a] ++ nSpan (xa == .bcs) n
  | .sppin h _ a | .spunpin h a => h.reads ++ [.s a]
  | .sppull h a t => h.reads ++ [.s a] ++ t.spans 1
  | .spclean h a b | .spinv h a b | .spflush h a b => h.reads ++ [.s a, .s b]
  | .atom h o => h.reads ++ o.addrSpans false ++ [.v o.c o.w] ++ optS (o.op == 7) (.v o.e o.w)
  | .atoms h o => h.reads ++ o.addrSpans true ++ [.v o.c o.w] ++ optS (o.op == 7) (.v o.e o.w)
  | .lr h o => h.reads ++ o.addrSpans false
  | .sc h o => h.reads ++ o.addrSpans false ++ [.v o.c o.w]
  | .barinit h a b lock _ => h.reads ++ [.s a] ++ optS (!lock) (.s b)
  | .bararv h _ a _ _ _ | .barq h _ a _ | .lkacq h a _ | .lktry h _ a _ | .lkrel h a _ => h.reads ++ [.s a]
  | .barwt h _ a b c _ => h.reads ++ [.s a, .s b, .s c]
  | .grset h a b => h.reads ++ [.s a, .s b]
  | .cvinit h _ b => h.reads ++ [.s b]
  | .cvsign h _ _ _ => h.reads
  | .chsend h a c _ => h.reads ++ [.s a, .v c]
  | .chrecv h _ a _ => h.reads ++ [.s a]
  | .xcopy h o | .xcoll h o => h.reads ++ [.s o.a, .s o.b, .s o.c]
  | .xfill h o => h.reads ++ [.s o.a, .s o.b (if o.f.esz = 4 then 2 else 1), .s o.c]
  | .xgath h o => h.reads ++ [.s o.a, .s o.b, .s o.c, .s o.f.sr, .s o.f.sn]
  | .qput h _ a _ _ _ => h.reads ++ [.s a]
  | .ftest h _ a | .fwait h _ a _ | .fcancel h a | .fexp h _ a => h.reads ++ [.h a]
  | .fimp h _ a => h.reads ++ [.s a]
  | .mplane h d a c _ _ fmt _ => h.reads ++ [.s d, .s a] ++ optS (fmt == 0) (.s c)
  | .mwld h o => h.reads ++ [.s o.a] ++ optS o.f.wh (.s o.c)
  | .mma h o => h.reads ++ [.s o.a]
  | .macrd h o | .macwr h o => h.reads ++ [.s o.a, .s o.b] ++ optS o.f.wh (.h o.c)
  | .macz h _ _ | .mchain h _ | .mstat h _ _ _ => h.reads
  | .launch h _ a _ c dh _ _ _ => h.reads ++ [.s a] ++ optS dh (.h c)
  | .wapp h d a _ => h.reads ++ [.v d 4, .v a]
  | .wtake h d b _ _ => h.reads ++ [.s b, .v d 4]
  | .widle h | .trap h _ | .bkpt h _ => h.reads
  | .swriteFriv _ a | .swriteSbchk _ a | .swriteSpoob _ a => [.s a]
  | .swriteNcw _ a _ => [.s a 2]
  | .sleep h a => h.reads ++ a.spans 1
  -- stack cores (13 R290); a 64-bit scalar is one register (R282)
  | .loop _ d _ => [.s d]
  | .waitev _ a b _ => [.s a, .s b]
  | .sBra h _ _ => h.reads
  | .sAdd h _ o | .sSub h _ o | .sMul h _ o | .sMad h _ o | .sAnd h _ o | .sOr h _ o | .sXor h _ o | .sShl h _ o
  | .sShr h _ o | .sCmp h _ o | .sMov h _ o | .sMovi h _ o => h.reads ++ o.reads 1 1 1
  | .sSel h _ o p => h.reads ++ o.reads 1 1 1 ++ [.p p]
  | .sFadd h _ o | .sFmul h _ o | .sFfma h _ o | .sFmin h _ o | .sFmax h _ o => h.reads ++ o.reads 1 1 1
  | .sFcvt h _ a _ => h.reads ++ [.v a]
  | .rld _ a b _ | .rst _ a b _ => [.s a, .s b]
  | .rldx h o => h.reads ++ [.s o.a] ++ optS (o.ix != 0) (.v o.b)
  | .rstx h o => h.reads ++ [.s o.a, .v o.d] ++ optS (o.ix != 0) (.v o.b)
  | .ratom h _ ix _ a b c => h.reads ++ [.s a, .v c] ++ optS (ix != 0) (.v b)
  | .vred h _ _ _ _ a => h.reads ++ [.v a]
  | .ldk h o => h.reads ++ [.s o.a] ++ optS (o.ix != 0) (.v o.b)
  | .stk h o => h.reads ++ [.s o.a, dst o.sd o.d 1] ++ optS (o.ix != 0) (.v o.b)
  | .post _ d a b _ => [.s d, .s a, .s b]
  | _ => []

/-- Registers an instruction writes. -/
def Instr.writes : Instr → List Span
  | .call _ d _ | .callx _ d _ _ => [.v d]
  | .iadd _ f o | .isub _ f o | .imul _ f o | .imulh _ f o | .imad _ f o | .imin _ f o | .imax _ f o | .iabs _ f o
  | .and _ f o | .or _ f o | .xor _ f o | .andn _ f o | .popc _ f o | .clz _ f o | .brev _ f o | .isel _ f o _
  | .mov _ f o | .shl _ f o | .shr _ f o | .sra _ f o | .lea _ f o | .bfx _ f o | .bfi _ f o | .movi _ f o =>
    [dst f.s o.d f.t.regs]
  | .icmp _ _ o => [.p o.d]
  | .movw _ f d _ _ => [dst f.s d f.t.regs]
  | .plop _ d _ _ _ _ => [.p d]
  | .perm _ w o => [.v o.d (if w then 2 else 1)]
  | .vote _ m d _ => [if m = 3 then .s d else .p d]
  | .red _ _ _ o => [.s o.d]
  | .scan _ _ _ t o => [.v o.d t.regs]
  | .bcast _ w _ ts d _ _ _ => [dst ts d (if w then 2 else 1)]
  | .shape _ m d _ => [if m = 2 then .v d else .s d]
  | .packl _ w cnt o c => [.v o.d (if w then 2 else 1)] ++ optS cnt (.s c)
  | .fadd _ f o | .fsub _ f o | .fmul _ f o | .ffma _ f o | .fmin _ f o | .fmax _ f o | .frcp _ f o | .frsq _ f o
  | .fsqrt _ f o | .fexp2 _ f o | .flog2 _ f o | .fsin _ f o | .fcos _ f o | .ftanh _ f o | .fround _ f o =>
    [.v o.d f.f.regs]
  | .fcmp _ _ _ o => [.p o.d]
  | .fcmpRflg _ d | .fcmpCflg _ d => [.s d]
  | .fcvt _ d _ _ _ c => [.v d (cvtRegs c.dt)]
  | .qnt _ _ _ _ _ d _ _ _ c => [.v d, .s c]
  | .dqnt _ _ _ _ d _ _ _ => [.v d]
  | .amax _ _ _ d _ _ _ => [.s d]
  | .ld _ o | .lds _ o => [.v o.d (szRegs o.sz)]
  | .ldu _ o => [if o.bv then .s o.d else .v o.d (szRegs o.sz)]
  | .fetest _ o => [.p o.d]
  | .spdist _ d _ _ _ _ => [.v d]
  | .sppin _ d _ => [.p d]
  | .atom _ o | .atoms _ o => optS (!o.nr) (.v o.d o.w)
  | .lr _ o => [.v o.d o.w]
  | .sc _ o => [.p o.d]
  | .bararv _ d _ _ _ _ => [.s d]
  | .barwt _ d _ _ _ _ | .lktry _ d _ _ => [.p d]
  | .barq _ d _ _ => [.s d 2]
  | .cvinit _ c _ => [.cv c]
  | .cvsign _ d _ _ => [.s d]
  | .chrecv _ d _ _ => [.v d]
  | .xcopy _ o | .xfill _ o | .xgath _ o | .xcoll _ o => [.h o.d, .p o.f.pd]
  | .qput _ d _ _ rec pd => optS rec (.h d) ++ [.p pd]
  | .ftest _ d _ => [.p d]
  | .fwait _ d _ _ | .fexp _ d _ => [.s d]
  | .fimp _ d _ => [.h d]
  | .mwld _ o | .mma _ o | .macrd _ o | .macwr _ o => [.h o.d, .p o.f.pd]
  | .mstat _ d _ _ => [.s d]
  | .launch _ d _ _ _ _ _ _ pd => [.h d, .p pd]
  | .wapp _ _ _ pd => [.p pd]
  | .wtake _ d _ pg pq => [.v d 4, .p pg, .p pq]
  | .sread _ d _ k => [if k = 0 then .s d else if k = 1 then .v d else if k = 2 then .p d else .s d 2]
  | .pmrd _ d _ => [.s d]
  | .loop _ d _ => [.s d]
  | .srd _ d _ _ vec => [dst (!vec) d 1]
  | .sAdd _ f o | .sSub _ f o | .sMul _ f o | .sMad _ f o | .sAnd _ f o | .sOr _ f o | .sXor _ f o | .sShl _ f o
  | .sShr _ f o | .sSel _ f o _ | .sMov _ f o | .sMovi _ f o => [dst f.s o.d 1]
  | .sCmp _ _ o => [.p o.d]
  | .sFadd _ _ o | .sFmul _ _ o | .sFfma _ _ o | .sFmin _ _ o | .sFmax _ _ o => [.v o.d]
  | .sFcvt _ d _ _ => [.v d]
  | .rldx _ o => [.v o.d]
  | .ratom _ _ _ d _ _ _ => [.v d]
  | .vred _ _ _ _ d _ => [.s d]
  | .ldk _ o => [dst o.sd o.d 1]
  | _ => []

end Sys2Proof
end

