-- ==== Sys2Proof/Machine/Legal.lean ====
section
/-! DEFINITION. Legal.lean: the encoding rules whose failure raises ILLEGAL (02 R46 and each opcode's description),
as one Boolean function of the instruction. Field widths and unused fields are the decoder's. -/

namespace Sys2Proof

/-- Amount of a pattern outside the extended crossbar layout (02 R32). -/
def Pat.implied : Pat → Nat
  | .rot | .rotn | .bfly => 1
  | _ => 0

/-- Amounts a pattern admits: 0 to 127, and 0 for patterns 0b000, 0b100 and 0b110 (02 R32). -/
def Xb.ok (x : Xb) (ext : Bool) : Bool :=
  if ext then x.amt < 128 && (x.amt == 0 || !(x.pat == .id || x.pat == .mir || x.pat == .bcs))
  else x.amt == x.pat.implied

def Xb.idn : Xb := ⟨.id, 0⟩

/-- One arithmetic row: its sources, its lengths, which source the 128-bit immediate replaces (0 none, 2 B, 3 C),
scalars by SA, SB, SC, U and S (04 R78, 05 R105). -/
structure Row where
  srcs : Nat
  l128 : Bool
  imm  : Nat
  scs  : Bool
  u    : Bool
  s    : Bool
  deriving DecidableEq, Repr

def Row.bin : Row := ⟨2, true, 2, false, true, true⟩
def Row.un : Row := ⟨1, false, 0, false, true, true⟩
def Row.tri : Row := ⟨3, true, 3, true, true, true⟩
/-- Floating rows have no S (05 R105). -/
def Row.flt (r : Row) : Row := { r with s := false }
/-- A row of the lane-movement class: no U, no S, no scalar source (04 R90). -/
def Row.lane (n : Nat) : Row := ⟨n, false, 0, false, false, false⟩

def srcOk (ext sForm scOk : Bool) : Src → Bool
  | .vec r x => !sForm && r < 256 && x.ok ext
  | .sca r => r < 256 && (sForm || (ext && scOk))
  | _ => false

/-- The immediate fits its width; a narrower one leaves the rest of the extension zero (04 R78, 05 R106). -/
def immOk (w : Nat) : Src → Bool
  | .imm v => v.toNat < 2 ^ w
  | _ => false

def Src.isNone : Src → Bool
  | .none => true
  | _ => false

/-- N names a scalar where pattern 0b110 is in use and is 0 elsewhere (02 R32). -/
def nOk (bcs : Bool) (n : Nat) : Bool := if bcs then n < 256 else n == 0

/-- The operands of an arithmetic row with an immediate of `w` bits; `cUsed` says that C has another use in the forms
outside the extended crossbar layout (02 R32). `lane` rows take no SA, SB, SC. -/
def Ops.ok (h : Hdr) (row : Row) (sForm lane cUsed : Bool) (w : Nat) (o : Ops) : Bool :=
  let ext := h.len == .l96
  let i := if h.len == .l128 then row.imm else 0
  (row.l128 || h.len != .l128) && o.d < 256 &&
  srcOk ext sForm (!lane) o.a &&
  (if row.srcs < 2 then o.b.isNone else if i = 2 then immOk w o.b else srcOk ext sForm (!lane) o.b) &&
  (if row.srcs < 3 then o.c.isNone
   else if i = 3 then immOk w o.c
   else srcOk ext sForm row.scs o.c && (match o.c with | .vec _ x => x == Xb.idn | _ => true)) &&
  (ext || !(cUsed && o.bcs)) && nOk o.bcs o.n

/-- U = 1 is permitted and no pattern is other than the identity (02 R35). -/
def uOk (h : Hdr) (permit : Bool) (o : Ops) : Bool :=
  !h.u || (permit && (match o.a with | .vec _ x => x.pat == .id | _ => true) &&
    (match o.b with | .vec _ x => x.pat == .id | _ => true))

def Span.aligned (x : Span) : Bool := x.base % x.n == 0

/-- Pairs and quads are aligned (02 R31, 06 R134), predicates, handles and convergence registers exist (R29). -/
def Span.ok (x : Span) : Bool :=
  x.aligned && (match x.f with | .prd => x.base < 8 | .hnd => x.base < 16 | .cvr => x.base < 8 | _ => true)

def spansOk (i : Instr) : Bool := i.reads.all Span.ok && i.writes.all Span.ok

def l64 (h : Hdr) : Bool := h.len == .l64
def l96 (h : Hdr) : Bool := h.len == .l96
def l128 (h : Hdr) : Bool := h.len == .l128
/-- Stall count and predicate of a predicated instruction, without U. -/
def prd (h : Hdr) : Bool := h.stall < 16 && h.pr < 8
/-- Unpredicated: PRED is 0b0000 (02 R34). -/
def unp (h : Hdr) : Bool := h.stall < 16 && h.pr == 0 && !h.neg
def noU (h : Hdr) : Bool := !h.u

/-- The integer rows (04 R78): M is 0b000 unless the opcode gives it a meaning; S excludes U (R79). -/
def iRow (h : Hdr) (row : Row) (cUsed : Bool) (f : IFn) (o : Ops) : Bool :=
  prd h && f.m < 8 && (!f.s || (row.s && !h.u)) && uOk h row.u o && o.ok h row f.s false cUsed f.t.bits

def m0 (f : IFn) : Bool := f.m == 0

/-- The floating rows (05 R105, R106). -/
def fBits : FTy → Nat
  | .f32 => 32
  | .f64 => 64
  | .f16 | .bf16 => 16

def fRow (h : Hdr) (row : Row) (cUsed : Bool) (f : FTy) (o : Ops) : Bool :=
  prd h && uOk h row.u o && o.ok h row false false cUsed (fBits f)

def fArith (f : FFn) (rm n : Bool) : Bool := (rm || f.rm == 0) && f.rm < 4 && (n || (!f.n1 && !f.n2))

/-- Target of BRX, CALLX and RET (03 R67). -/
def tgtOk (h : Hdr) (a : Src) (n : Nat) : Bool :=
  prd h && noU h && (l64 h || l96 h) && srcOk (l96 h) false true a && nOk a.bcs n

/-- BFX and BFI (04 R84). -/
def bfOk (h : Hdr) (f : IFn) (o : Ops) : Bool :=
  prd h && m0 f && (!f.s || !h.u) && uOk h true o && o.d < 256 && !o.bcs && o.n == 0 &&
  srcOk false f.s false o.a &&
  (if l96 h then
    (match o.b, o.c with
     | .imm p, .imm w => p.toNat < f.t.bits && w.toNat ≤ f.t.bits
     | _, _ => false)
   else l64 h && srcOk false f.s false o.b && srcOk false f.s false o.c &&
    (match o.c with | .vec _ x => x == Xb.idn | _ => true))

/-- The offset of LEA: 8 bits in the 64-bit and 96-bit forms (04 R87). -/
def leaOk (h : Hdr) (f : IFn) (o : Ops) : Bool :=
  iRow h ⟨2, true, 0, false, true, true⟩ true f { o with c := .none } &&
  immOk (if l128 h then f.t.bits else 8) o.c

/-- MOVI (04 R88): the 128-bit form needs a 64-bit type. -/
def moviOk (h : Hdr) (f : IFn) (o : Ops) : Bool :=
  prd h && noU h && m0 f && o.d < 256 && o.b.isNone && o.c.isNone && o.n == 0 &&
  (match h.len with
   | .l64 => immOk 8 o.a
   | .l96 => immOk 32 o.a
   | .l128 => f.t.is64 && immOk 64 o.a)

/-- Shared by the memory class (06 R133-R135): 64 or 96 bits, modifier zero in the 64-bit form. -/
def memOk (h : Hdr) (o : MemOp) : Bool :=
  prd h && noU h && o.d < 256 && o.a < 256 && o.b < 256 && o.sz < 8 && o.ix < 3 && o.fe < 3 && o.ord < 6 &&
  o.xa != .bcs && o.xb != .bcs && (o.bv || o.xa == .id) && (o.ix != 0 || (o.b == 0 && o.xb == .id && !o.nx)) &&
  (l96 h || (l64 h && !o.nx && o.fe == 0 && !o.far && o.ord == 0 &&
    o.off == ((o.off.truncate 8 : Byte).signExtend 32))) &&
  !(o.fe != 0 && o.far)

def szLd (n : Nat) : Bool := n < 7
def szSt (n : Nat) : Bool := n < 7 && n != 1 && n != 3
def noMod (o : MemOp) : Bool := !o.nx && o.fe == 0 && !o.far && o.ord == 0

/-- LDU and STU: no index; BV is SD, which excludes `.b128` (06 R134). -/
def luOk (h : Hdr) (o : MemOp) : Bool :=
  memOk h { o with bv := true } && o.ix == 0 && o.xa == .id && !(o.bv && o.sz == 6)

/-- ATOM, ATOMS, LR, SC (08 R186, R187). -/
def atomOk (h : Hdr) (o : AtomOp) : Bool :=
  prd h && noU h && l96 h && o.op < 9 && o.ix < 3 && o.d < 256 && o.a < 256 && o.b < 256 && o.c < 256 && o.e < 256 &&
  o.xa != .bcs && o.xb != .bcs && (o.bv || o.xa == .id) && (o.ix != 0 || (o.b == 0 && o.xb == .id && !o.nx)) &&
  o.kind < 4 && o.scope < 6 && ((o.kind == 0) == (o.scope == 0)) && (o.op == 7 || o.e == 0) &&
  (!o.sgn || o.op == 1 || o.op == 2) && (!o.nr || o.d == 0)

/-- The engine field set (10 R226): fields of other opcodes are zero. -/
def xOk (h : Hdr) (o : XOp) (gath coll el : Bool) : Bool :=
  prd h && noU h && l128 h && o.d < 16 && o.a < 256 && o.b < 256 && o.c < 256 && o.q < 64 &&
  (if gath then o.f.rb != 0 && o.f.rb < 65536 && o.f.sr < 256 && o.f.sn < 256
   else o.f.rb == 0 && o.f.sr == 0 && o.f.sn == 0) &&
  (if coll then 1 ≤ o.f.k && o.f.k < 8 && o.f.cop < 3 && o.f.cfmt < 4 else o.f.k == 0 && o.f.cop == 0 && o.f.cfmt == 0) &&
  (if el then o.f.esz < 5 else o.f.esz == 0) && o.f.pd < 8

/-- The matrix formats and declared widths (11 R238). -/
def mFmt (fmt nw : Nat) : Bool :=
  fmt < 7 && (nw == 0 || (fmt == 5 && nw < 3) || (fmt == 6 && nw < 7))

/-- The matrix field set (11 R239); every field without a meaning for the opcode is zero. -/
def mOk (h : Hdr) (o : MOp) : Bool :=
  prd h && noU h && l128 h && o.d < 16 && o.a < 256 && o.b < 256 && o.c < 256 && o.set < 8 &&
  1 ≤ o.f.n && o.f.n ≤ 256 && o.f.row < 256 && o.f.pri < 4 && o.f.fmt < 16 && o.f.nw < 16 && o.f.ws < 8 && o.f.tl < 4 &&
  o.f.rm < 4 && o.f.en < 3 && o.f.pd < 8

def once64 (h : Hdr) : Bool := prd h && noU h && l64 h

/-- Conversion descriptors (05 R113). -/
def cvtOk (c : CvtD) : Bool :=
  c.rm < 5 && c.st < 14 && c.dt < 14 && !(6 ≤ c.st && 6 ≤ c.dt) && !(c.sat && 6 ≤ c.dt)

/-- Kinds of SREAD by register (14 R324). -/
def sreadOk (num kind : Nat) : Bool :=
  if num = 0 ∨ num = 2 then kind == 1
  else if num = 1 then kind == 2
  else if num = 7 ∨ num = 13 ∨ num = 14 ∨ num = 15 then kind == 0
  else if num < 13 then kind < 2
  else 16 ≤ num && num < 32 && kind == 3

/-- Counter selectors (14 R326). -/
def pmSelOk (sel : Nat) : Bool :=
  if sel < 64 then sel < 8 else if sel < 128 then sel < 72 else 128 ≤ sel && sel < 144

/-- Stack-core headers: bit 2 is zero, q0-q3 (13 R287, R289). -/
def sPrd (h : Hdr) : Bool := h.stall < 16 && !h.u && h.pr < 4
def sUnp (h : Hdr) : Bool := h.stall < 16 && !h.u && h.pr == 0 && !h.neg

def sSrc (sForm bx : Bool) : Src → Bool
  | .vec r x => !sForm && r < 64 && x == Xb.idn
  | .sca r => r < 32 && (sForm || bx)
  | _ => false

/-- Sources of a stack arithmetic row: `srcs` register sources, the last of which a 96-bit immediate of `w` bits
replaces; B may be scalar by BX (13 R290, R295). -/
def sOps (h : Hdr) (srcs w : Nat) (sForm dS : Bool) (o : Ops) : Bool :=
  (l64 h || l96 h) && o.n == 0 && (if dS then o.d < 32 else o.d < 64) && sSrc sForm false o.a &&
  (if srcs = 2 then (if l96 h then immOk w o.b else sSrc sForm true o.b) && o.c.isNone
   else sSrc sForm true o.b && (if l96 h then immOk w o.c else sSrc sForm false o.c))

/-- T on a stack core: 64-bit types only in the scalar form (13 R295). -/
def sTy (f : IFn) : Bool := f.s || !f.t.is64

def sInt (h : Hdr) (srcs : Nat) (f : IFn) (o : Ops) : Bool := sPrd h && m0 f && sTy f && sOps h srcs 32 f.s f.s o

def sFlt (h : Hdr) (srcs : Nat) (f : FFn) (rm n : Bool) (o : Ops) : Bool :=
  sPrd h && f.f != .f64 && fArith f rm n && sOps h srcs (fBits f.f) false false o

def sOnce (h : Hdr) : Bool := sPrd h && l64 h

/-- Every encoding rule of the instruction. Events are not encoded. DESIGN CHOICE (log 86): where PACKL's pattern takes its amount N from field C (02
R29, R32, R46), C holds N in the form that 04 R96 has C zero in. -/
def legal (i : Instr) : Bool :=
  spansOk i &&
  match i with
  | .nop h => unp h && noU h
  | .bra h imm => prd h && noU h && l96 h && imm.toNat % 4 == 0
  | .call h d imm => prd h && noU h && l96 h && d < 256 && imm.toNat % 4 == 0
  | .brx h a n | .ret h a n => tgtOk h a n
  | .callx h d a n => tgtOk h a n && d < 256
  | .exit h => once64 h
  | .tail h => unp h && noU h && l64 h
  | .yield h _ => once64 h
  | .iadd h f o | .isub h f o | .imul h f o | .imulh h f o | .imin h f o | .imax h f o | .shl h f o | .shr h f o
  | .sra h f o | .and h f o | .or h f o | .xor h f o | .andn h f o => iRow h .bin false f o && m0 f
  | .imad h f o => iRow h .tri true f o && m0 f
  | .iabs h f o => iRow h .un false f o && m0 f && f.t.signed
  | .popc h f o | .clz h f o | .brev h f o | .mov h f o => iRow h .un false f o && m0 f
  | .bfx h f o | .bfi h f o => bfOk h f o
  | .isel h f o p => iRow h ⟨2, true, 2, false, false, false⟩ true f o && m0 f && p < 8
  | .icmp h f o => iRow h ⟨2, true, 2, false, true, false⟩ false f o && f.m < 6 && o.d < 8
  | .lea h f o => leaOk h f o
  | .movi h f o => moviOk h f o
  | .movw h f d _ piece => prd h && noU h && l96 h && m0 f && d < 256 && (piece < 2 || (piece < 4 && f.t.is64))
  | .plop h d a b c _ => prd h && noU h && l96 h && d < 8 && a < 8 && b < 8 && c < 8
  | .perm h _ o => prd h && uOk h false o && o.ok h (.lane 2) false true false 0
  | .vote h m d a => once64 h && m < 4 && d < 256 && a < 8
  | .red h op _ o | .scan h _ op _ o => prd h && uOk h false o && op < 6 && o.ok h (.lane 1) false true false 0
  | .bcast h _ fs _ d a xa c => once64 h && d < 256 && a < 256 && xa != .bcs && (if fs then c < 256 else c < 128)
  | .shape h m d ⟨a, xa, n⟩ => unp h && noU h && l64 h && m < 3 && d < 256 && (if m = 2 then a == 0 && xa == .id && n == 0 else a < 256 && nOk (xa == .bcs) n)
  | .packl h _ cnt o c => prd h && uOk h false o && (if cnt then c < 256 else c == 0) && o.ok h (.lane 1) false true cnt 0
  | .fadd h f o | .fsub h f o | .fmul h f o => fRow h (.flt .bin) false f.f o && fArith f true false
  | .ffma h f o => fRow h (.flt .tri) true f.f o && fArith f true true
  | .fmin h f o | .fmax h f o => fRow h (.flt .bin) false f.f o && fArith f false false
  | .fcmp h cond f o => fRow h (.flt .bin) false f o && cond < 8 && o.d < 8
  | .fcmpRflg h d | .fcmpCflg h d => unp h && noU h && l64 h && d < 256
  | .frcp h f o | .fsqrt h f o | .fround h f o => fRow h (.flt .un) false f.f o && fArith f true false
  | .frsq h f o | .fexp2 h f o | .flog2 h f o | .fsin h f o | .fcos h f o | .ftanh h f o =>
    fRow h (.flt .un) false f.f o && fArith f false false
  | .fcvt h d a xa n c => prd h && l96 h && (!h.u || xa == .id) && d < 256 && a < 256 && nOk (xa == .bcs) n && cvtOk c
  | .qnt h _ rm _ out d a xa b c => once64 h && rm < 3 && out < 4 && d < 256 && a < 256 && xa != .bcs && b < 256 && c < 256
  | .dqnt h rm _ inp d a xa c =>
    once64 h && rm < 4 && inp < 4 && d < 256 && a < 256 && xa != .bcs && (inp != 2 || xa == .id) && c < 256
  | .amax h _ f d a xa n => once64 h && f != .f64 && d < 256 && a < 256 && nOk (xa == .bcs) n
  | .ld h o | .lds h o => memOk h o && szLd o.sz && (match i with | .lds _ o => !o.far | _ => true)
  | .st h o | .sts h o => memOk h o && szSt o.sz && o.fe == 0 && (match i with | .sts _ o => !o.far | _ => true)
  | .ldu h o => luOk h o && szLd o.sz
  | .stu h o => luOk h o && szSt o.sz && o.fe == 0
  | .feset h o => memOk h o && o.sz < 2 && o.d == 0 && noMod o
  | .fetest h o => memOk h o && o.sz == 0 && o.d < 8 && noMod o
  | .pf h o => memOk h o && o.sz < 2 && o.d == 0 && o.ix != 1 && noMod o
  | .spdist h d a bv xa n => once64 h && d < 256 && a < 256 && (bv || xa == .id) && nOk (xa == .bcs) n
  | .sppin h d a => once64 h && d < 8 && a < 256
  | .spunpin h a => once64 h && a < 256
  | .sppull h a t =>
    prd h && noU h && a < 256 && (match h.len, t with
      | .l64, .sca b => b < 256
      | .l96, .imm v => v.toNat < 65536
      | _, _ => false)
  | .spclean h a b | .spinv h a b | .spflush h a b => once64 h && a < 256 && b < 256
  | .fence h k sc => unp h && noU h && l64 h && k < 3 && 1 ≤ sc && sc < 6
  | .atom h o | .atoms h o => atomOk h o
  | .lr h o => atomOk h o && o.op == 0 && o.c == 0 && o.e == 0 && !o.sgn && !o.nr && o.kind < 2
  | .sc h o => atomOk h o && o.op == 0 && o.e == 0 && !o.sgn && !o.nr && (o.kind == 0 || o.kind == 2) && o.d < 8
  | .barinit h a b lock trap => once64 h && a < 256 && b < 256 && (!lock || (!trap && b == 0))
  | .bararv h d a n lanes scope =>
    once64 h && d < 256 && a < 256 && scope < 6 && (if lanes then n == 0 else 1 ≤ n && n ≤ 128)
  | .barwt h d a b c scope => once64 h && d < 8 && a < 256 && b < 256 && c < 256 && scope < 6
  | .barq h d a _ => once64 h && d < 256 && a < 256
  | .lkacq h a scope | .lkrel h a scope => once64 h && a < 256 && scope < 6
  | .lktry h d a scope => once64 h && d < 8 && a < 256 && scope < 6
  | .grset h a b => once64 h && a < 256 && b < 256
  | .cvinit h c b => once64 h && c < 8 && b < 256
  | .cvsign h d c _ => once64 h && d < 256 && c < 8
  | .chsend h a c scope => once64 h && a < 256 && c < 256 && scope < 6
  | .chrecv h d a scope => once64 h && d < 256 && a < 256 && scope < 6
  | .xcopy h o => xOk h o false false true
  | .xfill h o => xOk h o false false true
  | .xgath h o => xOk h o true false false
  | .xcoll h o => xOk h o false true false
  | .qput h d a q rec pd => prd h && noU h && l96 h && a < 256 && q < 64 && pd < 8 && (if rec then d < 16 else d == 0)
  | .ftest h d a => once64 h && d < 8 && a < 16
  | .fwait h d a w => once64 h && d < 256 && a < 16 && w < 4
  | .fcancel h a => once64 h && a < 16
  | .fexp h d a => once64 h && d < 256 && a < 16
  | .fimp h d a => once64 h && d < 16 && a < 256
  | .mplane h d a c r srs fmt nw =>
    prd h && noU h && l128 h && d < 256 && a < 256 && (if fmt = 0 then c < 256 else c == 0) &&
    1 ≤ r && r ≤ 256 && 1 ≤ srs && srs < 65536 && mFmt fmt nw
  | .mwld h o =>
    mOk h o && o.b == 0 && (o.f.wh || o.c == 0) && mFmt o.f.fmt o.f.nw && (!o.f.acc || o.set == 0) &&
    o.f.row == 0 && o.f.pri == 0 && !o.f.z && !o.f.shp && o.f.ws == 0 && o.f.tl == 0 && !o.f.cls && !o.f.sat && o.f.rm == 0
  | .mma h o =>
    mOk h o && o.b == 0 && o.c < 8 && o.set == 0 && mFmt o.f.fmt o.f.nw && o.f.row == 0 &&
    (!o.f.shp || (o.f.ws == 0 && o.f.tl == 0)) && !o.f.sat && o.f.rm == 0 && o.f.en == 0 && !o.f.acc && !o.f.wh
  | .macz h en mask => once64 h && en < 3 && 1 ≤ mask && mask < 16
  | .macrd h o =>
    mOk h o && (if o.f.wh then o.c < 16 else o.c == 0) && o.set == 0 && o.f.row + o.f.n ≤ 256 && o.f.pri == 0 &&
    !o.f.shp && o.f.fmt < 8 && o.f.nw == 0 && o.f.ws == 0 && !o.f.cls && !o.f.acc &&
    !(o.f.sat && (o.f.fmt == 5 || o.f.fmt == 6 || o.f.fmt == 7)) && (o.f.fmt != 7 || o.f.rm == 0)
  | .macwr h o =>
    mOk h o && (if o.f.wh then o.c < 16 else o.c == 0) && o.set == 0 && o.f.row + o.f.n ≤ 256 && o.f.pri == 0 &&
    !o.f.z && !o.f.shp && (o.f.fmt < 3 || o.f.fmt == 5 || o.f.fmt == 7) && o.f.nw == 0 && o.f.ws == 0 && !o.f.cls &&
    !o.f.sat && o.f.rm == 0 && !o.f.acc
  | .mchain h n1 => once64 h && n1 < 3
  | .mstat h d en rel => once64 h && d < 256 && en < 3 && (!rel || en == 0)
  | .launch h d a q c dh _ _ pd =>
    prd h && noU h && l96 h && d < 16 && a < 256 && q < 64 && (if dh then c < 16 else c == 0) && pd < 8
  | .wapp h d a pd => once64 h && d < 256 && a < 256 && pd < 8
  | .wtake h d b pg pq => once64 h && d < 256 && b < 256 && pg < 8 && pq < 8 && pg != pq
  | .widle h => once64 h
  | .trap h _ | .bkpt h _ => once64 h
  | .sread h d num kind => unp h && noU h && l64 h && d < 256 && kind < 4 && sreadOk num kind
  | .swriteFriv h a | .swriteSbchk h a | .swriteSpoob h a => unp h && noU h && l64 h && a < 256
  | .swriteNcw h a w => unp h && noU h && l64 h && a < 256 && w < 16
  | .pmrd h d sel => unp h && noU h && l64 h && d < 256 && sel < 256 && pmSelOk sel
  | .sleep h a =>
    prd h && noU h && (match h.len, a with
      | .l64, .sca r => r < 256
      | .l96, .imm v => v.toNat < 2 ^ 32
      | _, _ => false)
  | .sNop h => sUnp h
  | .sBra h mode _ => sPrd h && l96 h && mode < 4 && (mode != 0 || (h.pr == 0 && !h.neg))
  | .loop h d _ => sUnp h && l96 h && d < 32
  | .sExit h => sUnp h && l64 h
  | .waitev h a b cond => sUnp h && l64 h && a < 32 && b < 32 && cond < 4
  | .srd h d num clr vec =>
    sUnp h && l64 h && (if vec then d < 64 && num == 0 else d < 32 && 1 ≤ num && num < 10) && (!clr || num == 6 || num == 8)
  | .sAdd h f o | .sSub h f o | .sMul h f o | .sAnd h f o | .sOr h f o | .sXor h f o | .sShl h f o | .sShr h f o =>
    sInt h 2 f o
  | .sMad h f o => sInt h 3 f o
  | .sCmp h f o => sPrd h && f.m < 6 && sTy f && sOps h 2 32 f.s true o && o.d < 4
  | .sSel h f o p => sInt h 2 f o && !f.s && p < 4
  | .sMov h f o =>
    sPrd h && l64 h && m0 f && f.t == .i32 && (if f.s then o.d < 32 else o.d < 64) && o.a.isNone && sSrc f.s true o.b &&
    o.c.isNone && o.n == 0
  | .sMovi h f o =>
    sPrd h && m0 f && sTy f && (if f.s then o.d < 32 else o.d < 64) && o.b.isNone && o.c.isNone && o.n == 0 &&
    (match h.len with
     | .l64 => immOk 8 o.a
     | .l96 => immOk 32 o.a
     | .l128 => f.s && f.t.is64 && immOk 64 o.a)
  | .sFadd h f o | .sFmul h f o => sFlt h 2 f true false o
  | .sFmin h f o | .sFmax h f o => sFlt h 2 f false false o
  | .sFfma h f o => sFlt h 3 f true true o
  | .sFcvt h d a c =>
    sPrd h && l96 h && d < 64 && a < 64 && cvtOk c && c.st != 1 && c.dt != 1 && c.st != 9 && c.dt != 9 && c.st != 13 && c.dt != 13
  | .rld h a b r | .rst h a b r => sUnp h && l64 h && a < 32 && b < 32 && r < 128
  | .rldx h o | .rstx h o =>
    sOnce h && o.d < 64 && o.a < 32 && o.b < 64 && o.ix < 3 && (o.ix != 0 || o.b == 0) && o.sz == 0 && !o.sd
  | .ratom h op ix d a b c => sOnce h && op < 5 && ix < 3 && d < 64 && a < 32 && b < 64 && c < 64 && (ix != 0 || b == 0)
  | .vred h fl op t d a =>
    sOnce h && d < 32 && a < 64 && (if fl then op < 3 && t == .i32 else op < 6 && !t.is64)
  | .ldk h o | .stk h o =>
    sOnce h && (if o.sd then o.d < 32 && o.b == 0 && o.ix == 0 else o.d < 64) && o.a < 32 && o.b < 64 && o.ix < 3 &&
    (o.ix != 0 || o.b == 0) && o.sz < 6 && (o.sz != 5 || o.sd) &&
    (match i with | .stk _ o => o.sz != 1 && o.sz != 3 | _ => true)
  | .post h d a b st => sUnp h && l64 h && d < 32 && a < 32 && b < 32 && 1 ≤ st && st < 255
  | .sFence h => sUnp h && l64 h
  | _ => false

end Sys2Proof
end

