-- ==== Sys2Proof/WellFormed.lean ====
section
/-! DEFINITION. WellFormed.lean: the instructions of one instruction set that break no encoding rule (02 R46, 13 R289). -/

namespace Sys2Proof

/-- Encoded in the core set (02 R44). -/
def Instr.onStack : Instr → Bool
  | .sNop _ | .sBra .. | .loop .. | .sExit _ | .waitev .. | .srd .. | .sAdd .. | .sSub .. | .sMul .. | .sMad ..
  | .sAnd .. | .sOr .. | .sXor .. | .sShl .. | .sShr .. | .sCmp .. | .sSel .. | .sMov .. | .sMovi .. | .sFadd ..
  | .sFmul .. | .sFfma .. | .sFmin .. | .sFmax .. | .sFcvt .. | .rld .. | .rst .. | .rldx .. | .rstx .. | .ratom ..
  | .vred .. | .ldk .. | .stk .. | .post .. | .sFence _ => true
  | _ => false

/-- A core instruction that every encoding rule admits. -/
def Instr.WfCore (i : Instr) : Prop := legal i = true ∧ i.onStack = false

/-- A stack-core instruction that every encoding rule admits. -/
def Instr.WfStack (i : Instr) : Prop := legal i = true ∧ i.onStack = true

end Sys2Proof
end

