-- ==== Sys2Proof/Decode.lean ====
section
/-! DEFINITION. Decode.lean: from the bits of an instruction to Instr and back (02 R24-R32, R44; 13 R287, R290). The
fields of the first word are split by place; parsing is total on assigned opcodes; what parsing drops is found by
encoding again. -/

namespace Sys2Proof

/-- The fields of an instruction (02 R27): `ext` holds bits 95:64 or 127:64 as the length says (R28). -/
structure Raw where
  len   : Len
  u     : Bool
  sp    : Bool
  stall : Nat
  op    : Nat
  pr    : Nat
  neg   : Bool
  d     : Nat
  a     : Nat
  xa    : Nat
  b     : Nat
  xb    : Nat
  fn    : Nat
  c     : Nat
  ext   : Nat
  deriving DecidableEq, Repr

/-- Why a word is no instruction. Each raises ILLEGAL (02 R46). -/
inductive Reject where
  /-- len is 0b11 (02 R24). -/
  | badLen
  /-- The opcode is not assigned (02 R44, 13 R290). -/
  | noOpcode
  /-- A field breaks a rule of its opcode. -/
  | illegalField
  /-- A reserved or unused field is not zero. -/
  | reservedField
  deriving DecidableEq, Repr

/-- `w` bits of `n` from bit `lo` up. -/
def fld (n lo w : Nat) : Nat := n / 2 ^ lo % 2 ^ w
/-- Bit `k` of `n`. -/
def bit (n k : Nat) : Bool := n / 2 ^ k % 2 == 1

def Len.code : Len → Nat
  | .l64 => 0
  | .l96 => 1
  | .l128 => 2

def Len.bytes : Len → Nat
  | .l64 => 8
  | .l96 => 12
  | .l128 => 16

def Len.extBits : Len → Nat
  | .l64 => 0
  | .l96 => 32
  | .l128 => 64

def Len.ofCode : Nat → Option Len
  | 0 => some .l64
  | 1 => some .l96
  | 2 => some .l128
  | _ => none

/-- The instruction as one number, bit 0 lowest. -/
def Raw.word (r : Raw) : Nat :=
  r.len.code + 2 ^ 2 * r.u.toNat + 2 ^ 3 * r.sp.toNat + 2 ^ 4 * r.stall + 2 ^ 8 * r.op + 2 ^ 16 * r.pr +
  2 ^ 19 * r.neg.toNat + 2 ^ 20 * r.d + 2 ^ 28 * r.a + 2 ^ 36 * r.xa + 2 ^ 39 * r.b + 2 ^ 47 * r.xb + 2 ^ 50 * r.fn +
  2 ^ 56 * r.c + 2 ^ 64 * r.ext

/-- The fields of the number `w`; bits above the instruction's length are not looked at. -/
def Raw.ofWord (w : Nat) : Option Raw :=
  (Len.ofCode (fld w 0 2)).map fun len =>
    { len, u := bit w 2, sp := bit w 3, stall := fld w 4 4, op := fld w 8 8, pr := fld w 16 3, neg := bit w 19,
      d := fld w 20 8, a := fld w 28 8, xa := fld w 36 3, b := fld w 39 8, xb := fld w 47 3, fn := fld w 50 6,
      c := fld w 56 8, ext := fld w 64 len.extBits }

def Raw.hdr (r : Raw) : Hdr := ⟨r.len, r.stall, r.sp, r.u, r.neg, r.pr⟩

/-- Every field fits its place. -/
def Raw.fits (r : Raw) : Bool :=
  r.stall < 16 && r.op < 256 && r.pr < 8 && r.d < 256 && r.a < 256 && r.xa < 8 && r.b < 256 && r.xb < 8 && r.fn < 64 &&
  r.c < 256 && r.ext < 2 ^ r.len.extBits

def Hdr.raw (h : Hdr) (op d a xa b xb fn c ext : Nat) : Raw :=
  { len := h.len, u := h.u, sp := h.sp, stall := h.stall, op, pr := h.pr, neg := h.neg, d, a, xa, b, xb, fn, c, ext }

def Pat.code : Pat → Nat
  | .id => 0 | .rot => 1 | .rotn => 2 | .bfly => 3 | .mir => 4 | .bck => 5 | .bcs => 6

/-- Code 0b111 is no pattern; it reads as the identity, which encodes differently, so the decoder refuses it. -/
def Pat.ofCode : Nat → Pat
  | 1 => .rot | 2 => .rotn | 3 => .bfly | 4 => .mir | 5 => .bck | 6 => .bcs | _ => .id

def ITy.code : ITy → Nat
  | .i32 => 0 | .n32 => 1 | .i64 => 2 | .n64 => 3
def ITy.ofCode (n : Nat) : ITy := if n = 0 then .i32 else if n = 1 then .n32 else if n = 2 then .i64 else .n64
def FTy.code : FTy → Nat
  | .f32 => 0 | .f64 => 1 | .f16 => 2 | .bf16 => 3
def FTy.ofCode (n : Nat) : FTy := if n = 0 then .f32 else if n = 1 then .f64 else if n = 2 then .f16 else .bf16

def IFn.code (f : IFn) : Nat := 32 * f.s.toNat + 4 * f.m + f.t.code
def IFn.ofCode (n : Nat) : IFn := ⟨bit n 5, fld n 2 3, ITy.ofCode (fld n 0 2)⟩
def FFn.code (f : FFn) : Nat := 32 * f.n2.toNat + 16 * f.n1.toNat + 4 * f.rm + f.f.code
def FFn.ofCode (n : Nat) : FFn := ⟨bit n 5, bit n 4, fld n 2 2, FTy.ofCode (fld n 0 2)⟩

def Src.reg : Src → Nat
  | .vec r _ => r
  | .sca r => r
  | _ => 0
def Src.pat : Src → Nat
  | .vec _ x => x.pat.code
  | _ => 0
def Src.amt : Src → Nat
  | .vec _ x => x.amt
  | _ => 0
def Src.isSca : Src → Bool
  | .sca _ => true
  | _ => false
def Src.immv : Src → Nat
  | .imm v => v.toNat
  | _ => 0

/-- The extended crossbar layout (02 R28): SA, SB and SC only outside the scalar form (04 R79). -/
def Ops.xext (o : Ops) (s : Bool) : Nat :=
  o.a.amt + 2 ^ 8 * o.b.amt + 2 ^ 16 * o.n +
  (if s then 0 else 2 ^ 25 * o.a.isSca.toNat + 2 ^ 26 * o.b.isSca.toNat + 2 ^ 27 * o.c.isSca.toNat)

/-- An arithmetic instruction with the extended crossbar layout; `cf` is what C holds but for N (02 R32). -/
def Ops.raw (h : Hdr) (op fn : Nat) (s : Bool) (o : Ops) (cf imm : Nat) : Raw :=
  h.raw op o.d o.a.reg o.a.pat o.b.reg o.b.pat fn (if h.len != .l96 && o.bcs then o.n else cf)
    (match h.len with
     | .l64 => 0
     | .l96 => o.xext s
     | .l128 => imm)

def iRaw (h : Hdr) (op : Nat) (f : IFn) (o : Ops) : Raw := o.raw h op f.code f.s o.c.reg (o.b.immv + o.c.immv)
def fRaw (h : Hdr) (op : Nat) (f : FFn) (o : Ops) : Raw := o.raw h op f.code false o.c.reg (o.b.immv + o.c.immv)

/-- BFX, BFI (04 R84): the immediate layout holds position and width. -/
def bfRaw (h : Hdr) (op : Nat) (f : IFn) (o : Ops) : Raw :=
  h.raw op o.d o.a.reg o.a.pat o.b.reg o.b.pat f.code o.c.reg (o.b.immv + 2 ^ 8 * o.c.immv)

def tgtRaw (h : Hdr) (op d : Nat) (a : Src) (n : Nat) : Raw := Ops.raw h op 0 false ⟨d, a, .none, .none, n⟩ 0 0

def MemOp.raw (h : Hdr) (op : Nat) (o : MemOp) : Raw :=
  h.raw op o.d o.a o.xa.code o.b o.xb.code (8 * o.sz + 4 * o.bv.toNat + o.ix)
    (if h.len = .l64 then o.off.toNat % 256 else 64 * o.nx.toNat + 16 * o.fe + 8 * o.far.toNat + o.ord)
    (if h.len = .l64 then 0 else o.off.toNat)

def AtomOp.raw (h : Hdr) (op : Nat) (o : AtomOp) : Raw :=
  h.raw op o.d o.a o.xa.code o.b o.xb.code (4 * o.op + o.ix) o.c
    (o.off.toNat + 2 ^ 14 * o.nr.toNat + 2 ^ 15 * o.scope + 2 ^ 18 * o.kind + 2 ^ 20 * o.nx.toNat + 2 ^ 21 * o.sgn.toNat +
     2 ^ 22 * o.w64.toNat + 2 ^ 23 * o.bv.toNat + 2 ^ 24 * o.e)

def XFld.ext (f : XFld) : Nat :=
  f.pd + 2 ^ 3 * f.ord.toNat + 2 ^ 4 * f.esz + 2 ^ 8 * f.cfmt + 2 ^ 10 * f.cop + 2 ^ 12 * f.k + 2 ^ 32 * f.sn + 2 ^ 40 * f.sr +
  2 ^ 48 * f.rb

def XOp.raw (h : Hdr) (op : Nat) (o : XOp) : Raw := h.raw op o.d o.a 0 o.b 0 o.q o.c o.f.ext

def MFld.ext (f : MFld) : Nat :=
  f.pd + 2 ^ 6 * f.wh.toNat + 2 ^ 7 * f.acc.toNat + 2 ^ 10 * f.en + 2 ^ 15 * f.rm + 2 ^ 17 * f.sat.toNat + 2 ^ 18 * f.cls.toNat +
  2 ^ 19 * f.tl + 2 ^ 21 * f.ws + 2 ^ 24 * f.nw + 2 ^ 28 * f.fmt + 2 ^ 32 * f.shp.toNat + 2 ^ 33 * f.z.toNat + 2 ^ 34 * f.pri +
  2 ^ 40 * f.row + 2 ^ 48 * f.n

def MOp.raw (h : Hdr) (op : Nat) (o : MOp) : Raw := h.raw op o.d o.a 0 o.b 0 (8 * o.set) o.c o.f.ext

def CvtD.ext (c : CvtD) : Nat := c.dt + 16 * c.st + 256 * c.rm + 2048 * c.sat.toNat

/-- A stack arithmetic instruction (13 R287): BX is bit 49, the top bit of the field XB. -/
def sRaw (h : Hdr) (op fn : Nat) (s : Bool) (o : Ops) (cf : Nat) : Raw :=
  h.raw op o.d o.a.reg 0 o.b.reg (if s then 0 else 4 * o.b.isSca.toNat) fn cf (o.b.immv + o.c.immv)

def KOp.raw (h : Hdr) (op : Nat) (o : KOp) : Raw :=
  h.raw op o.d o.a 0 o.b 0 (8 * o.sz + 4 * o.sd.toNat + o.ix) o.off.toNat 0

/-- The fields of an encoded instruction; events have none. -/
def Instr.raw : Instr → Option Raw
  | .nop h => some (h.raw 0x01 0 0 0 0 0 0 0 0)
  | .bra h imm => some (h.raw 0x02 0 0 0 0 0 0 0 imm.toNat)
  | .brx h a n => some (tgtRaw h 0x03 0 a n)
  | .call h d imm => some (h.raw 0x04 d 0 0 0 0 0 0 imm.toNat)
  | .callx h d a n => some (tgtRaw h 0x05 d a n)
  | .ret h a n => some (tgtRaw h 0x06 0 a n)
  | .exit h => some (h.raw 0x07 0 0 0 0 0 0 0 0)
  | .tail h => some (h.raw 0x08 0 0 0 0 0 0 0 0)
  | .yield h rot => some (h.raw 0x09 0 0 0 0 0 rot.toNat 0 0)
  | .iadd h f o => some (iRaw h 0x10 f o)
  | .isub h f o => some (iRaw h 0x11 f o)
  | .imul h f o => some (iRaw h 0x12 f o)
  | .imulh h f o => some (iRaw h 0x13 f o)
  | .imad h f o => some (iRaw h 0x14 f o)
  | .imin h f o => some (iRaw h 0x15 f o)
  | .imax h f o => some (iRaw h 0x16 f o)
  | .iabs h f o => some (iRaw h 0x17 f o)
  | .shl h f o => some (iRaw h 0x18 f o)
  | .shr h f o => some (iRaw h 0x19 f o)
  | .sra h f o => some (iRaw h 0x1A f o)
  | .and h f o => some (iRaw h 0x1B f o)
  | .or h f o => some (iRaw h 0x1C f o)
  | .xor h f o => some (iRaw h 0x1D f o)
  | .andn h f o => some (iRaw h 0x1E f o)
  | .popc h f o => some (iRaw h 0x1F f o)
  | .clz h f o => some (iRaw h 0x20 f o)
  | .brev h f o => some (iRaw h 0x21 f o)
  | .bfx h f o => some (bfRaw h 0x22 f o)
  | .bfi h f o => some (bfRaw h 0x23 f o)
  | .isel h f o p => some (o.raw h 0x24 f.code false p o.b.immv)
  | .icmp h f o => some (iRaw h 0x25 f o)
  | .lea h f o => some (o.raw h 0x26 f.code f.s (if h.len = .l128 then 0 else o.c.immv) o.c.immv)
  | .mov h f o => some (iRaw h 0x27 f o)
  | .movi h f o =>
    some (h.raw 0x28 o.d 0 0 0 0 f.code (if h.len = .l64 then o.a.immv else 0) (if h.len = .l64 then 0 else o.a.immv))
  | .movw h f d imm piece => some (h.raw 0x29 d 0 0 0 0 f.code 0 (imm.toNat + 2 ^ 16 * piece))
  | .plop h d a b c lut => some (h.raw 0x2A d a 0 b 0 0 c lut.toNat)
  | .perm h w o => some (o.raw h 0x30 w.toNat false 0 0)
  | .vote h m d a => some (h.raw 0x31 d a 0 0 0 m 0 0)
  | .red h op t o => some (o.raw h 0x32 (4 * op + t.code) false 0 0)
  | .scan h ex op t o => some (o.raw h 0x33 (32 * ex.toNat + 4 * op + t.code) false 0 0)
  | .bcast h w fs ts d a xa c => some (h.raw 0x34 d a xa.code 0 0 (4 * w.toNat + 2 * fs.toNat + ts.toNat) c 0)
  | .shape h m d ⟨a, xa, n⟩ => some (h.raw 0x35 d a xa.code 0 0 m n 0)
  | .packl h w cnt o c => some (o.raw h 0x36 (2 * cnt.toNat + w.toNat) false c 0)
  | .fadd h f o => some (fRaw h 0x40 f o)
  | .fsub h f o => some (fRaw h 0x41 f o)
  | .fmul h f o => some (fRaw h 0x42 f o)
  | .ffma h f o => some (fRaw h 0x43 f o)
  | .fmin h f o => some (fRaw h 0x44 f o)
  | .fmax h f o => some (fRaw h 0x45 f o)
  | .fcmp h cond f o => some (o.raw h 0x46 (4 * cond + f.code) false 0 o.b.immv)
  | .fcmpRflg h d => some (h.raw 0x46 d 0 0 0 0 32 0 0)
  | .fcmpCflg h d => some (h.raw 0x46 d 0 0 0 0 33 0 0)
  | .frcp h f o => some (fRaw h 0x47 f o)
  | .frsq h f o => some (fRaw h 0x48 f o)
  | .fsqrt h f o => some (fRaw h 0x49 f o)
  | .fexp2 h f o => some (fRaw h 0x4A f o)
  | .flog2 h f o => some (fRaw h 0x4B f o)
  | .fsin h f o => some (fRaw h 0x4C f o)
  | .fcos h f o => some (fRaw h 0x4D f o)
  | .ftanh h f o => some (fRaw h 0x4E f o)
  | .fcvt h d a xa n c => some (h.raw 0x4F d a xa.code 0 0 0 n c.ext)
  | .fround h f o => some (fRaw h 0x50 f o)
  | .qnt h push rm bf out d a xa b c => some (h.raw 0x51 d a xa.code b 0 (32 * push.toNat + 8 * rm + 4 * bf.toNat + out) c 0)
  | .dqnt h rm bf inp d a xa c => some (h.raw 0x52 d a xa.code 0 0 (8 * rm + 4 * bf.toNat + inp) c 0)
  | .amax h run f d a xa n => some (h.raw 0x53 d a xa.code 0 0 (4 * run.toNat + f.code) n 0)
  | .ld h o => some (o.raw h 0x60)
  | .st h o => some (o.raw h 0x61)
  | .ldu h o => some (o.raw h 0x62)
  | .stu h o => some (o.raw h 0x63)
  | .lds h o => some (o.raw h 0x64)
  | .sts h o => some (o.raw h 0x65)
  | .feset h o => some (o.raw h 0x66)
  | .fetest h o => some (o.raw h 0x67)
  | .pf h o => some (o.raw h 0x68)
  | .spdist h d a bv xa n => some (h.raw 0x78 d a xa.code 0 0 bv.toNat n 0)
  | .sppin h d a => some (h.raw 0x79 d a 0 0 0 0 0 0)
  | .spunpin h a => some (h.raw 0x7A 0 a 0 0 0 0 0 0)
  | .sppull h a t => some (h.raw 0x7B 0 a 0 t.reg 0 0 0 t.immv)
  | .spclean h a b => some (h.raw 0x7C 0 a 0 b 0 0 0 0)
  | .spinv h a b => some (h.raw 0x7D 0 a 0 b 0 0 0 0)
  | .spflush h a b => some (h.raw 0x7E 0 a 0 b 0 0 0 0)
  | .fence h k scp => some (h.raw 0x80 0 0 0 0 0 (8 * k + scp) 0 0)
  | .atom h o => some (o.raw h 0x81)
  | .atoms h o => some (o.raw h 0x82)
  | .lr h o => some (o.raw h 0x83)
  | .sc h o => some (o.raw h 0x84)
  | .barinit h a b lock trp => some (h.raw 0x90 0 a 0 b 0 (16 * lock.toNat + 8 * trp.toNat) 0 0)
  | .bararv h d a n lanes scope => some (h.raw 0x91 d a 0 0 0 (32 * lanes.toNat + scope) n 0)
  | .barwt h d a b c scope => some (h.raw 0x92 d a 0 b 0 scope c 0)
  | .barq h d a clr => some (h.raw 0x93 d a 0 0 0 (32 * clr.toNat) 0 0)
  | .lkacq h a scope => some (h.raw 0x94 0 a 0 0 0 scope 0 0)
  | .lktry h d a scope => some (h.raw 0x95 d a 0 0 0 scope 0 0)
  | .lkrel h a scope => some (h.raw 0x96 0 a 0 0 0 scope 0 0)
  | .grset h a b => some (h.raw 0x97 0 a 0 b 0 0 0 0)
  | .cvinit h c b => some (h.raw 0x98 c 0 0 b 0 0 0 0)
  | .cvsign h d c wt => some (h.raw 0x99 d c 0 0 0 (32 * wt.toNat) 0 0)
  | .chsend h a c scope => some (h.raw 0x9A 0 a 0 0 0 scope c 0)
  | .chrecv h d a scope => some (h.raw 0x9B d a 0 0 0 scope 0 0)
  | .xcopy h o => some (o.raw h 0xA0)
  | .xfill h o => some (o.raw h 0xA1)
  | .xgath h o => some (o.raw h 0xA2)
  | .xcoll h o => some (o.raw h 0xA3)
  | .qput h d a q rec pd => some (h.raw 0xA4 d a 0 0 0 q 0 (8 * rec.toNat + pd))
  | .ftest h d a => some (h.raw 0xA5 d a 0 0 0 0 0 0)
  | .fwait h d a w => some (h.raw 0xA6 d a 0 0 0 w 0 0)
  | .fcancel h a => some (h.raw 0xA7 0 a 0 0 0 0 0 0)
  | .fexp h d a => some (h.raw 0xA8 d a 0 0 0 0 0 0)
  | .fimp h d a => some (h.raw 0xA9 d a 0 0 0 0 0 0)
  | .mplane h d a c r srs fmt nw =>
    some (h.raw 0xB0 d a 0 0 0 0 c (2 ^ 24 * nw + 2 ^ 28 * fmt + 2 ^ 32 * srs + 2 ^ 48 * r))
  | .mwld h o => some (o.raw h 0xB1)
  | .mma h o => some (o.raw h 0xB2)
  | .macz h en mask => some (h.raw 0xB3 0 0 0 0 0 (16 * en + mask) 0 0)
  | .macrd h o => some (o.raw h 0xB4)
  | .macwr h o => some (o.raw h 0xB5)
  | .mchain h n1 => some (h.raw 0xB6 0 0 0 0 0 n1 0 0)
  | .mstat h d en rel => some (h.raw 0xB7 d 0 0 0 0 (16 * en + rel.toNat) 0 0)
  | .launch h d a q c dh gang ord pd =>
    some (h.raw 0xC0 d a 0 0 0 q c (32 * dh.toNat + 16 * gang.toNat + 8 * ord.toNat + pd))
  | .wapp h d a pd => some (h.raw 0xC1 d a 0 0 0 (8 * pd) 0 0)
  | .wtake h d b pg pq => some (h.raw 0xC2 d 0 0 b 0 (8 * pg + pq) 0 0)
  | .widle h => some (h.raw 0xC3 0 0 0 0 0 0 0 0)
  | .trap h code => some (h.raw 0xD0 0 0 0 0 0 0 code.toNat 0)
  | .sread h d num kind => some (h.raw 0xD1 d 0 0 0 0 kind num 0)
  | .swriteFriv h a => some (h.raw 0xD2 0 a 0 0 0 0 0x0A 0)
  | .swriteSbchk h a => some (h.raw 0xD2 0 a 0 0 0 0 0x0B 0)
  | .swriteSpoob h a => some (h.raw 0xD2 0 a 0 0 0 0 0x0C 0)
  | .swriteNcw h a w => some (h.raw 0xD2 0 a 0 0 0 0 (16 + w) 0)
  | .pmrd h d sel => some (h.raw 0xD3 d 0 0 0 0 0 sel 0)
  | .sleep h a => some (h.raw 0xD4 0 a.reg 0 0 0 0 0 a.immv)
  | .bkpt h tag => some (h.raw 0xD5 0 0 0 0 0 0 tag.toNat 0)
  -- stack cores (13 R290)
  | .sNop h => some (h.raw 0x01 0 0 0 0 0 0 0 0)
  | .sBra h mode imm => some (h.raw 0x02 0 0 0 0 0 mode 0 imm.toNat)
  | .loop h d imm => some (h.raw 0x03 d 0 0 0 0 0 0 imm.toNat)
  | .sExit h => some (h.raw 0x04 0 0 0 0 0 0 0 0)
  | .waitev h a b cond => some (h.raw 0x05 0 a 0 b 0 cond 0 0)
  | .srd h d num clr vec => some (h.raw 0x06 d 0 0 0 0 (2 * clr.toNat + vec.toNat) num 0)
  | .sAdd h f o => some (sRaw h 0x10 f.code f.s o 0)
  | .sSub h f o => some (sRaw h 0x11 f.code f.s o 0)
  | .sMul h f o => some (sRaw h 0x12 f.code f.s o 0)
  | .sMad h f o => some (sRaw h 0x13 f.code f.s o o.c.reg)
  | .sAnd h f o => some (sRaw h 0x14 f.code f.s o 0)
  | .sOr h f o => some (sRaw h 0x15 f.code f.s o 0)
  | .sXor h f o => some (sRaw h 0x16 f.code f.s o 0)
  | .sShl h f o => some (sRaw h 0x17 f.code f.s o 0)
  | .sShr h f o => some (sRaw h 0x18 f.code f.s o 0)
  | .sCmp h f o => some (sRaw h 0x19 f.code f.s o 0)
  | .sSel h f o p => some (sRaw h 0x1A f.code f.s o p)
  | .sMov h f o => some (sRaw h 0x1B f.code f.s o 0)
  | .sMovi h f o =>
    some (h.raw 0x1C o.d 0 0 0 0 f.code (if h.len = .l64 then o.a.immv else 0) (if h.len = .l64 then 0 else o.a.immv))
  | .sFadd h f o => some (sRaw h 0x20 f.code false o 0)
  | .sFmul h f o => some (sRaw h 0x21 f.code false o 0)
  | .sFfma h f o => some (sRaw h 0x22 f.code false o o.c.reg)
  | .sFmin h f o => some (sRaw h 0x23 f.code false o 0)
  | .sFmax h f o => some (sRaw h 0x24 f.code false o 0)
  | .sFcvt h d a c => some (h.raw 0x25 d a 0 0 0 0 0 c.ext)
  | .rld h a b r => some (h.raw 0x30 0 a 0 b 0 0 r 0)
  | .rst h a b r => some (h.raw 0x31 0 a 0 b 0 0 r 0)
  | .rldx h o => some (o.raw h 0x32)
  | .rstx h o => some (o.raw h 0x33)
  | .ratom h op ix d a b c => some (h.raw 0x34 d a 0 b 0 (8 * op + ix) c 0)
  | .vred h fl op t d a => some (h.raw 0x35 d a 0 0 0 (32 * fl.toNat + 4 * op + t.code) 0 0)
  | .ldk h o => some (o.raw h 0x36)
  | .stk h o => some (o.raw h 0x37)
  | .post h d a b status => some (h.raw 0x38 d a 0 b 0 0 status 0)
  | .sFence h => some (h.raw 0x39 0 0 0 0 0 0 0 0)
  | _ => none

/-! ### Parsing -/

/-- A source field outside an immediate: scalar form, SA/SB/SC, or vector with its pattern. -/
def srcOf (sForm sBit : Bool) (reg pat amt : Nat) : Src :=
  if sForm || sBit then .sca reg else .vec reg ⟨.ofCode pat, amt⟩

/-- The amount of a pattern: AMTA or AMTB in the extended crossbar layout, else implied (02 R32). -/
def amtOf (ext : Bool) (pat amt : Nat) : Nat := if ext then amt else (Pat.ofCode pat).implied

/-- Operands of an arithmetic instruction with `n` sources, whose 128-bit immediate replaces source `i` (2 B, 3 C). -/
def Raw.ops (r : Raw) (n i : Nat) (s : Bool) : Ops :=
  let ext := r.len == .l96
  let im := if r.len == .l128 then i else 0
  let a := srcOf s (ext && bit r.ext 25) r.a r.xa (amtOf ext r.xa (fld r.ext 0 8))
  let b := if n < 2 then .none else if im = 2 then .imm (.ofNat 64 r.ext)
    else srcOf s (ext && bit r.ext 26) r.b r.xb (amtOf ext r.xb (fld r.ext 8 8))
  let c := if n < 3 then .none else if im = 3 then .imm (.ofNat 64 r.ext)
    else srcOf s (ext && bit r.ext 27) r.c 0 0
  ⟨r.d, a, b, c, if a.bcs || b.bcs then (if ext then fld r.ext 16 8 else r.c) else 0⟩

def Raw.ifn (r : Raw) : IFn := IFn.ofCode r.fn
def Raw.ffn (r : Raw) : FFn := FFn.ofCode r.fn

def Raw.iops (r : Raw) (n i : Nat) : Ops := r.ops n i r.ifn.s

/-- BFX and BFI (04 R84). DESIGN CHOICE (log 84): a pattern on A in the 96-bit immediate layout has the amount 1 of the 64-bit form, for
the layout has no amount field and 02 R32 names only the other forms. -/
def Raw.bfops (r : Raw) : Ops :=
  let s := r.ifn.s
  if r.len = .l96 then
    ⟨r.d, srcOf s false r.a r.xa (Pat.ofCode r.xa).implied, .imm (.ofNat 64 (fld r.ext 0 8)), .imm (.ofNat 64 (fld r.ext 8 8)), 0⟩
  else
    ⟨r.d, srcOf s false r.a r.xa (Pat.ofCode r.xa).implied, srcOf s false r.b r.xb (Pat.ofCode r.xb).implied,
      srcOf s false r.c 0 0, 0⟩

def Raw.tgt (r : Raw) : Src × Nat := ((r.ops 1 0 false).a, (r.ops 1 0 false).n)

def Raw.imm32 (r : Raw) : W32 := .ofNat 32 r.ext

def Raw.mem (r : Raw) : MemOp :=
  let s := r.len == .l64
  { d := r.d, a := r.a, xa := .ofCode r.xa, b := r.b, xb := .ofCode r.xb, sz := fld r.fn 3 3, bv := bit r.fn 2,
    ix := fld r.fn 0 2, off := if s then (BitVec.ofNat 8 r.c).signExtend 32 else r.imm32,
    nx := !s && bit r.c 6, fe := if s then 0 else fld r.c 4 2, far := !s && bit r.c 3, ord := if s then 0 else fld r.c 0 3 }

def Raw.atomOp (r : Raw) : AtomOp :=
  { op := fld r.fn 2 4, ix := fld r.fn 0 2, d := r.d, a := r.a, xa := .ofCode r.xa, b := r.b, xb := .ofCode r.xb, c := r.c,
    e := fld r.ext 24 8, bv := bit r.ext 23, w64 := bit r.ext 22, sgn := bit r.ext 21, nx := bit r.ext 20,
    kind := fld r.ext 18 2, scope := fld r.ext 15 3, nr := bit r.ext 14, off := .ofNat 14 (fld r.ext 0 14) }

def Raw.xop (r : Raw) : XOp :=
  ⟨r.d, r.a, r.b, r.c, r.fn,
   { rb := fld r.ext 48 16, sr := fld r.ext 40 8, sn := fld r.ext 32 8, k := fld r.ext 12 4, cop := fld r.ext 10 2,
     cfmt := fld r.ext 8 2, esz := fld r.ext 4 3, ord := bit r.ext 3, pd := fld r.ext 0 3 }⟩

def Raw.mop (r : Raw) : MOp :=
  ⟨r.d, r.a, r.b, r.c, fld r.fn 3 3,
   { n := fld r.ext 48 9, row := fld r.ext 40 8, pri := fld r.ext 34 2, z := bit r.ext 33, shp := bit r.ext 32,
     fmt := fld r.ext 28 4, nw := fld r.ext 24 4, ws := fld r.ext 21 3, tl := fld r.ext 19 2, cls := bit r.ext 18,
     sat := bit r.ext 17, rm := fld r.ext 15 2, en := fld r.ext 10 2, acc := bit r.ext 7, wh := bit r.ext 6,
     pd := fld r.ext 0 3 }⟩

def Raw.cvt (r : Raw) : CvtD := ⟨bit r.ext 11, fld r.ext 8 3, fld r.ext 4 4, fld r.ext 0 4⟩

/-- MOVI's operands: the immediate by length (04 R88). -/
def Raw.movi (r : Raw) : Ops := ⟨r.d, .imm (.ofNat 64 (if r.len = .l64 then r.c else r.ext)), .none, .none, 0⟩

/-- N of an instruction outside the arithmetic rows, in C (02 R32). -/
def Raw.nOf (r : Raw) : Nat := if r.xa = 6 then r.c else 0

def parseCtl (r : Raw) : Option Instr :=
  match r.op with
  | 0x01 => some (.nop r.hdr)
  | 0x02 => some (.bra r.hdr r.imm32)
  | 0x03 => some (.brx r.hdr r.tgt.1 r.tgt.2)
  | 0x04 => some (.call r.hdr r.d r.imm32)
  | 0x05 => some (.callx r.hdr r.d r.tgt.1 r.tgt.2)
  | 0x06 => some (.ret r.hdr r.tgt.1 r.tgt.2)
  | 0x07 => some (.exit r.hdr)
  | 0x08 => some (.tail r.hdr)
  | 0x09 => some (.yield r.hdr (bit r.fn 0))
  | _ => none

def parseInt (r : Raw) : Option Instr :=
  match r.op with
  | 0x10 => some (.iadd r.hdr r.ifn (r.iops 2 2))
  | 0x11 => some (.isub r.hdr r.ifn (r.iops 2 2))
  | 0x12 => some (.imul r.hdr r.ifn (r.iops 2 2))
  | 0x13 => some (.imulh r.hdr r.ifn (r.iops 2 2))
  | 0x14 => some (.imad r.hdr r.ifn (r.iops 3 3))
  | 0x15 => some (.imin r.hdr r.ifn (r.iops 2 2))
  | 0x16 => some (.imax r.hdr r.ifn (r.iops 2 2))
  | 0x17 => some (.iabs r.hdr r.ifn (r.iops 1 0))
  | 0x18 => some (.shl r.hdr r.ifn (r.iops 2 2))
  | 0x19 => some (.shr r.hdr r.ifn (r.iops 2 2))
  | 0x1A => some (.sra r.hdr r.ifn (r.iops 2 2))
  | 0x1B => some (.and r.hdr r.ifn (r.iops 2 2))
  | 0x1C => some (.or r.hdr r.ifn (r.iops 2 2))
  | 0x1D => some (.xor r.hdr r.ifn (r.iops 2 2))
  | 0x1E => some (.andn r.hdr r.ifn (r.iops 2 2))
  | 0x1F => some (.popc r.hdr r.ifn (r.iops 1 0))
  | 0x20 => some (.clz r.hdr r.ifn (r.iops 1 0))
  | 0x21 => some (.brev r.hdr r.ifn (r.iops 1 0))
  | 0x22 => some (.bfx r.hdr r.ifn r.bfops)
  | 0x23 => some (.bfi r.hdr r.ifn r.bfops)
  | 0x24 => some (.isel r.hdr r.ifn
      (let o := r.iops 2 2; if r.len = .l96 then o else { o with n := 0 }) r.c)
  | 0x25 => some (.icmp r.hdr r.ifn (r.iops 2 2))
  | 0x26 => some (.lea r.hdr r.ifn
      (let o := r.iops 2 0
       { o with c := .imm (.ofNat 64 (if r.len = .l128 then r.ext else r.c)), n := if r.len = .l96 then o.n else 0 }))
  | 0x27 => some (.mov r.hdr r.ifn (r.iops 1 0))
  | 0x28 => some (.movi r.hdr r.ifn r.movi)
  | 0x29 => some (.movw r.hdr r.ifn r.d (.ofNat 16 (fld r.ext 0 16)) (fld r.ext 16 2))
  | 0x2A => some (.plop r.hdr r.d r.a r.b r.c (.ofNat 8 (fld r.ext 0 8)))
  | _ => none

def parseLane (r : Raw) : Option Instr :=
  match r.op with
  | 0x30 => some (.perm r.hdr (bit r.fn 0) (r.ops 2 0 false))
  | 0x31 => some (.vote r.hdr (fld r.fn 0 2) r.d r.a)
  | 0x32 => some (.red r.hdr (fld r.fn 2 3) (.ofCode (fld r.fn 0 2)) (r.ops 1 0 false))
  | 0x33 => some (.scan r.hdr (bit r.fn 5) (fld r.fn 2 3) (.ofCode (fld r.fn 0 2)) (r.ops 1 0 false))
  | 0x34 => some (.bcast r.hdr (bit r.fn 2) (bit r.fn 1) (bit r.fn 0) r.d r.a (.ofCode r.xa) r.c)
  | 0x35 => some (.shape r.hdr (fld r.fn 0 2) r.d ⟨r.a, .ofCode r.xa, r.nOf⟩)
  | 0x36 => some (.packl r.hdr (bit r.fn 0) (bit r.fn 1)
      (let o := r.ops 1 0 false; if r.len != .l96 && bit r.fn 1 then { o with n := 0 } else o)
      (if bit r.fn 1 then r.c else 0))
  | _ => none

def parseFp (r : Raw) : Option Instr :=
  match r.op with
  | 0x40 => some (.fadd r.hdr r.ffn (r.ops 2 2 false))
  | 0x41 => some (.fsub r.hdr r.ffn (r.ops 2 2 false))
  | 0x42 => some (.fmul r.hdr r.ffn (r.ops 2 2 false))
  | 0x43 => some (.ffma r.hdr r.ffn (r.ops 3 3 false))
  | 0x44 => some (.fmin r.hdr r.ffn (r.ops 2 2 false))
  | 0x45 => some (.fmax r.hdr r.ffn (r.ops 2 2 false))
  | 0x46 => some (if bit r.fn 5 then (if bit r.fn 0 then .fcmpCflg r.hdr r.d else .fcmpRflg r.hdr r.d)
      else .fcmp r.hdr (fld r.fn 2 3) (.ofCode (fld r.fn 0 2)) (r.ops 2 2 false))
  | 0x47 => some (.frcp r.hdr r.ffn (r.ops 1 0 false))
  | 0x48 => some (.frsq r.hdr r.ffn (r.ops 1 0 false))
  | 0x49 => some (.fsqrt r.hdr r.ffn (r.ops 1 0 false))
  | 0x4A => some (.fexp2 r.hdr r.ffn (r.ops 1 0 false))
  | 0x4B => some (.flog2 r.hdr r.ffn (r.ops 1 0 false))
  | 0x4C => some (.fsin r.hdr r.ffn (r.ops 1 0 false))
  | 0x4D => some (.fcos r.hdr r.ffn (r.ops 1 0 false))
  | 0x4E => some (.ftanh r.hdr r.ffn (r.ops 1 0 false))
  | 0x4F => some (.fcvt r.hdr r.d r.a (.ofCode r.xa) r.nOf r.cvt)
  | 0x50 => some (.fround r.hdr r.ffn (r.ops 1 0 false))
  | 0x51 => some (.qnt r.hdr (bit r.fn 5) (fld r.fn 3 2) (bit r.fn 2) (fld r.fn 0 2) r.d r.a (.ofCode r.xa) r.b r.c)
  | 0x52 => some (.dqnt r.hdr (fld r.fn 3 2) (bit r.fn 2) (fld r.fn 0 2) r.d r.a (.ofCode r.xa) r.c)
  | 0x53 => some (.amax r.hdr (bit r.fn 2) (.ofCode (fld r.fn 0 2)) r.d r.a (.ofCode r.xa) r.nOf)
  | _ => none

def parseMem (r : Raw) : Option Instr :=
  match r.op with
  | 0x60 => some (.ld r.hdr r.mem)
  | 0x61 => some (.st r.hdr r.mem)
  | 0x62 => some (.ldu r.hdr r.mem)
  | 0x63 => some (.stu r.hdr r.mem)
  | 0x64 => some (.lds r.hdr r.mem)
  | 0x65 => some (.sts r.hdr r.mem)
  | 0x66 => some (.feset r.hdr r.mem)
  | 0x67 => some (.fetest r.hdr r.mem)
  | 0x68 => some (.pf r.hdr r.mem)
  | 0x78 => some (.spdist r.hdr r.d r.a (bit r.fn 0) (.ofCode r.xa) r.nOf)
  | 0x79 => some (.sppin r.hdr r.d r.a)
  | 0x7A => some (.spunpin r.hdr r.a)
  | 0x7B => some (.sppull r.hdr r.a (if r.len = .l64 then .sca r.b else .imm (.ofNat 64 r.ext)))
  | 0x7C => some (.spclean r.hdr r.a r.b)
  | 0x7D => some (.spinv r.hdr r.a r.b)
  | 0x7E => some (.spflush r.hdr r.a r.b)
  | 0x80 => some (.fence r.hdr (fld r.fn 3 2) (fld r.fn 0 3))
  | 0x81 => some (.atom r.hdr r.atomOp)
  | 0x82 => some (.atoms r.hdr r.atomOp)
  | 0x83 => some (.lr r.hdr r.atomOp)
  | 0x84 => some (.sc r.hdr r.atomOp)
  | _ => none

def parseObj (r : Raw) : Option Instr :=
  match r.op with
  | 0x90 => some (.barinit r.hdr r.a r.b (bit r.fn 4) (bit r.fn 3))
  | 0x91 => some (.bararv r.hdr r.d r.a r.c (bit r.fn 5) (fld r.fn 0 3))
  | 0x92 => some (.barwt r.hdr r.d r.a r.b r.c (fld r.fn 0 3))
  | 0x93 => some (.barq r.hdr r.d r.a (bit r.fn 5))
  | 0x94 => some (.lkacq r.hdr r.a (fld r.fn 0 3))
  | 0x95 => some (.lktry r.hdr r.d r.a (fld r.fn 0 3))
  | 0x96 => some (.lkrel r.hdr r.a (fld r.fn 0 3))
  | 0x97 => some (.grset r.hdr r.a r.b)
  | 0x98 => some (.cvinit r.hdr r.d r.b)
  | 0x99 => some (.cvsign r.hdr r.d r.a (bit r.fn 5))
  | 0x9A => some (.chsend r.hdr r.a r.c (fld r.fn 0 3))
  | 0x9B => some (.chrecv r.hdr r.d r.a (fld r.fn 0 3))
  | 0xA0 => some (.xcopy r.hdr r.xop)
  | 0xA1 => some (.xfill r.hdr r.xop)
  | 0xA2 => some (.xgath r.hdr r.xop)
  | 0xA3 => some (.xcoll r.hdr r.xop)
  | 0xA4 => some (.qput r.hdr r.d r.a r.fn (bit r.ext 3) (fld r.ext 0 3))
  | 0xA5 => some (.ftest r.hdr r.d r.a)
  | 0xA6 => some (.fwait r.hdr r.d r.a (fld r.fn 0 2))
  | 0xA7 => some (.fcancel r.hdr r.a)
  | 0xA8 => some (.fexp r.hdr r.d r.a)
  | 0xA9 => some (.fimp r.hdr r.d r.a)
  | _ => none

def parseSys (r : Raw) : Option Instr :=
  match r.op with
  | 0xB0 => some (.mplane r.hdr r.d r.a r.c (fld r.ext 48 9) (fld r.ext 32 16) (fld r.ext 28 4) (fld r.ext 24 4))
  | 0xB1 => some (.mwld r.hdr r.mop)
  | 0xB2 => some (.mma r.hdr r.mop)
  | 0xB3 => some (.macz r.hdr (fld r.fn 4 2) (fld r.fn 0 4))
  | 0xB4 => some (.macrd r.hdr r.mop)
  | 0xB5 => some (.macwr r.hdr r.mop)
  | 0xB6 => some (.mchain r.hdr (fld r.fn 0 2))
  | 0xB7 => some (.mstat r.hdr r.d (fld r.fn 4 2) (bit r.fn 0))
  | 0xC0 => some (.launch r.hdr r.d r.a r.fn r.c (bit r.ext 5) (bit r.ext 4) (bit r.ext 3) (fld r.ext 0 3))
  | 0xC1 => some (.wapp r.hdr r.d r.a (fld r.fn 3 3))
  | 0xC2 => some (.wtake r.hdr r.d r.b (fld r.fn 3 3) (fld r.fn 0 3))
  | 0xC3 => some (.widle r.hdr)
  | 0xD0 => some (.trap r.hdr (.ofNat 8 r.c))
  | 0xD1 => some (.sread r.hdr r.d r.c (fld r.fn 0 2))
  | 0xD2 => some (if r.c = 0x0A then .swriteFriv r.hdr r.a else if r.c = 0x0B then .swriteSbchk r.hdr r.a
      else if r.c = 0x0C then .swriteSpoob r.hdr r.a else .swriteNcw r.hdr r.a (r.c - 16))
  | 0xD3 => some (.pmrd r.hdr r.d r.c)
  | 0xD4 => some (.sleep r.hdr (if r.len = .l64 then .sca r.a else .imm (.ofNat 64 r.ext)))
  | 0xD5 => some (.bkpt r.hdr (.ofNat 8 r.c))
  | _ => none

/-- Core opcodes by class (02 R44). -/
def parseCore (r : Raw) : Option Instr :=
  if r.op < 0x10 then parseCtl r
  else if r.op < 0x30 then parseInt r
  else if r.op < 0x40 then parseLane r
  else if r.op < 0x60 then parseFp r
  else if r.op < 0x90 then parseMem r
  else if r.op < 0xB0 then parseObj r
  else parseSys r

/-- Operands of a stack arithmetic row with `n` sources; a 96-bit immediate replaces the last (13 R290, R295). -/
def Raw.sops (r : Raw) (n : Nat) (s : Bool) : Ops :=
  let im := r.len == .l96
  ⟨r.d, srcOf s false r.a 0 0,
   if n = 2 && im then .imm (.ofNat 64 r.ext) else srcOf s (bit r.xb 2) r.b 0 0,
   if n < 3 then .none else if im then .imm (.ofNat 64 r.ext) else srcOf s false r.c 0 0, 0⟩

def Raw.siops (r : Raw) (n : Nat) : Ops := r.sops n r.ifn.s

def Raw.kop (r : Raw) : KOp := ⟨r.d, r.a, r.b, .ofNat 8 r.c, fld r.fn 3 3, bit r.fn 2, fld r.fn 0 2⟩

/-- Stack-core opcodes (13 R290). -/
def parseStack (r : Raw) : Option Instr :=
  match r.op with
  | 0x01 => some (.sNop r.hdr)
  | 0x02 => some (.sBra r.hdr (fld r.fn 0 2) r.imm32)
  | 0x03 => some (.loop r.hdr r.d r.imm32)
  | 0x04 => some (.sExit r.hdr)
  | 0x05 => some (.waitev r.hdr r.a r.b (fld r.fn 0 2))
  | 0x06 => some (.srd r.hdr r.d r.c (bit r.fn 1) (bit r.fn 0))
  | 0x10 => some (.sAdd r.hdr r.ifn (r.siops 2))
  | 0x11 => some (.sSub r.hdr r.ifn (r.siops 2))
  | 0x12 => some (.sMul r.hdr r.ifn (r.siops 2))
  | 0x13 => some (.sMad r.hdr r.ifn (r.siops 3))
  | 0x14 => some (.sAnd r.hdr r.ifn (r.siops 2))
  | 0x15 => some (.sOr r.hdr r.ifn (r.siops 2))
  | 0x16 => some (.sXor r.hdr r.ifn (r.siops 2))
  | 0x17 => some (.sShl r.hdr r.ifn (r.siops 2))
  | 0x18 => some (.sShr r.hdr r.ifn (r.siops 2))
  | 0x19 => some (.sCmp r.hdr r.ifn (r.siops 2))
  | 0x1A => some (.sSel r.hdr r.ifn (r.siops 2) r.c)
  | 0x1B => some (.sMov r.hdr r.ifn { r.siops 2 with a := .none })
  | 0x1C => some (.sMovi r.hdr r.ifn r.movi)
  | 0x20 => some (.sFadd r.hdr r.ffn (r.sops 2 false))
  | 0x21 => some (.sFmul r.hdr r.ffn (r.sops 2 false))
  | 0x22 => some (.sFfma r.hdr r.ffn (r.sops 3 false))
  | 0x23 => some (.sFmin r.hdr r.ffn (r.sops 2 false))
  | 0x24 => some (.sFmax r.hdr r.ffn (r.sops 2 false))
  | 0x25 => some (.sFcvt r.hdr r.d r.a r.cvt)
  | 0x30 => some (.rld r.hdr r.a r.b r.c)
  | 0x31 => some (.rst r.hdr r.a r.b r.c)
  | 0x32 => some (.rldx r.hdr r.kop)
  | 0x33 => some (.rstx r.hdr r.kop)
  | 0x34 => some (.ratom r.hdr (fld r.fn 3 3) (fld r.fn 0 2) r.d r.a r.b r.c)
  | 0x35 => some (.vred r.hdr (bit r.fn 5) (fld r.fn 2 3) (.ofCode (fld r.fn 0 2)) r.d r.a)
  | 0x36 => some (.ldk r.hdr r.kop)
  | 0x37 => some (.stk r.hdr r.kop)
  | 0x38 => some (.post r.hdr r.d r.a r.b r.c)
  | 0x39 => some (.sFence r.hdr)
  | _ => none

/-- Parse, check every encoding rule, and check that nothing was dropped. -/
def decodeWith (parse : Raw → Option Instr) (w : Nat) : Except Reject Instr :=
  match Raw.ofWord w with
  | none => .error .badLen
  | some r =>
    match parse r with
    | none => .error .noOpcode
    | some i =>
      if !legal i then .error .illegalField
      else if i.raw = some r then .ok i else .error .reservedField

/-- A core instruction from its bits, bit 0 lowest; total on any number. -/
def decodeCore (w : Nat) : Except Reject Instr := decodeWith parseCore w
/-- A stack-core instruction from its bits. -/
def decodeStack (w : Nat) : Except Reject Instr := decodeWith parseStack w

/-- The bits of an encoded instruction; 0, which no instruction has, for an event. -/
def encode (i : Instr) : Nat := (i.raw.map Raw.word).getD 0

/-- Bytes an instruction takes in the code segment. -/
def Instr.size (i : Instr) : Nat := (i.raw.map (·.len.bytes)).getD 0

/-- Length in bytes that the two lowest bits give (02 R24). -/
def sizeOf (w : Nat) : Option Nat := (Len.ofCode (fld w 0 2)).map Len.bytes

/-- What the core decoder reads from an instruction whose bits are w, numbered from bit 0 of its first byte. -/
def decodeTableWord (nbits w : Nat) : Option Instr :=
  match decodeCore (w % 2 ^ nbits) with
  | .ok i => some i
  | .error _ => none

end Sys2Proof
end

