-- ==== Sys2Proof/Config.lean ====
section
/-! DEFINITION. Config.lean: what the manual leaves open, as constants without a body (free values), and the
figures that one part fixes. -/

namespace Sys2Proof.Config

/-- FREE VALUE (log 3). A fresh number for each use, applied to `State.free`: draws of rho under `.rs` (05 R102),
old or new translation before a shootdown completes (14 R320), old or new code block (02 R26), the data that poisoned
memory holds (14 R340, 15 R350). -/
opaque freeNat : Nat → Nat

/-- FREE VALUE (log 13). Which of the two neighbours of an inexact result FRSQ, FEXP2, FLOG2, FSIN, FCOS or FTANH
returns in FP32 and FP64, as a fixed function of operation, format and operand (05 R110): true is the upper one. -/
opaque faithfulUp : Nat → Nat → Nat → Bool

/-- FREE VALUE (log 14). The signature bytes of a measurement report: the private key never leaves the system
controller (15 R356). -/
opaque reportSignature : Nat → Nat

/-- FREE VALUE (log 14). SHA-256, of an image and of a measurement register before its digest (15 R356); whether an image verifies under the key of
the stage before it, and its security version (15 R355). -/
opaque sha256 : Nat → Nat
opaque imageVerifies : Nat → Bool
opaque imageVersion : Nat → Nat

/-- FREE VALUE (log 15). What the blocks draw, as MODPWR reads it (15 R352). -/
opaque modulePower : Nat → Nat

/-- FREE VALUE (log 17). Results that no rule states, by place and operand: 0 the block scale of QNT for an infinite
maximum under an infinite scale (05 R120), 1 an FP4 pre-sum with an infinite or zero scale (11 R249). -/
opaque openValue : Nat → Nat → Nat

/-- FREE VALUE (log 9). The launch count that a context's first grid has in its GRIDID (12 R262). -/
opaque firstLaunch : Nat → Nat

/-- FREE VALUE (log 2). Log2 of the record counts of the notice queue (true) and of the error queue (false), which no field gives
(15 R343). -/
opaque sysQueueSize : Bool → Nat

end Sys2Proof.Config
end

