-- ==== Sys2Proof/Machine/Fp.lean ====
section
/-! DEFINITION. Fp.lean: the floating formats, exact values, rounding and flags (05 R97-R104), and the arithmetic of
05 R107-R115. Finite values are exact dyadic numbers. -/

namespace Sys2Proof

/-- FPF (05 R104): bit 0 inv, 1 dz, 2 ovf, 3 unf, 4 inx, 5 sat. -/
abbrev Fl := BitVec 6
def Fl.inv : Fl := 0x01
def Fl.dz : Fl := 0x02
def Fl.ovf : Fl := 0x04
def Fl.unf : Fl := 0x08
def Fl.inx : Fl := 0x10
def Fl.sat : Fl := 0x20

/-- A floating format (05 R97): exponent bits, stored significand bits f, bias, the code of its largest finite
magnitude, its infinity's code if it has one, its canonical NaN, and whether it has a sign bit. -/
structure Fmt where
  eb   : Nat
  fb   : Nat
  bias : Int
  maxc : Nat
  inf  : Option Nat
  nan  : Nat
  sgn  : Bool
  deriving DecidableEq, Repr

namespace Fmt
def fp64 : Fmt := ⟨11, 52, 1023, 0x7FEFFFFFFFFFFFFF, some 0x7FF0000000000000, 0x7FF8000000000000, true⟩
def fp32 : Fmt := ⟨8, 23, 127, 0x7F7FFFFF, some 0x7F800000, 0x7FC00000, true⟩
def fp16 : Fmt := ⟨5, 10, 15, 0x7BFF, some 0x7C00, 0x7E00, true⟩
def bf16 : Fmt := ⟨8, 7, 127, 0x7F7F, some 0x7F80, 0x7FC0, true⟩
def e5m2 : Fmt := ⟨5, 2, 15, 0x7B, some 0x7C, 0x7E, true⟩
def e4m3 : Fmt := ⟨4, 3, 7, 0x7E, none, 0x7F, true⟩
/-- E2M1 has no NaN; no rule makes one in it. -/
def e2m1 : Fmt := ⟨2, 1, 1, 7, none, 0, true⟩
def e3m5 : Fmt := ⟨3, 5, 3, 0xFE, none, 0xFF, false⟩
end Fmt

/-- The format F of FN (05 R105). -/
def FTy.fmt : FTy → Fmt
  | .f32 => .fp32
  | .f64 => .fp64
  | .f16 => .fp16
  | .bf16 => .bf16

/-- An exact value: NaN, an infinity, or (-1)^neg · m · 2^e, a signed zero when m = 0. -/
inductive Num where
  | nan
  | inf (neg : Bool)
  | fin (neg : Bool) (m : Nat) (e : Int)
  deriving DecidableEq, Repr

def Num.isNan : Num → Bool
  | .nan => true
  | _ => false
def Num.isZero : Num → Bool
  | .fin _ 0 _ => true
  | _ => false
def Num.isInf : Num → Bool
  | .inf _ => true
  | _ => false
def Num.neg : Num → Bool
  | .inf n | .fin n _ _ => n
  | .nan => false
def Num.flip (c : Bool) : Num → Num
  | .nan => .nan
  | .inf n => .inf (n != c)
  | .fin n m e => .fin (n != c) m e
def Num.abs : Num → Num
  | .nan => .nan
  | .inf _ => .inf false
  | .fin _ m e => .fin false m e
def Num.ofInt (i : Int) : Num := .fin (i < 0) i.natAbs 0

/-- fv(bits, F) (05 R102). -/
def fv (bits : Nat) (F : Fmt) : Num :=
  let mag := bits % 2 ^ (F.eb + F.fb)
  let neg := F.sgn && bits / 2 ^ (F.eb + F.fb) % 2 == 1
  if F.maxc < mag then (if F.inf = some mag then .inf neg else .nan)
  else if mag < 2 ^ F.fb then .fin neg mag (1 - F.bias - F.fb)
  else .fin neg (mag % 2 ^ F.fb + 2 ^ F.fb) ((mag / 2 ^ F.fb : Nat) - F.bias - F.fb)

/-- Rounding modes (05 R102); `rs` carries its draw of rho. -/
inductive Rm where
  | rn | rz | ru | rd
  | rs (rho : Nat)
  deriving DecidableEq, Repr

def Rm.ofCode (n : Nat) (rho : Nat) : Rm :=
  match n with
  | 0 => .rn | 1 => .rz | 2 => .ru | 3 => .rd | _ => .rs rho

/-- A magnitude m·2^e, or, with `st`, one strictly between m·2^e and (m+1)·2^e. -/
structure Mag where
  m  : Nat
  e  : Int
  st : Bool
  deriving DecidableEq, Repr

def shl' (m : Nat) (k : Int) : Nat := m * 2 ^ k.toNat

/-- Rounding to multiples of 2^q: the multiple and whether it differs from the exact value (05 R102). -/
def roundAt (rm : Rm) (neg : Bool) (x : Mag) (q : Int) : Nat × Bool :=
  if q ≤ x.e then (shl' x.m (x.e - q), x.st)
  else
    let sh := (q - x.e).toNat
    -- far below the quantum: the multiple is 0 and the fraction is below 2^-16
    if x.m.log2 + 40 < sh then
      if x.m = 0 && !x.st then (0, false)
      else ((match rm with
        | .ru => if neg then 0 else 1
        | .rd => if neg then 1 else 0
        | _ => 0), true)
    else
      let k := x.m / 2 ^ sh
      let r := x.m % 2 ^ sh
      let inex := r != 0 || x.st
      let up := match rm with
        | .rn => 2 ^ sh < 2 * r || (2 * r == 2 ^ sh && (x.st || k % 2 == 1))
        | .rz => false
        | .ru => inex && !neg
        | .rd => inex && neg
        | .rs rho => rho < r * 2 ^ 16 / 2 ^ sh
      (k + up.toNat, inex)

/-- floor(log2 |x|) of a non-zero magnitude. -/
def Mag.lg (x : Mag) : Int := x.e + x.m.log2

/-- Rounds a magnitude to f significand bits with least exponent emin, exponents unbounded above: multiple and
quantum, and whether inexact. -/
def roundVal (f : Nat) (emin : Int) (rm : Rm) (neg : Bool) (x : Mag) : Nat × Int × Bool :=
  let q := if x.m = 0 then emin - f else max (x.lg - f) (emin - f)
  let (k, inex) := roundAt rm neg x q
  (k, q, inex)

/-- The code of k·2^q, which has at most f+1 significant bits, as though exponents were unbounded above. -/
def codeOf (F : Fmt) (k : Nat) (q : Int) : Nat :=
  if k = 0 then 0
  else
    let lg := q + k.log2
    let emin := 1 - F.bias
    if lg < emin then shl' k (q - (emin - F.fb))
    else (lg + F.bias).toNat * 2 ^ F.fb + (shl' k (F.fb - (k.log2 : Int) + 0) / 2 ^ (k.log2 - F.fb) - 2 ^ F.fb)

def signed (F : Fmt) (neg : Bool) (code : Nat) : Nat := if neg && F.sgn then code + 2 ^ (F.eb + F.fb) else code

/-- The unbounded rounding of a finite non-NaN magnitude: code, inexact, overflow. -/
def roundCode (F : Fmt) (rm : Rm) (neg : Bool) (x : Mag) : Nat × Bool :=
  let (k, q, inex) := roundVal F.fb (1 - F.bias) rm neg x
  (codeOf F k q, inex)

/-- Result of an overflow in a format with infinity (05 R102); without one, the largest finite value. -/
def ovfCode (F : Fmt) (rm : Rm) (neg : Bool) : Nat :=
  match F.inf with
  | none => F.maxc
  | some i =>
    match rm with
    | .rn | .rs _ => i
    | .rz => F.maxc
    | .ru => if neg then F.maxc else i
    | .rd => if neg then i else F.maxc

/-- Flags of a rounded magnitude without overflow (05 R104). -/
def roundFl (F : Fmt) (code : Nat) (inex : Bool) : Fl :=
  if inex then (if code < 2 ^ F.fb then .inx ||| .unf else .inx) else 0

/-- round(x, F, rm) for a magnitude with a sign (05 R102): encoding and flags. -/
def roundMag (F : Fmt) (rm : Rm) (neg : Bool) (x : Mag) : Nat × Fl :=
  let (c, inex) := roundCode F rm neg x
  if F.maxc < c then (signed F neg (ovfCode F rm neg), .ovf ||| .inx)
  else (signed F neg c, roundFl F c inex)

/-- canon(F). -/
def canon (F : Fmt) : Nat := F.nan

/-- round(x, F, rm) of an exact value. -/
def round (x : Num) (F : Fmt) (rm : Rm) : Nat × Fl :=
  match x with
  | .nan => (canon F, 0)
  | .inf n => (signed F n ((F.inf).getD F.maxc), 0)
  | .fin n m e => roundMag F rm n ⟨m, e, false⟩

/-- round_ne(x, F). -/
def roundNe (x : Num) (F : Fmt) : Nat := (round x F .rn).1

/-! ### Exact arithmetic -/

def alignE (e : Int) (m : Nat) (e0 : Int) : Nat := m * 2 ^ (e - e0).toNat

/-- The signed integer of a finite value at exponent e0 ≤ e. -/
def sgnInt (neg : Bool) (m : Nat) : Int := if neg then -(m : Int) else m

/-- The exact sum, with the sign of an exact zero by `rd` (05 R103): the flag says ∞ - ∞. -/
def addNum (rd : Bool) (x y : Num) : Num × Bool :=
  match x, y with
  | .nan, _ | _, .nan => (.nan, false)
  | .inf a, .inf b => if a == b then (.inf a, false) else (.nan, true)
  | .inf a, _ | _, .inf a => (.inf a, false)
  | .fin na ma ea, .fin nb mb eb =>
    let e0 := min ea eb
    let s := sgnInt na (alignE ea ma e0) + sgnInt nb (alignE eb mb e0)
    if s = 0 then (.fin (if ma = 0 && mb = 0 && na == nb then na else rd) 0 e0, false)
    else (.fin (s < 0) s.natAbs e0, false)

/-- The exact product: the flag says 0 × ∞. -/
def mulNum (x y : Num) : Num × Bool :=
  match x, y with
  | .nan, _ | _, .nan => (.nan, false)
  | .inf a, .inf b => (.inf (a != b), false)
  | .inf a, .fin b m _ | .fin b m _, .inf a => if m = 0 then (.nan, true) else (.inf (a != b), false)
  | .fin na ma ea, .fin nb mb eb => (.fin (na != nb) (ma * mb) (ea + eb), false)

/-- Order of two values that are not NaN, −0 equal to +0. -/
def ltNum (x y : Num) : Bool :=
  match x, y with
  | .nan, _ | _, .nan => false
  | .inf a, .inf b => a && !b
  | .inf a, _ => a
  | _, .inf b => !b
  | .fin na ma ea, .fin nb mb eb =>
    let e0 := min ea eb
    sgnInt na (alignE ea ma e0) < sgnInt nb (alignE eb mb e0)

def eqNum (x y : Num) : Bool := !x.isNan && !y.isNan && !ltNum x y && !ltNum y x

/-- floor(√n), one bit at a time from bit k. -/
def isqrtGo (n : Nat) : Nat → Nat → Nat
  | 0, r => r
  | k + 1, r => isqrtGo n k (if (r + 2 ^ k) * (r + 2 ^ k) ≤ n then r + 2 ^ k else r)
def isqrt (n : Nat) : Nat := isqrtGo n (n.log2 / 2 + 1) 0

/-- Quotient of two non-zero magnitudes, truncated to at least `p` bits. -/
def divMag (m1 : Nat) (e1 : Int) (m2 : Nat) (e2 : Int) (p : Nat) : Mag :=
  let k := p + m2.log2 - m1.log2 + (if m1.log2 < m2.log2 then 0 else 1)
  ⟨m1 * 2 ^ k / m2, e1 - e2 - k, m1 * 2 ^ k % m2 != 0⟩

/-- √(m·2^e) truncated to at least `p` bits. -/
def sqrtMag (m : Nat) (e : Int) (p : Nat) : Mag :=
  let j := 2 * p + (e % 2).toNat
  let n := m * 2 ^ j
  let r := isqrt n
  ⟨r, (e - j) / 2, r * r != n⟩

/-- 1/√(m·2^e) truncated to at least `p` bits. -/
def rsqMag (m : Nat) (e : Int) (p : Nat) : Mag :=
  let j := 2 * (p + m.log2) + (e % 2).toNat
  let r := isqrt (2 ^ j / m)
  ⟨r, (-e - j) / 2, r * r * m != 2 ^ j⟩

/-! ### Interval enclosures at scale 2^p: pairs (lo, hi) of naturals with lo ≤ x·2^p ≤ hi -/

/-- Σ (1/3)^(2k+1)/(2k+1) at scale 2^p, `n` terms, rounded down. -/
def atanh3 (p : Nat) : Nat → Nat → Nat → Nat
  | 0, _, _ => 0
  | n + 1, pw, k => pw / k + atanh3 p n (pw / 9) (k + 2)

/-- ln 2 = 2·atanh(1/3). -/
def ln2At (p : Nat) : Nat × Nat :=
  let s := 2 * atanh3 p p (2 ^ p / 3) 1
  (s, s + 4 * p + 4)

/-- Alternating arctangent series of 1/x at scale 2^p: (positive sum, negative sum). -/
def atanInv (x : Nat) : Nat → Nat → Nat → Nat × Nat
  | 0, _, _ => (0, 0)
  | n + 1, pw, k =>
    let (a, b) := atanInv x n (pw / (x * x)) (k + 2)
    (pw / k + b, a)

/-- π = 16·atan(1/5) − 4·atan(1/239). -/
def piAt (p : Nat) : Nat × Nat :=
  let (a, b) := atanInv 5 p (2 ^ p / 5) 1
  let (c, d) := atanInv 239 p (2 ^ p / 239) 1
  let s := 16 * (a - b) - 4 * (c - d)
  (s - 60 * p, s + 60 * p)

/-- e^x at scale 2^p for x in [0, 1) given at scale 2^p, `n` more terms from term k: rounded down. -/
def expGo (p x : Nat) : Nat → Nat → Nat → Nat
  | 0, _, _ => 0
  | n + 1, t, k => t + expGo p x n (t * x / 2 ^ p / k) (k + 1)

/-- Bounds of e^x for x in [lo, hi] below 1. -/
def expAt (p : Nat) (x : Nat × Nat) : Nat × Nat :=
  (expGo p x.1 (p + 8) (2 ^ p) 1, expGo p x.2 (p + 8) (2 ^ p) 1 + 2 * p + 20)

/-- atanh(z) at scale 2^p for z in [0, 1/3] at scale 2^p, rounded down. -/
def atanhGo (p z2 : Nat) : Nat → Nat → Nat → Nat
  | 0, _, _ => 0
  | n + 1, pw, k => pw / k + atanhGo p z2 n (pw * z2 / 2 ^ p) (k + 2)

def atanhAt (p : Nat) (z : Nat × Nat) : Nat × Nat :=
  (atanhGo p (z.1 * z.1 / 2 ^ p) p z.1 1, atanhGo p (z.2 * z.2 / 2 ^ p + 1) p z.2 1 + 4 * p + 4)

/-- Σ (−1)^k c^k/(2k+j)!-style sums: terms t, t·y/((k)(k+1)), … at scale 2^p; (positive, negative). -/
def altGo (p y : Nat) : Nat → Nat → Nat → Nat × Nat
  | 0, _, _ => (0, 0)
  | n + 1, t, k =>
    let (a, b) := altGo p y n (t * y / 2 ^ p / (k * (k + 1))) (k + 2)
    (t + b, a)

/-- If both bounds agree in their top 64 bits, the magnitude they enclose, which is irrational. -/
def decide' (p : Int) (x : Nat × Nat) : Option Mag :=
  let t := x.2.log2 - 64
  if 0 < t && x.1 / 2 ^ t == x.2 / 2 ^ t then some ⟨x.1 / 2 ^ t, (t : Int) - p, true⟩ else none

/-- The first precision that decides; the precisions grow well past what the formats need. -/
def firstOf (f : Nat → Option Mag) : List Nat → Mag
  | [] => ⟨1, 0, true⟩
  | p :: ps => (f p).getD (firstOf f ps)

def precs : List Nat := [160, 256, 512, 1024, 2048]

/-- A little below or above 1. -/
def below1 : Mag := ⟨2 ^ 80 - 1, -80, true⟩
def above1 : Mag := ⟨2 ^ 80, -80, true⟩

/-- A dyadic number at scale 2^p, rounded down and up. -/
def atScale (m : Nat) (e : Int) (p : Nat) : Nat × Nat :=
  let s := e + p
  if 0 ≤ s then (shl' m s, shl' m s)
  else (m / 2 ^ (-s).toNat, m / 2 ^ (-s).toNat + 1)

def mulAt (p : Nat) (x y : Nat × Nat) : Nat × Nat := (x.1 * y.1 / 2 ^ p, x.2 * y.2 / 2 ^ p + 1)

/-- 2^x for x = m·2^e in (0, 1). -/
def exp2Frac (m : Nat) (e : Int) : Mag :=
  if e + m.log2 < -90 then above1
  else firstOf (fun p => decide' p (expAt p (mulAt p (atScale m e p) (ln2At p)))) precs

/-- 2^a for a finite non-integer a = ±m·2^e, or for an integer, exactly. Exponents beyond every format are cut. -/
def exp2Mag (neg : Bool) (m : Nat) (e : Int) : Mag :=
  if 20 < e + m.log2 then ⟨1, if neg then -2 ^ 20 else 2 ^ 20, true⟩
  else if 0 ≤ e then ⟨1, sgnInt neg (shl' m e), false⟩
  else
    let d := 2 ^ (-e).toNat
    if e < -5000 then (if neg then below1 else above1)
    else if m % d = 0 then ⟨1, sgnInt neg (m / d), false⟩
    else
      -- floor and fraction of a
      let n : Int := if neg then -((m / d : Nat) : Int) - 1 else (m / d : Nat)
      let fr := if neg then d - m % d else m % d
      if neg && m / d = 0 && e + m.log2 < -90 then below1
      else
        let r := exp2Frac fr e
        { r with e := r.e + n }

/-- log2 of m·2^e, m·2^e not a power of two: sign and magnitude. -/
def log2Mag (m : Nat) (e : Int) : Bool × Mag :=
  let k := e + m.log2
  -- y = m / 2^log2 m in (1, 2), log2 a = k + log2 y
  let w := m.log2
  let lg (p : Nat) : Nat × Nat :=
    let z : Nat × Nat := ((m - 2 ^ w) * 2 ^ p / (m + 2 ^ w), (m - 2 ^ w) * 2 ^ p / (m + 2 ^ w) + 1)
    let (a, b) := atanhAt p z
    let (c, d) := ln2At p
    (2 * a * 2 ^ p / d, 2 * b * 2 ^ p / c + 1)
  if 0 ≤ k then (false, firstOf (fun p => let (a, b) := lg p; decide' p (k.toNat * 2 ^ p + a, k.toNat * 2 ^ p + b)) precs)
  else (true, firstOf (fun p => let (a, b) := lg p; decide' p ((-k).toNat * 2 ^ p - b, (-k).toNat * 2 ^ p - a)) precs)

/-- sin(π·m·2^e) for 0 < m·2^e ≤ 1/4, as m·2^e times an enclosed factor. -/
def sinMag (m : Nat) (e : Int) : Mag :=
  firstOf (fun p =>
    let (pl, ph) := piAt p
    let x := atScale m e p
    let yl := x.1 * x.1 / 2 ^ p * pl / 2 ^ p * pl / 2 ^ p
    let yh := (x.2 * x.2 / 2 ^ p + 1) * ph / 2 ^ p * ph / 2 ^ p + 2
    -- sin(πx)/x = π·Σ(−1)^k (πx)^{2k}/(2k+1)!
    let (a, _) := altGo p yl (p / 2 + 8) (2 ^ p) 2
    let (_, b) := altGo p yh (p / 2 + 8) (2 ^ p) 2
    let (a', _) := altGo p yh (p / 2 + 8) (2 ^ p) 2
    let (_, b') := altGo p yl (p / 2 + 8) (2 ^ p) 2
    let lo := (min a a' - max b b' - 4 * p - 40) * pl / 2 ^ p
    let hi := (max a a' - min b b' + 4 * p + 40) * ph / 2 ^ p + 1
    (decide' p (lo * m, hi * m)).map fun g => ⟨g.m, g.e + e, true⟩) precs

/-- cos(π·m·2^e) for 0 < m·2^e ≤ 1/4. -/
def cosMag (m : Nat) (e : Int) : Mag :=
  if e + m.log2 < -50 then below1
  else firstOf (fun p =>
    let (pl, ph) := piAt p
    let x := atScale m e p
    let yl := x.1 * x.1 / 2 ^ p * pl / 2 ^ p * pl / 2 ^ p
    let yh := (x.2 * x.2 / 2 ^ p + 1) * ph / 2 ^ p * ph / 2 ^ p + 2
    let (a, b) := altGo p yl (p / 2 + 8) (2 ^ p) 1
    let (a', b') := altGo p yh (p / 2 + 8) (2 ^ p) 1
    decide' p (min a a' - max b b' - 4 * p - 40, max a a' - min b b' + 4 * p + 40)) precs

/-- sin(πr) for a dyadic r = k/2^n in [0, 1/2]: `none` at the exact cases 0 and 1/2. -/
def sinHalf (k n : Nat) : Mag :=
  -- r ≤ 1/4 directly, else cos(π(1/2 − r))
  if k = 0 then ⟨0, 0, false⟩
  else if 2 * k = 2 ^ n then ⟨1, 0, false⟩
  else if 4 * k ≤ 2 ^ n then sinMag k (-n)
  else cosMag (2 ^ n - 2 * k) (-(n : Int) - 1)

/-- sin(π·m·2^e), m·2^e ≥ 0: sign and magnitude (05 R112: the reduction is exact). -/
def sinPi (m : Nat) (e : Int) : Bool × Mag :=
  if 0 ≤ e then (false, ⟨0, 0, false⟩)
  else
    let n := (-e).toNat
    let r := m % 2 ^ (n + 1)               -- a mod 2, in units of 2^-n
    let (neg, r) := if 2 ^ n ≤ r then (true, r - 2 ^ n) else (false, r)
    let r := if 2 ^ n < 2 * r then 2 ^ n - r else r
    (neg, sinHalf r n)

/-- cos(π·m·2^e) = sin(π(1/2 + a)). -/
def cosPi (m : Nat) (e : Int) : Bool × Mag :=
  if 0 ≤ e then (m * 2 ^ e.toNat % 2 == 1, ⟨1, 0, false⟩)
  else
    let n := (-e).toNat
    sinPi (2 * m + 2 ^ n) (e - 1)

/-- tanh(m·2^e), m > 0. -/
def tanhMag (m : Nat) (e : Int) : Mag :=
  if e + m.log2 < -100 then ⟨m * 2 ^ 100 - 1, e - 100, true⟩
  else if 6 ≤ e + m.log2 then below1
  else firstOf (fun p =>
    -- E = e^{2a} = 2^n · e^f with 2a = n·ln2 + f
    let (cl, ch) := ln2At p
    let (al, ah) := atScale (2 * m) e p
    let n := al / ch
    let fl := al - n * ch
    let fh := ah - n * cl
    let (el, eh) := expAt p (fl, fh)
    let (el, eh) := (el * 2 ^ n, eh * 2 ^ n)
    decide' p ((el - 2 ^ p) * 2 ^ p / (el + 2 ^ p), (eh - 2 ^ p) * 2 ^ p / (eh + 2 ^ p) + 1)) precs

end Sys2Proof
end

