-- ==== Sys2Proof/Machine/State.lean ====
section
/-! DEFINITION. State.lean: everything the manual gives the machine, as plain data, and the machine after reset.
Numbering: die d = 0..3; quadrant 4*d + Q; core 48*d + c; matrix engine 12*d + e; copy engine 8*d + i; stack core and
channel 32*s + j. -/

namespace Sys2Proof.Machine

open Sys2Proof

/-! ### Groups (02 R41, 03 R50) -/

/-- A vector register by its tag (02 R36). -/
inductive VReg where
  | uni (u : W32)
  | aff (b t : W32)
  | gen (v : Lanes W32)
  deriving DecidableEq, Repr

/-- What a waiting lane waits for (03 R50): a fault record, an instruction's access at a bank (full/empty bits, objects,
curd lists), a handle's record, a cycle count, or a condition that the instruction tests again. -/
inductive Wait where
  /-- The fault record with this identity (06 R144). -/
  | fault (rec : Nat)
  /-- Until the object instruction with this identity is applied at its bank, which completes it (09 R194). -/
  | bank (uid : Nat)
  /-- A handle's record (10 R223). -/
  | handle (h : W64)
  /-- SLEEP, to a cycle of the die, the address it moves on to, and which wait it is (14 R327, R329). -/
  | sleep (t : Nat) (next : W32) (id : Nat)
  /-- A full/empty bit of a granule of a team's window (06 R139). -/
  | fe (team gran : Nat)
  /-- CVSIGN `.wt`: the signer's register, whose next generation completes it (09 R210). -/
  | cvgen (cv : Nat) (next : W32)
  /-- Signing in a later generation: for CVSIGN which one it is, its destination, `.wt` and the address it moves on to; none for an MMA, which the
  instruction itself makes (09 R209, R210, 11 R242). -/
  | cvsign (cv : Nat) (sig : Option (Nat × Nat × Bool × W32))
  /-- A matrix engine's lease, a free entry of its table, or the end of a team's requests (11 R236, R242, R257). -/
  | lease (eng : Nat)
  | table (eng : Nat)
  | drain (engs : List Nat)
  /-- MSTAT `.rel`: the end of the leases (11 R258). -/
  | rel (engs : List Nat) (next : W32)
  /-- A die's curd unit, held by another grid (12 R272). -/
  | curd (die : Nat)
  /-- Lanes held together until every record is resolved and every granule full (06 R140, R146). -/
  | joint (recs : List Nat) (fes : List (Nat × Nat))
  /-- WTAKE at a list (12 R275). -/
  | take (uid : Nat)
  deriving DecidableEq, Repr

/-- The state of one lane (03 R50). -/
inductive Lane where
  | ready
  | waiting (w : Wait)
  | parked
  | exited
  deriving DecidableEq, Repr

/-- One write of a result to a register. -/
inductive Wr where
  /-- The whole vector register becomes this. -/
  | vset (d : Nat) (r : VReg)
  /-- The lanes of `m` receive `v`; the register becomes general (02 R36, rules 2 and 3). -/
  | vlanes (d : Nat) (m : Mask) (v : Lanes W32)
  | sset (d : Nat) (x : W64)
  /-- The bits of `m` receive those of `v`. -/
  | pset (d : Nat) (m v : Mask)
  | hset (d : Nat) (x : W64)
  /-- FPF collects flags (05 R104). -/
  | fpf (fl : BitVec 6)
  /-- Lanes of the needed entries take their values, by access size code (06 R134, R137). -/
  | ld (d sz : Nat)
  /-- The one needed value goes to every lane, or to a scalar (06 R140). -/
  | ldu (d sz : Nat) (sd : Bool)
  /-- Bit l receives whether the value of lane l's entry is not 0. -/
  | pbits (d : Nat)
  /-- The bits of `m` receive whether the one needed value is not 0. -/
  | pall (d : Nat) (m : Mask)
  /-- `n` scalars receive the one needed value. -/
  | sval (d n : Nat)
  /-- A vector register receives the one needed value, 32 bits a lane. -/
  | vbig (d : Nat) (m : Mask)
  deriving DecidableEq, Repr

/-- A result not yet committed (02 R37, R38): due at a cycle of the die, or interlocked. `need` lists the outbound-queue
entries whose values it still lacks. -/
structure Pend where
  due  : Option Nat
  need : List Nat
  wrs  : List Wr
  deriving DecidableEq, Repr

/-- Where an access goes: physical memory with its class (0 P, 1 R, 2 S, 3 G, 4 window; of an access still queued, 4 more where it
lay in a window at issue), or a team's scratchpad. -/
inductive Loc where
  | mem (pa cls : Nat)
  | pad (team off : Nat)
  | nowhere
  deriving DecidableEq, Repr

/-- An operation on an object at its bank (09 R199). Fields are register numbers and register values read at issue. -/
inductive ObjOp where
  | barinit (exp : Nat) (lock trap : Bool)
  | bararv (d n : Nat)
  /-- `dead` is the cycle at which the budget is spent, once the first check is made (19 R375). -/
  | barwt (d phase budget : Nat) (dead : Option Nat)
  | barq (d : Nat) (clr : Bool)
  /-- `asked`: counted among the waiters. -/
  | lkacq (asked : Bool)
  | lktry (d : Nat)
  | lkrel
  | grset (list : Nat)
  | chsend (data : Nat)
  /-- `slot`: the slot claimed, whose 32 granules are awaited (09 R213). -/
  | chrecv (d : Nat) (slot : Option Nat)
  deriving DecidableEq, Repr

/-- An object instruction waiting at a bank, in the order of arrival (09 R194, R204, 19 R377). -/
structure Wt where
  id   : Nat
  grp  : Nat
  off  : Nat
  op   : ObjOp
  acq  : Nat
  rel  : Nat
  mask : Mask
  next : W32
  deriving DecidableEq, Repr

/-- What a spiral query asks at its tile (07 R162-R164). -/
inductive Query where
  | dist
  | pin
  | unpin
  | pull (target : Nat)
  deriving DecidableEq, Repr

/-- What an outbound-queue entry does (08 R170). -/
inductive EKind where
  | load
  | store
  | atom (op : Nat) (sgn : Bool) (e : Nat)
  | lr
  | sc
  /-- FESET and FETEST; `set` is none for FETEST (06 R141). -/
  | fe (set : Option Bool)
  /-- A full/empty load: 1 `.fw`, 2 `.fc` (06 R139). -/
  | feload (fc : Bool)
  /-- 0 SPCLEAN, 1 SPINV, 2 SPFLUSH over the tiles listed as addresses (07 R165). -/
  | range (op : Nat) (tiles : List Nat)
  /-- An engine request: a claimed slot's packet write, or a matrix request of an engine (08 R176, 11 R244). -/
  | engine (req : Nat)
  | fence (kind scope : Nat)
  /-- An object's atomic access, made at its bank (09 R195): its instruction until it reaches the bank, none once it is performed. -/
  | obj (w : Option Wt)
  /-- One granule of a channel message, written once its granule is empty (09 R212). -/
  | chan
  /-- WAPP's items: each acts as a release at `.dev` (12 R274). -/
  | item (list : Nat)
  /-- A spiral query on its way to its tile, and PF's request for a line: no accesses of 08 R170, they hold nothing back, and R171 holds
  them not (07 R161-R164, 06 R142, 18 R373). -/
  | query (q : Query)
  | pf
  deriving DecidableEq, Repr

/-- How far an entry has gone: in the queue; waiting at its core for the line or copy that it will be performed at, the request for it
standing in `val`; its request on the way; in a remote apply queue; applied at its holding point with the acknowledgement outstanding;
performed. -/
inductive Stage where | queued | filling | left | taken | applied | done
  deriving DecidableEq, Repr

/-- One entry of a group's outbound queue, in program order (08 R169, R170). -/
structure Entry where
  uid   : Nat
  kind  : EKind
  /-- The lane, 128 for the whole group. -/
  lane  : Nat
  mask  : Mask
  pc    : W32
  va    : W64
  loc   : Loc
  n     : Nat
  data  : Nat
  acq   : Nat
  rel   : Nat
  far   : Bool
  stage : Stage
  val   : Nat
  /-- External writes accepted at each die when an acquire was performed (08 R183). -/
  extAt : List Nat
  /-- The acquire actions are done. -/
  acqOk : Bool
  /-- The instruction it is of, where its accesses to one granule are served together (06 R130); 0 for none. -/
  inst  : Nat := 0
  /-- All lanes of its instruction complete together (06 R140, R146). -/
  whole : Bool := false
  deriving DecidableEq, Repr

/-- A trap raised and not yet resolved (14 R310-R314). -/
structure TrapSt where
  cause     : Nat
  pc        : W32
  code      : Nat
  lane      : Nat
  lanes     : Mask
  va        : W64
  after     : Bool
  size      : Nat
  /-- TRAPC is written and the record queued. -/
  delivered : Bool
  /-- The record's sequence number once written. -/
  seq       : Option Nat
  deriving DecidableEq, Repr

/-- Where a group stands: resident; ended with work outstanding (03 R74); saved (14 R329). -/
inductive Res where | resident | draining | saved
  deriving DecidableEq, Repr

/-- A group (03 R50-R66, 02 R41-R43). -/
structure Group where
  id        : Nat
  team      : Nat
  gid       : Nat
  core      : Nat
  slot      : Nat
  res       : Res
  nv        : Nat
  ns        : Nat
  vregs     : Vector VReg 256
  sregs     : Vector W64 192
  preds     : Vector Mask 8
  hnds      : Vector W64 16
  pcv       : Lanes W32
  lanes     : Lanes Lane
  freed     : BitVec 8
  donem     : Mask
  spoob     : Bool
  spooba    : W64
  friv      : Nat
  sbchk     : Bool
  trapc     : W64
  fpf       : BitVec 6
  fair      : Nat
  /-- The rotated set while a rotation lasts (03 R56). -/
  rot       : Option Mask
  rotReq    : Bool
  /-- Lanes that executed the previous instruction, for path changes (03 R59). -/
  prev      : Mask
  /-- Lanes that became ready after a wait since the last issue (03 R59). -/
  woken     : Mask
  nextIssue : Nat
  /-- Block offset of the first of the two buffered blocks (03 R60). -/
  ibuf      : Option Nat
  /-- The bytes of the buffered blocks, each as it stood at the moment it was fetched (02 R26, 03 R60). -/
  iblk      : List (Nat × List Byte)
  retp      : List W32
  pend      : List Pend
  obq       : List Entry
  /-- Engine requests whose record is not yet written (03 R74). -/
  engines   : List Nat
  trap      : Option TrapSt
  /-- Traps raised while one is outstanding, in order: each follows the end of the one before (14 R311). -/
  later     : List TrapSt
  /-- Pre-emption asked for at this cycle (03 R63). -/
  preempt   : Option Nat
  gangAbort : Bool
  hidden    : Bool
  /-- Granules its next instruction, or its recall, needs and does not find free (02 R42). -/
  room      : Nat
  lastIssue : Nat
  idle      : Bool
  priv      : Nat
  /-- Ended by force with its core's drydown tracker full: it keeps its slot until an entry frees (03 R74, log 56). -/
  untracked : Bool
  /-- How it ended: none while running, some true by EXIT or TAIL. -/
  ended     : Option Bool
  /-- Its place in the context's save pool: offset and size (14 R329). -/
  img       : Option (Nat × Nat)
  /-- Lanes that a resume moves on once the saved group is restored, and where to (14 R312). -/
  adv       : List (Mask × W32)
  deriving DecidableEq, Repr

/-- A matrix request (11 R242): in a reservation table, or attached to a convergence register. -/
structure MReq where
  uid    : Nat
  grp    : Nat
  team   : Nat
  ctx    : Nat
  grid   : W64
  pc     : W32
  instr  : Instr
  /-- s[A], s[B], and the token waited for. -/
  a      : W64
  b      : W64
  tok    : W64
  hdl    : W64
  /-- The engine in whose table it stands; a chain's westernmost. -/
  eng    : Nat
  /-- Groups that signed, with the entries they had issued before (11 R244, 22 R386). -/
  signers : List (Nat × List Nat)
  /-- Accepted by the engine (08 R176). -/
  acc    : Bool
  passes : Nat
  /-- The activation, once all of it has been read (11 R244). -/
  data   : Option Nat
  count  : Nat
  aux    : Nat
  status : Nat
  fcode  : Nat
  ffa    : W64
  /-- Ended: only its record is still to be written. -/
  done   : Bool
  wait   : Option Nat
  /-- Its engine has begun its work (11 R259). -/
  started : Bool := false
  /-- Pieces of 16 bytes of the source, each read once, in order (11 R241, R244, R256). -/
  got    : List (Option Nat) := []
  /-- Destination pieces of 16 bytes that an accepted MACRD has not written yet: number, address, place (08 R176, 11 R244). -/
  own    : List (Nat × W64 × Loc) := []
  deriving DecidableEq, Repr

/-! ### Teams (06 R130, 09 R208, 12 R262) -/

/-- A convergence register (09 R208) and the matrix request attached to it. -/
structure Cv where
  members : W32
  signed  : W32
  gen     : Nat
  bound   : Option MReq
  /-- What each signer of this generation had issued before its signature (11 R244, 22 R386). -/
  snap    : List (Nat × List Nat)
  deriving DecidableEq, Repr

structure Team where
  id      : Nat
  grid    : Nat
  teamid  : Nat
  cluster : Nat
  crank   : Nat
  ctag    : Nat
  core    : Nat
  base    : Nat
  size    : Nat
  pwr     : Nat
  /-- The window's bytes that are not 0, and its full granules. -/
  win     : List Host.Cell
  full    : List Nat
  cvs     : Vector Cv 8
  /-- Object instructions waiting at the banks, oldest first (09 R194). -/
  bankq   : List Wt
  /-- Groups formed, and those not yet ended. -/
  groups  : Nat
  left    : Nat
  /-- A group of it did not end by EXIT or TAIL (12 R269). -/
  bad     : Bool
  saved   : Bool
  /-- Save area in the context's pool while images lie there: offset and size (14 R329). -/
  area    : Option (Nat × Nat)
  /-- The team image as it was written: what the driver changes of it is restored (14 R330). -/
  image   : Nat := 0
  deriving DecidableEq, Repr

/-! ### Memory machine (08 R169-R177) -/

/-- A request on its way to a home point, or waiting in an apply queue (08 R173, R174). -/
structure Req where
  uid    : Nat
  /-- Sending core, or 1000 + copy engine, 2000 + matrix engine, 3000 + stack core, 4000 + external source. -/
  src    : Nat
  srcDie : Nat
  home   : Nat
  /-- The group and outbound-queue entry served, if any. -/
  grp    : Nat
  ent    : Nat
  kind   : EKind
  loc    : Loc
  n      : Nat
  data   : Nat
  /-- Bytes written by a write-back, with their addresses. -/
  cells  : List Host.Cell
  write  : Bool
  far    : Bool
  /-- 0 the access itself, 1 a fill of its L1 line, 2 a fill of a requester-side copy, 3 the access itself at its quadrant's copy, 4 a
  fill of its L1 line from that copy (06 R127, 07 R159). -/
  fill   : Nat
  stamp  : List Nat
  table  : List (List Nat)
  /-- GRIDID and context of the writer whose bytes a write-back carries (15 R346). -/
  grid   : W64 := 0
  ctx    : Nat := 0
  deriving DecidableEq, Repr

/-- A reply or acknowledgement with the home's table (08 R174): the request it answers and the value read. -/
structure Reply where
  req   : Req
  val   : Nat
  table : List (List Nat)
  deriving DecidableEq, Repr

/-- An L1 line of 128 bytes (06 R127): line address, the bytes it holds, the addresses of dirty ones, its class. A
store miss holds only the bytes stored; a fill brings the others. A line made by window accesses names the context and virtual address
of the line (14 R339). -/
structure Line where
  addr  : Nat
  cells : List Host.Cell
  dirty : List Nat
  cls   : Nat
  own   : Option (Nat × Nat)
  /-- GRIDID and context of the last writer of its bytes (15 R346). -/
  grid  : W64 := 0
  ctx   : Nat := 0
  deriving DecidableEq, Repr

/-- An LR reservation on a 16-byte block (08 R191): group, lane, the block, and whether its holding point is the core's
L1 (1), a requester-side copy (2), or the home point or bank (0). -/
structure Resv where
  grp  : Nat
  lane : Nat
  blk  : Loc
  hp   : Nat
  /-- The block's virtual address, which SC compares at issue (08 R192). -/
  va   : Nat
  deriving DecidableEq, Repr

/-- The guarded-range list of a held lock (09 R205): team, object offset, ranges as (base, length, read-only). One whose object BARINIT has
written anew is no longer in force, and its copies still go at LKREL (09 R206). -/
structure Held where
  grp    : Nat
  team   : Nat
  off    : Nat
  ranges : List (Nat × Nat × Bool)
  live   : Bool
  deriving DecidableEq, Repr

/-- An issue slot (03 R61). -/
structure Slot where
  cur  : Option Nat
  run  : Nat
  last : Nat
  busy : Nat
  deriving DecidableEq, Repr

/-- An event counter and its source (15 R353). -/
structure Ctr where
  val : W64
  src : Nat
  deriving DecidableEq, Repr

/-- A cached translation (14 R320): context, page base and size, frame, leaf entry. -/
structure Tlb where
  ctx  : Nat
  base : Nat
  size : Nat
  pte  : W64
  deriving DecidableEq, Repr

structure Core where
  l1     : List Line
  tlb    : List Tlb
  /-- Cached 32-byte code blocks: context, address of the block, bytes. -/
  icache : List (Nat × Nat × List Byte)
  /-- Resident slots given up, and the cycle: each is free in the next one (03 R73). -/
  leaving : List (Nat × Nat)
  /-- Pin table: tile address and group, oldest first (07 R157). -/
  pins   : List (Nat × Nat)
  resv   : List Resv
  held   : List Held
  slots  : Vector Slot 4
  ctrs   : Vector Ctr 8
  deriving DecidableEq, Repr

/-! ### Spiral stores (07) -/

/-- A tile of 1 KiB in a spiral (07 R149-R153): a home tile or a requester-side copy; its settled position, none while
it is being inserted; the motions not yet over, in order: the cycle in which each leaves a slot, that slot, and where it ends, one position a
cycle. -/
structure Tile where
  addr  : Nat
  copy  : Bool
  pos   : Option Nat
  legs  : List (Nat × Nat × Nat)
  /-- The class under which a copy was made. -/
  cls   : Nat
  bytes : List Byte
  dirty : List Nat
  /-- Quadrants that hold a requester-side copy (07 R159). -/
  sharers : List Nat
  /-- Acceptance cycle and rank of the access applied last (07 R155). -/
  apC     : Nat
  apR     : Nat
  /-- Of a copy: GRIDID and context of the last writer of its bytes (15 R346). -/
  grid    : W64 := 0
  ctx     : Nat := 0
  deriving DecidableEq, Repr

/-- The way of an access to its tile (07 R154): the position it stands at, the cycle in which it gets there first, the
side of a chase (0 none, 1 outward, 2 inward), and whether it has reached the tile. -/
structure Way where
  here  : Nat
  wake  : Nat
  side  : Nat
  ready : Bool
  deriving DecidableEq, Repr

/-- An access or a query accepted at a spiral and not yet applied (07 R154, R155): the cycle and rank of acceptance. -/
structure Acc where
  cycle : Nat
  rank  : Nat
  way   : Way
  req   : Req
  /-- Its place in the order of acceptance, among pulls too (07 R155). -/
  no    : Nat
  deriving DecidableEq, Repr

/-- A pending promotion request (07 R156): requester, tile, cycle of the request. -/
structure Promo where
  who   : Nat
  tile  : Nat
  copy  : Bool
  cycle : Nat
  deriving DecidableEq, Repr

/-- A pull on its way to its tile, and not yet accepted there (07 R154, R164). -/
structure Pull where
  cycle  : Nat
  rank   : Nat
  way    : Way
  req    : Req
  target : Nat
  no     : Nat
  deriving DecidableEq, Repr

structure Quad where
  tiles  : List Tile
  front  : Nat
  /-- P at the start of cycle `pAt`, the cycle of the last acceptances plus 1 (07 R155, R156). -/
  pOld   : Nat
  pAt    : Nat
  accs   : List Acc
  promos : List Promo
  pulls  : List Pull
  ctrs   : Vector Ctr 8
  deriving DecidableEq, Repr

/-! ### Dies -/

/-- A command in progress on tier units (14 R334-R337). -/
structure UnitOp where
  kind : Nat
  unit : Nat
  dst  : Nat
  cmd  : Nat
  deriving DecidableEq, Repr

/-- A WTAKE that waits at a list (12 R275). -/
structure Take where
  uid  : Nat
  grp  : Nat
  list : Nat
  d    : Nat
  pg   : Nat
  pq   : Nat
  mask : Mask
  next : W32
  deriving DecidableEq, Repr

/-- The curd unit of a die (12 R272-R277). -/
structure Curd where
  owner : Option Nat
  /-- Items of 16 bytes, oldest first: list and item. -/
  items : List (Nat × W128)
  /-- Items accepted and still in flight to this die: source group, list, item, and the WAPP that sent it. -/
  fly   : List (Nat × Nat × W128 × Nat)
  waits : List Take
  deriving DecidableEq, Repr

/-- Phases of a warm reset of a die (15 R349): step 1, steps 2 to 4, and from step 5 on. -/
inductive Phase where | run | draining | flush | reset
  deriving DecidableEq, Repr

structure Die where
  cycle    : Nat
  /-- dep[source][destination], sources dies 0-3 and ext (08 R169). -/
  dep      : List (List Nat)
  applyq   : Vector (List Req) 4
  unacked  : Vector Nat 4
  extAcc   : Nat
  extq     : List Req
  snoop    : List Req
  hostLines : List Nat
  walker   : List Tlb
  dirs     : List (Nat × Nat × Nat × Nat)
  staged   : List (Nat × Nat)
  fill     : List Nat
  unitOps  : List UnitOp
  accHost  : List (Nat × Nat)
  accDev   : List (Nat × Nat)
  ctrs     : Vector Ctr 16
  throttled : Bool
  /-- Last queue served per priority: context, queue (12 R263). -/
  lastServed : Vector (Option (Nat × Nat)) 4
  curd     : Curd
  phase    : Phase
  /-- Writes that the ports dropped for this die, per source (15 R350). -/
  drops    : List Nat
  viaOld   : Bool
  deriving DecidableEq, Repr

/-! ### Engines (10, 11) -/

/-- One destination element of a job: offset in its line, size, the source addresses read for it, or its value where
there is none (10 R229, R230). -/
structure Elem where
  off  : Nat
  n    : Nat
  srcs : List W64
  val  : Nat
  deriving DecidableEq, Repr

/-- A destination line of 128 bytes, or a granule of 16, that an engine still has to write (08 R176): where it lies once
translated, its virtual address, its elements in ascending k, and whether its write is on the way. -/
structure DLine where
  loc  : Loc
  va   : W64
  els  : List Elem
  sent : Bool
  deriving DecidableEq, Repr

/-- A packet that a copy engine has taken (10 R216, 08 R176): its 64 bytes and its progress. -/
structure Job where
  uid     : Nat
  ctx     : Nat
  q       : Nat
  slot    : Nat
  pkt     : Nat
  grid    : W64
  /-- Its descriptor or table has been read, and its destination is owned. -/
  started : Bool
  lines   : List DLine
  written : Nat
  total   : Nat
  status  : Nat
  fcode   : Nat
  ffa     : W64
  /-- A fault record that holds the job (10 R224). -/
  wait    : Option Nat
  deriving DecidableEq, Repr

structure CopyEng where
  jobs : List Job
  deriving DecidableEq, Repr

/-- A weight set (11 R241): declared format, 0xF when undeclared; declared Accord; elements that are not zero; status of
the MWLD that wrote it. -/
structure WSet where
  fmt    : Nat
  nw     : Nat
  accord : Bool
  els    : List (Nat × Num)
  status : Nat
  deriving DecidableEq, Repr

structure Engine where
  lease  : Option Nat
  /-- The lease ends once the holder's requests have completed (11 R236). -/
  leaving : Bool
  /-- Teams that wait for the lease, in the order of their first requests. -/
  waits  : List Nat
  sets   : Vector WSet 8
  tiles  : Vector (List (Nat × W96)) 4
  chain  : Nat
  table  : List MReq
  /-- Cycles that its array still streams for the passes made (11 R238, 15 R353). -/
  stream : Nat := 0
  /-- Declarations as the last MWLD entered left them: format and order per set (11 R253). -/
  decl   : Vector (Nat × Bool) 8
  deriving DecidableEq, Repr

/-! ### Stack cores (13) -/

/-- A channel operation issued and not yet applied in full (13 R299, R300): the rows or words left, in order. -/
structure RowOp where
  /-- 0 RLD, 1 RST, 2 words of RSTX, 3 word 0 of a POST record. -/
  kind : Nat
  pas  : List Nat
  /-- Scratch offset of the next row. -/
  off  : Nat
  data : List Nat
  /-- Rows already applied (13 R286). -/
  rows : Nat
  /-- Of an RLD: the virtual address of its next row, its own address and active lanes, as a trap names them (14 R314). -/
  va    : W64 := 0
  pc    : W32 := 0
  lanes : BitVec 64 := 0
  /-- Its identity, by which a SHOOT counts it (14 R321). -/
  uid   : Nat := 0
  /-- The virtual addresses of its words; of rows, `va` gives them. -/
  vas   : List W64 := []
  deriving DecidableEq, Repr

/-- Why a stack task waits. -/
inductive SWait where
  | no
  | ev (a v : W64) (cond : Nat)
  | fault (recs : List Nat)
  deriving DecidableEq, Repr

structure Task where
  grid   : Nat
  taskid : Nat
  w      : Vector (SLanes W32) 64
  x      : Vector W64 32
  q      : Vector W64 4
  pc     : W32
  kfpf   : BitVec 6
  koob   : Bool
  kooba  : W32
  scr    : List Host.Cell
  kscr   : Nat
  nextIssue : Nat
  rowops : List RowOp
  wait   : SWait
  preempt : Option Nat
  /-- How it ended, once it has: some true at EXIT. -/
  fin    : Option Bool
  deriving DecidableEq, Repr

structure StackCore where
  task  : Option Task
  /-- Pre-empted tasks, which only this stack core restores (13 R286). -/
  saved : List Task
  /-- Writes of tasks that the stack core no longer runs, with their kernel, that its controller or a home point has still to apply (13 R285). -/
  left  : List (Nat × RowOp)
  /-- Last queue served per priority: context, queue (12 R263, 13 R284). -/
  served : Vector (Option (Nat × Nat)) 4
  deriving DecidableEq, Repr

structure Channel where
  debt   : Nat
  repair : Bool
  deriving DecidableEq, Repr

/-! ### Grids and contexts (12, 14) -/

structure Grid where
  id      : Nat
  gridid  : W64
  ctx     : Nat
  q       : Nat
  die     : Nat
  seqno   : Nat
  hdr     : List W64
  pkt     : List W64
  stack   : Bool
  /-- Teams or tasks not yet started: the next index. -/
  next    : Nat
  good    : Nat
  gone    : Nat
  /-- Status and fcode once an ending is decided. -/
  ending  : Option (Nat × Nat)
  gang    : Bool
  acks    : List Nat
  ends    : List Nat
  aborted : Bool
  sentAt  : Nat
  remote  : Option Nat
  /-- Stack tasks started (13 R284). -/
  tasks   : List Nat
  ffa     : W64
  quiet   : Bool
  wait    : Option Nat
  deriving DecidableEq, Repr

/-- A fault record, written or waiting to be written (06 R144, 14 R315). -/
structure FaultRec where
  uid   : Nat
  seq   : Option Nat
  va    : W64
  pc    : W32
  grid  : W64
  lanes : Nat
  slot  : Nat
  core  : Nat
  quad  : Nat
  die   : Nat
  cause : Nat
  acc   : Nat
  page  : Nat
  psize : Nat
  /-- Who waits: 0 the group `grp`, 1 a copy engine's job, 2 a matrix request, 3 the launch of queue `grp`, 4 the task of
  stack core `grp`, 5 the grid `grp`. -/
  who   : Nat
  grp   : Nat
  /-- Looked at by the firmware stage (14 R317). -/
  checked : Bool
  /-- Of a stack task: the active lanes of its instruction and the lowest lane that failed on the page (14 R313, R314). -/
  mask    : BitVec 64 := 0
  low     : Nat := 0xFF
  deriving DecidableEq, Repr

/-- A trap record waiting or written (14 R314). -/
structure TrapRec where
  grp  : Nat
  seq  : Option Nat
  words : List W64
  cause : Nat
  stack : Bool
  resolved : Bool
  saved : Bool
  deriving DecidableEq, Repr

structure Ctx where
  id        : Nat
  /-- The 64-bit allocation counter n, and whether every ring entry has held a record (10 R220). -/
  allocN    : Nat
  ringUsed  : Bool
  gridCount : Nat
  faultSeq  : Nat
  trapSeq   : Nat
  faults    : List FaultRec
  traps     : List TrapRec
  ncw       : Vector W128 16
  badDesc   : Bool
  /-- Handles cancelled before a consumer took their packet (10 R234). -/
  cancels   : List W64
  /-- Launches held by a fault record: queue, record, and once refused its cause and address (12 R261). -/
  held      : List (Nat × Nat × Option (Nat × W64))
  deriving DecidableEq, Repr

/-! ### Module -/

/-- A SHOOT in progress (14 R321): context, range, code flag, completion word, accesses still counted, all of them made under translations that it
drops. -/
structure Shoot where
  ctx  : Nat
  base : Nat
  len  : Nat
  code : Bool
  done : Nat
  /-- Accesses counted and not yet performed: of groups, by group and entry; of engines, by job or request and address; and of stack cores, by the
  identity of the operation and how many of its rows or words must be applied. -/
  wait : List (Nat × Nat)
  jobs : List (Nat × W64)
  rows : List (Nat × Nat)
  deriving DecidableEq, Repr

/-- An error or notice record not yet written: queue kind (0 error, 1 notice) and its words (15 R346, 14 R333). -/
structure SysRec where
  notice : Bool
  words  : List W64
  deriving DecidableEq, Repr

/-- A command of the control queue that waits for units: its completion word, and whether an eviction followed its move
(14 R316, R337). -/
structure Cmd where
  id    : Nat
  done  : Nat
  moved : Bool
  deriving DecidableEq, Repr

/-- A peer link (15 R347): up, and gang messages that arrived. -/
structure Link where
  up  : Bool
  /-- Gang messages sent: 0 a packet, 1 acknowledgement, 2 refusal, 3 abort, 4 end report (12 R271). -/
  out : List (Nat × List W64)
  deriving DecidableEq, Repr

/-- An engine's state saved with a team, the j-th of its lease (11 R236, 14 R330). -/
structure Saved where
  team  : Nat
  j     : Nat
  sets  : Vector WSet 8
  tiles : Vector (List (Nat × W96)) 4
  chain : Nat
  decl  : Vector (Nat × Bool) 8
  deriving DecidableEq, Repr

structure Module where
  capdie  : Vector W128 4
  capstk  : BitVec 256
  caplp   : W64
  cappeer : W64
  modstat : W64
  ctxbase : W64
  ctxcnt  : W64
  ctlq    : W64
  notq    : W64
  errq    : W64
  acthr   : W64
  modpwr  : W64
  links   : Vector Link 16
  shoots  : List Shoot
  cmds    : List Cmd
  /-- Commands taken from their slots that wait, oldest first, as 64-byte numbers (14 R316). -/
  held    : List Nat
  recs    : List SysRec
  msix    : Vector Nat 8
  meas    : Vector (BitVec 256) 8
  recovery : Bool
  /-- The least security version that boots, as fused (15 R355). -/
  minVer  : Nat
  /-- Firmware images held: system controller, dispatchers, stack-core loaders; and those the driver has loaded, which take effect at the next cold
  reset (15 R355). -/
  images  : Vector Nat 3
  loaded  : Vector (Option Nat) 3
  /-- The last measurement report, its digest and signature (15 R356). -/
  report  : Option (Nat × Nat)
  deriving DecidableEq, Repr

/-- What moves next (log 1): a core's issue slot, a stack core, an event with its choices, or one cycle of a die. -/
inductive Turn where
  | issue (core slot : Nat)
  | stack (sc : Nat)
  | event (i : Instr)
  | tick (die : Nat)
  deriving DecidableEq, Repr

/-- Whose instruction is executing (log 1). -/
inductive Cur where
  | none
  | group (g : Nat)
  | task (sc : Nat)
  deriving DecidableEq, Repr

/-- The machine. The first four fields are the model's own (log 1, 3). -/
structure State where
  sched    : List Turn
  cur      : Cur
  free     : Nat
  nextId   : Nat
  dram     : List Host.Cell
  dies     : Vector Die 4
  quads    : Vector Quad 16
  cores    : Vector Core 192
  engines  : Vector Engine 48
  copyEngs : Vector CopyEng 32
  stackCores   : Vector StackCore 256
  chans    : Vector Channel 256
  teams    : List Team
  groups   : List Group
  grids    : List Grid
  ctxs     : List Ctx
  net      : List Req
  replies  : List Reply
  saved    : List Saved
  md       : Module
  deriving DecidableEq, Repr

/-- Why the machine stops. -/
inductive Fault where
  /-- Raised by the system controller when the driver has it write at a physical address that 14 R319 leaves
  unpopulated; safe: the manual gives such an access no effect. -/
  | unpopulated (pa : Nat)
  deriving DecidableEq, Repr

/-- Why a step has no meaning. -/
inductive Refusal where
  /-- Raised by `exec` for an instruction the model has no meaning for; safe. -/
  | notModelled (mnemonic : String)
  deriving DecidableEq, Repr

/-! ### Reset -/

def Ctr.reset : Ctr := ⟨0, 0⟩
def Slot.reset : Slot := ⟨none, 0, 0, 0⟩
def Core.reset : Core :=
  { l1 := [], tlb := [], icache := [], leaving := [], pins := [], resv := [], held := [], slots := .replicate 4 Slot.reset,
    ctrs := .replicate 8 Ctr.reset }
/-- A spiral at cold reset: every position a hole, the front at 0 (07 R150). -/
def Quad.reset : Quad := { tiles := [], front := 0, pOld := 0, pAt := 0, accs := [], promos := [], pulls := [], ctrs := .replicate 8 Ctr.reset }
def Curd.reset : Curd := ⟨none, [], [], []⟩
/-- A die at reset: CYCLE is 0 (15 R354); its dependency table is 0 (log 5). -/
def Die.reset : Die :=
  { cycle := 0, dep := List.replicate 5 (List.replicate 4 0), applyq := .replicate 4 [], unacked := .replicate 4 0,
    extAcc := 0, extq := [], snoop := [], hostLines := [], walker := [], dirs := [], staged := [], fill := [],
    unitOps := [], accHost := [], accDev := [], ctrs := .replicate 16 Ctr.reset, throttled := false,
    lastServed := .replicate 4 none, curd := Curd.reset, phase := .run, drops := [0, 0, 0, 0, 0], viaOld := true }
def StackCore.reset : StackCore := ⟨none, [], [], .replicate 4 none⟩
def WSet.reset : WSet := ⟨15, 0, false, [], 1⟩
/-- An engine without a lease: sets undeclared, tiles +0, chain 1 (11 R236). -/
def Engine.reset : Engine :=
  { lease := none, leaving := false, waits := [], sets := .replicate 8 WSet.reset, tiles := .replicate 4 [], chain := 1, table := [],
    decl := .replicate 8 (15, false) }
/-- The module at reset (15 R343): registers without a stated value are 0; a full part with its links down (log 10, 11);
reserved bits read as 0 (00 R4). -/
def Module.reset : Module :=
  { capdie := .replicate 4 0x001FFFFF0FFFFFFFFFFFFFFF, capstk := BitVec.allOnes 256, caplp := BitVec.allOnes 64,
    cappeer := 0xFFFF, modstat := 0, ctxbase := 0, ctxcnt := 0, ctlq := 0, notq := 0, errq := 0, acthr := 0, modpwr := 0,
    links := .replicate 16 ⟨false, []⟩, shoots := [], cmds := [], held := [], recs := [], msix := .replicate 8 0, meas := .replicate 8 0,
    recovery := false, minVer := 0, images := .replicate 3 0, loaded := .replicate 3 none, report := none }

/-- The machine right after reset. -/
def State.reset : State :=
  { sched := [], cur := .none, free := 0, nextId := 1, dram := [], dies := .replicate 4 Die.reset,
    quads := .replicate 16 Quad.reset, cores := .replicate 192 Core.reset, engines := .replicate 48 Engine.reset,
    copyEngs := .replicate 32 ⟨[]⟩, stackCores := .replicate 256 StackCore.reset, chans := .replicate 256 ⟨0, false⟩, teams := [],
    groups := [], grids := [], ctxs := [], net := [], replies := [], saved := [], md := Module.reset }

end Sys2Proof.Machine
end

