-- ==== Sys2Proof/Machine/Ops.lean ====
section
/-! DEFINITION. Ops.lean: the shared operations over groups and their registers: reading lanes, committing results,
choosing the issue address, moving lanes, taking a trap and its resolution (02 R30-R42, 03 R50-R60, 14 R310-R314). -/

namespace Sys2Proof.Machine

open Sys2Proof

abbrev Out := Host.Outcome State Fault Refusal

/-! ### Vectors and sets of lanes -/

/-- Component i; indices beyond the length wrap, and no caller gives one. -/
def nth {α : Type} {n : Nat} (v : Vector α n) (i : Nat) (h : 0 < n := by decide) : α := v[i % n]'(Nat.mod_lt _ h)

/-- Replaces component i where it exists. -/
def put {α : Type} {n : Nat} (v : Vector α n) (i : Nat) (x : α) : Vector α n := v.setIfInBounds i x

/-- Applies a function to every component. -/
def vmap {α β : Type} {n : Nat} (f : α → β) (v : Vector α n) : Vector β n := Vector.ofFn fun i => f v[i]

/-- Inserts before the first element that must not come earlier. -/
def insertBy {α : Type} (le : α → α → Bool) (x : α) : List α → List α
  | [] => [x]
  | y :: ys => if le y x then y :: insertBy le x ys else x :: y :: ys
/-- A stable sort. -/
def sortBy {α : Type} (le : α → α → Bool) (xs : List α) : List α := xs.foldl (fun acc x => insertBy le x acc) []

def mkLanes {α : Type} (f : Nat → α) : Lanes α := Vector.ofFn fun i => f i.val
def mkSLanes {α : Type} (f : Nat → α) : SLanes α := Vector.ofFn fun i => f i.val

def maskGo (f : Nat → Bool) : Nat → Mask
  | 0 => 0
  | n + 1 => maskGo f n ||| (if f n then BitVec.twoPow 128 n else 0)

/-- The lanes l with f l. -/
def maskOf (f : Nat → Bool) : Mask := maskGo f 128

/-- Lanes of a set, ascending. -/
def lanesOf (m : Mask) : List Nat := (List.range 128).filter m.getLsbD

/-- The lowest lane of a set. -/
def lowest (m : Mask) : Option Nat := (List.range 128).find? m.getLsbD

/-- The least of some numbers. -/
def minOf : List Nat → Option Nat
  | [] => none
  | x :: xs => some (xs.foldl min x)

/-! ### Groups, teams, grids, contexts, cores, dies -/

namespace State
def grp? (s : State) (g : Nat) : Option Group := s.groups.find? (·.id == g)
def team? (s : State) (t : Nat) : Option Team := s.teams.find? (·.id == t)
def grid? (s : State) (k : Nat) : Option Grid := s.grids.find? (·.id == k)
def ctx? (s : State) (c : Nat) : Option Ctx := s.ctxs.find? (·.id == c)

def setGrp (s : State) (g : Group) : State :=
  { s with groups := s.groups.map fun x => if x.id = g.id then g else x }
def setTeam (s : State) (t : Team) : State :=
  { s with teams := s.teams.map fun x => if x.id = t.id then t else x }
def setGrid (s : State) (g : Grid) : State :=
  { s with grids := s.grids.map fun x => if x.id = g.id then g else x }
end State

/-- A context not yet used: first records are number 1, its allocation counter is 0 (10 R220, 14 R314, 17 R370). -/
def freshCtx (id : Nat) : Ctx :=
  { id, allocN := 0, ringUsed := false, gridCount := 0, faultSeq := 1, trapSeq := 1, faults := [], traps := [], ncw := .replicate 16 0,
    badDesc := false, cancels := [], held := [] }

namespace State
def ctxD (s : State) (c : Nat) : Ctx := (s.ctx? c).getD (freshCtx c)
def setCtx (s : State) (c : Ctx) : State :=
  { s with ctxs := if s.ctxs.any (·.id == c.id) then s.ctxs.map fun x => if x.id = c.id then c else x else s.ctxs ++ [c] }

def grpTeam? (s : State) (g : Group) : Option Team := s.team? g.team
def grpGrid? (s : State) (g : Group) : Option Grid := (s.team? g.team).bind fun t => s.grid? t.grid
/-- The context of a group; 0 for a group without a grid. -/
def grpCtx (s : State) (g : Group) : Nat := ((s.grpGrid? g).map (·.ctx)).getD 0
def gridId (s : State) (g : Group) : W64 := ((s.grpGrid? g).map (·.gridid)).getD 0

def core (s : State) (c : Nat) : Core := nth s.cores c
def setCore (s : State) (c : Nat) (x : Core) : State := { s with cores := put s.cores c x }
def die (s : State) (d : Nat) : Die := nth s.dies d
def setDie (s : State) (d : Nat) (x : Die) : State := { s with dies := put s.dies d x }
def quad (s : State) (q : Nat) : Quad := nth s.quads q
def setQuad (s : State) (q : Nat) (x : Quad) : State := { s with quads := put s.quads q x }
def eng (s : State) (e : Nat) : Engine := nth s.engines e
def setEng (s : State) (e : Nat) (x : Engine) : State := { s with engines := put s.engines e x }
def cpe (s : State) (e : Nat) : CopyEng := nth s.copyEngs e
def setCpe (s : State) (e : Nat) (x : CopyEng) : State := { s with copyEngs := put s.copyEngs e x }
def stk (s : State) (k : Nat) : StackCore := nth s.stackCores k
def setStk (s : State) (k : Nat) (x : StackCore) : State := { s with stackCores := put s.stackCores k x }
def chan (s : State) (k : Nat) : Channel := nth s.chans k
def setChan (s : State) (k : Nat) (x : Channel) : State := { s with chans := put s.chans k x }

/-- An event counter whose source is `src` counts n events (15 R353). -/
def bumpCtr (src n : Nat) (c : Ctr) : Ctr := if c.src = src then { c with val := c.val + .ofNat 64 n } else c
def bumpCore (s : State) (c src n : Nat) : State := let x := s.core c; s.setCore c { x with ctrs := vmap (bumpCtr src n) x.ctrs }
def bumpQuad (s : State) (q src n : Nat) : State := let x := s.quad q; s.setQuad q { x with ctrs := vmap (bumpCtr src n) x.ctrs }
def bumpDie (s : State) (d src n : Nat) : State := let x := s.die d; s.setDie d { x with ctrs := vmap (bumpCtr src n) x.ctrs }

/-- A fresh identity. -/
def fresh (s : State) : Nat × State := (s.nextId, { s with nextId := s.nextId + 1 })
/-- A free value, fresh for this use (log 3). -/
def draw (s : State) : Nat × State := (Config.freeNat s.free, { s with free := s.free + 1 })
end State

def dieOfCore (c : Nat) : Nat := c / 48
def quadOfCore (c : Nat) : Nat := c / 12
/-- The die that stack s attaches to (01 R17). -/
def dieOfStack (sc : Nat) : Nat := sc / 64

namespace Group
def die (g : Group) : Nat := dieOfCore g.core
/-- The group holds its resident slot. -/
def holdsSlot (g : Group) : Bool := g.res == .resident || g.untracked
end Group
/-- CYCLE of the die a group runs on. -/
def State.now (s : State) (g : Group) : Nat := (s.die g.die).cycle

/-! ### Registers (02 R33, R36, R41) -/

/-- The value lane l reads from a register by its tag (02 R36). -/
def VReg.get (r : VReg) (l : Nat) : W32 :=
  match r with
  | .uni u => u
  | .aff b t => b + BitVec.ofNat 32 l * t
  | .gen v => nth v l

def VReg.isUni : VReg → Bool
  | .uni _ => true
  | _ => false
def VReg.isGen : VReg → Bool
  | .gen _ => true
  | _ => false

/-- An affine value; stride 0 is uniform (02 R36). -/
def mkAff (b t : W32) : VReg := if t = 0 then .uni b else .aff b t

namespace Group
def v (g : Group) (r : Nat) : VReg := nth g.vregs r
def s (g : Group) (r : Nat) : W64 := nth g.sregs r
/-- p0 reads all ones (02 R41). -/
def p (g : Group) (r : Nat) : Mask := if r = 0 then BitVec.allOnes 128 else nth g.preds r
def h (g : Group) (r : Nat) : W64 := nth g.hnds r
/-- The registers of the slice that holds lane l have returned to the pool (02 R33). -/
def sliceFreed (g : Group) (l : Nat) : Bool := g.freed.getLsbD (l / 16)
end Group

/-- The lane that lane l reads through a pattern; `n` is s[N] (02 R32). -/
def xlane (x : Xb) (n : W64) (l : Nat) : Nat :=
  match x.pat with
  | .id => l
  | .rot => (l + 128 - x.amt % 128) % 128
  | .rotn => (l + x.amt) % 128
  | .bfly => (l ^^^ x.amt) % 128
  | .mir => 127 - l
  | .bck => x.amt % 128
  | .bcs => n.toNat % 128

/-- xsrc(F, X, k, l) (02 R33). -/
def Group.xread (g : Group) (r : Nat) (x : Xb) (n : W64) (l : Nat) : W32 :=
  let j := xlane x n l
  if g.sliceFreed j then 0 else (g.v r).get j

/-- The pair v[r], v[r+1] through a pattern (02 R31). -/
def Group.xpair (g : Group) (r : Nat) (x : Xb) (n : W64) (l : Nat) : W64 :=
  (g.xread (r + 1) x n l) ++ (g.xread r x n l)

/-- opnd (04): the operand of lane l, `two` registers for a 64-bit type; an immediate stands as given. -/
def Group.opnd (g : Group) (two : Bool) (n : Nat) (o : Src) (l : Nat) : W64 :=
  match o with
  | .none => 0
  | .imm v => v
  | .sca r => if two then g.s r else (g.s r).truncate 32 |>.zeroExtend 64
  | .vec r x => if two then g.xpair r x (g.s n) l else (g.xread r x (g.s n) l).zeroExtend 64

/-- A lane vector with the lanes of m taken from v. -/
def VReg.merge (r : VReg) (m : Mask) (v : Lanes W32) : VReg :=
  .gen (mkLanes fun l => if m.getLsbD l then nth v l else r.get l)

/-- Commits one write of a result (02 R36, R41): writes to p0 are discarded. -/
def Group.commit (g : Group) (w : Wr) : Group :=
  match w with
  | .vset d r => { g with vregs := put g.vregs d r }
  | .vlanes d m v => { g with vregs := put g.vregs d ((g.v d).merge m v) }
  | .sset d x => { g with sregs := put g.sregs d x }
  | .pset d m v => if d = 0 then g else { g with preds := put g.preds d ((nth g.preds d &&& ~~~m) ||| (v &&& m)) }
  | .hset d x => { g with hnds := put g.hnds d x }
  | .fpf fl => { g with fpf := g.fpf ||| fl }
  | .ld .. | .ldu .. | .pbits _ | .pall .. | .sval .. | .vbig .. => g

def Group.commitAll (g : Group) (ws : List Wr) : Group := ws.foldl Group.commit g

/-- Commits every fixed-latency result due by cycle t, earliest first, later issued last (02 R38). -/
def Group.flush (g : Group) (t : Nat) : Group :=
  let due := g.pend.filter fun p => match p.due with
    | some d => d ≤ t
    | none => false
  let rest := g.pend.filter fun p => match p.due with
    | some d => t < d
    | none => true
  let ordered := sortBy (fun (a b : Pend) => decide (a.due.getD 0 ≤ b.due.getD 0)) due
  { (ordered.foldl (fun g p => g.commitAll p.wrs) g) with pend := rest }

/-! ### Which register a pending result writes -/

def Wr.touches (w : Wr) (x : Span) : Bool :=
  match w, x.f with
  | .vset d _, .vec | .vlanes d _ _, .vec => x.base ≤ d && d < x.base + x.n
  | .sset d _, .sca => x.base ≤ d && d < x.base + x.n
  | .pset d _ _, .prd => d = x.base && d != 0
  | .hset d _, .hnd => d = x.base
  | .ld d sz, .vec | .ldu d sz false, .vec => d < x.base + x.n && x.base < d + szRegs sz
  | .ldu d _ true, .sca => x.base ≤ d && d < x.base + x.n
  | .pbits d, .prd | .pall d _, .prd => d = x.base && d != 0
  | .sval d n, .sca => d < x.base + x.n && x.base < d + n
  | .vbig d _, .vec => x.base ≤ d && d < x.base + x.n
  | _, _ => false

def Pend.touches (p : Pend) (xs : List Span) : Bool := p.wrs.any fun w => xs.any w.touches

/-! ### Issue (03 R53, R56) -/

def Lane.isReady : Lane → Bool
  | .ready => true
  | _ => false
def Lane.isExited : Lane → Bool
  | .exited => true
  | _ => false
def Lane.isWaiting : Lane → Bool
  | .waiting _ => true
  | _ => false

namespace Group
def readyMask (g : Group) : Mask := maskOf fun l => (nth g.lanes l).isReady
/-- Lanes that have not exited. -/
def live (g : Group) : Mask := maskOf fun l => !(nth g.lanes l).isExited

/-- The smallest PC among the lanes of a set. -/
def minPc (g : Group) (m : Mask) : Option W32 :=
  (minOf ((lanesOf m).map fun l => (nth g.pcv l).toNat)).map (BitVec.ofNat 32)

/-- The issue address: the minimum among the ready lanes, of the rotated set while a rotation lasts (03 R53, R56). -/
def issueAddr (g : Group) : Option W32 :=
  match g.rot with
  | some m => g.minPc (g.readyMask &&& m)
  | none => g.minPc g.readyMask

/-- The ready lanes at an address. -/
def lanesAt (g : Group) (a : W32) : Mask := maskOf fun l => (nth g.lanes l).isReady && nth g.pcv l == a

/-- Ready lanes above an address. -/
def above (g : Group) (a : W32) : Mask := maskOf fun l => (nth g.lanes l).isReady && a < nth g.pcv l
end Group

/-- next(a, n) (03 R53). -/
def nextPc (a : W32) (n : Nat) : W32 :=
  let b := a + BitVec.ofNat 32 n
  if b.toNat % 32 = 28 then b + 4 else b

/-- An instruction at issue: its group, issue address, the lanes at it, the active ones, and its size. -/
structure Issue where
  g    : Group
  a    : W32
  lns  : Mask
  act  : Mask
  size : Nat
  h    : Hdr

/-- The header of an encoded instruction. -/
def hdrOf (i : Instr) : Hdr := ((i.raw).map Raw.hdr).getD ⟨.l64, 0, false, false, false, 0⟩

/-- Opcodes whose description marks them unpredicated (02 R34). -/
def unpredicated : Instr → Bool
  | .nop _ | .tail _ | .shape .. | .fcmpRflg .. | .fcmpCflg .. | .fence .. | .sread .. | .swriteFriv .. | .swriteSbchk ..
  | .swriteSpoob .. | .swriteNcw .. | .pmrd .. => true
  | _ => false

/-- The active lanes among those at the issue address (02 R34). -/
def Group.active (g : Group) (i : Instr) (lns : Mask) : Mask :=
  if unpredicated i then lns
  else
    let h := hdrOf i
    lns &&& (if h.neg then ~~~(g.p h.pr) else g.p h.pr)

/-! ### Traps (14 R310-R314) -/

namespace Cause
def illegal : Nat := 0x01
def fetchAlign : Nat := 0x02
def uniform : Nat := 0x03
def regidx : Nat := 0x04
def stallShort : Nat := 0x05
def prot : Nat := 0x06
def handle : Nat := 0x07
def barovr : Nat := 0x08
def gangAbort : Nat := 0x09
def homeDown : Nat := 0x0A
def matfmt : Nat := 0x0B
def preemptTimeout : Nat := 0x0C
def bkpt : Nat := 0x0D
def trap : Nat := 0x0E
def memerr : Nat := 0x0F
end Cause

/-- TRAPC (14 R313). -/
def TrapSt.trapc (t : TrapSt) : W64 :=
  .ofNat 64 (t.cause + 2 ^ 8 * t.after.toNat + 2 ^ 16 * (t.lane % 256) + 2 ^ 24 * (t.code % 256) + 2 ^ 32 * t.pc.toNat)

/-- A group trap record (14 R314) with its seq still 0. -/
def trapWords (g : Group) (grid : W64) (t : TrapSt) : List W64 :=
  [0,
   .ofNat 64 (2 * (g.core / 48) + 2 ^ 3 * (g.core / 12 % 4) + 2 ^ 5 * (g.core % 12) + 2 ^ 9 * g.slot + 2 ^ 16 * t.after.toNat),
   0, t.lanes.truncate 64, (t.lanes >>> 64).truncate 64, t.trapc, grid, t.va]

/-- A group's LRs not yet performed lose the reservation they would set (03 R59; DEDUCED, log 24). -/
def Group.dropLr (g : Group) : Group :=
  { g with obq := g.obq.map fun e => if e.kind == .lr then { e with kind := .load } else e }

/-- Clears every LR reservation of a group (03 R59, 08 R193). -/
def State.clearResv (s : State) (g : Group) : State :=
  let c := s.core g.core
  s.setCore g.core { c with resv := c.resv.filter fun r => r.grp != g.id }

/-- Steps 4 and 5 of a delivery (14 R311): TRAPC is written, reservations are cleared and the record waits for its place in the context's trap
queue. -/
def State.putTrap (s : State) (g : Group) (t : TrapSt) : State :=
  let g' := { g with trapc := t.trapc, trap := some { t with delivered := true } }
  let s := (s.setGrp g').clearResv g'
  let c := s.ctxD (s.grpCtx g)
  s.setCtx { c with traps := c.traps ++
    [{ grp := g.id, seq := none, words := trapWords g (s.gridId g) t, cause := t.cause, stack := false, resolved := false, saved := false }] }

/-- The trap of a group that is to be delivered: its results have committed (14 R311). -/
def Group.trapDue (g : Group) : Option TrapSt := g.trap.filter fun t => !t.delivered && g.pend.isEmpty

/-- Delivers a resident group's trap once no result is outstanding (14 R311). A saved group's goes into its image too (TRAP_DELIVER). -/
def State.deliverTrap (s : State) (gid : Nat) : State :=
  match s.grp? gid with
  | none => s
  | some g => match g.trapDue with
    | some t => if g.res == .saved then s else s.putTrap g t
    | none => s

/-- Raises a trap in a group: it stops issuing, and the trap is delivered when its results have committed (14 R311). A group has one trap
outstanding: what traps it meanwhile follows once that one is over (DEDUCED, log 105). -/
def State.raiseTrap (s : State) (gid : Nat) (t : TrapSt) : State :=
  match s.grp? gid with
  | none => s
  | some g =>
    if g.trap.isSome then s.setGrp { g with later := g.later ++ [t] }
    else (s.setGrp { g with trap := some t }).deliverTrap gid

/-- The next trap of a group whose trap is over is raised. -/
def State.nextTrap (s : State) (gid : Nat) : State :=
  match s.grp? gid with
  | none => s
  | some g => match g.later with
    | [] => s
    | t :: ts => (s.setGrp { g with later := ts, trap := some t }).deliverTrap gid

/-- The same failure of one instruction, met by another of its accesses: one trap stands for both (DEDUCED, log 105). -/
def Group.trapsFor (g : Group) (cause : Nat) (pc : W32) : Bool :=
  (g.trap.toList ++ g.later).any fun t => t.cause == cause && t.pc == pc && !t.after

/-- A trap of the instruction at issue; `lane` is 0xFF where no rule names one. -/
def Issue.trapSt (c : Issue) (cause : Nat) (lanes : Mask) (lane : Nat) (va : W64) (after : Bool) (code : Nat) : TrapSt :=
  { cause, pc := c.a, code, lane, lanes, va, after, size := c.size, delivered := false, seq := none }

/-- The cycle in which an issue takes place and the group's next possible one (02 R38). -/
def Group.issued (g : Group) (t stall : Nat) : Group := { g with nextIssue := t + 1 + stall, lastIssue := t }

/-- A check of 02 R40 that failed: every ready lane at the issue address took part. -/
def State.trapAtIssue (s : State) (c : Issue) (cause lane : Nat) : State :=
  let s := s.setGrp (c.g.issued (s.now c.g) 0)
  s.raiseTrap c.g.id (c.trapSt cause c.lns lane 0 false 0)

/-- An execution trap: the active lanes took part, and nothing else of the instruction happens (14 R314). -/
def State.trapExec (s : State) (c : Issue) (cause lane : Nat) (va : W64) : State :=
  let s := s.setGrp (c.g.issued (s.now c.g) 0)
  s.raiseTrap c.g.id (c.trapSt cause c.act lane va false 0)

/-! ### Moving lanes after an instruction (03 R53, R56, R59, R60) -/

/-- The blocks buffered from a block on hold an address (03 R60). -/
def inBuf (b : Option Nat) (a : W32) : Bool :=
  match b with
  | some x => a.toNat / 32 == x || a.toNat / 32 == x + 1
  | none => false

/-- The buffer starts with the block of an address; blocks outside it go. The next issue is possible at cycle `t`. -/
def Group.bufferFrom (g : Group) (a : W32) (t : Nat) : Group :=
  let x := a.toNat / 32
  { g with ibuf := some x, iblk := g.iblk.filter fun b => b.1 == x || b.1 == x + 1, nextIssue := t }

/-- Whether a rotation ends after an instruction at `a` whose lanes transferred to lower addresses are in `low`. With no ready lane
outside the rotated set there is no PC to compare with, and the rotation goes on (DESIGN CHOICE, log 82). -/
def Group.rotEnds (g : Group) (low : Mask) : Bool :=
  match g.rot with
  | none => false
  | some m =>
    let inside := g.readyMask &&& m
    let outside := g.readyMask &&& ~~~m
    inside == 0 || (low &&& m) != 0 ||
    (match g.minPc inside, g.minPc outside with
     | some x, some y => x ≤ y
     | _, _ => false)

/-- The ready lanes at the issue address move (03 R53): a lane with a target goes there, a lane that starts to wait keeps its PC, every other
one falls through. -/
def Group.moved (g : Group) (c : Issue) (t : Nat) (tgt : Nat → Option W32) (wait : Nat → Option Wait) : Group :=
  let nx := nextPc c.a c.size
  { g with
    pcv := mkLanes fun l =>
      if c.lns.getLsbD l then
        (if c.act.getLsbD l then (if (wait l).isSome then c.a else (tgt l).getD nx) else nx)
      else nth g.pcv l,
    lanes := mkLanes fun l =>
      if c.act.getLsbD l then (match wait l with
        | some w => .waiting w
        | none => nth g.lanes l)
      else nth g.lanes l,
    prev := c.act, woken := 0, nextIssue := t + 1 + c.h.stall, lastIssue := t }

/-- The rotation ends where its rule says so (03 R56). -/
def Group.stopRot (g : Group) (low : Mask) : Group := if g.rotEnds low then { g with rot := none, fair := 0, rotReq := false } else g

/-- The lanes move; `refill` is the cost of a change of address outside the buffer (03 R60, R70). -/
def Group.advance (g : Group) (c : Issue) (t : Nat) (tgt : Nat → Option W32) (wait : Nat → Option Wait) (refill : Nat) : Group :=
  let low := maskOf fun l => c.act.getLsbD l && (wait l).isNone && (match tgt l with
    | some x => x < c.a
    | none => false)
  let k := (g.moved c t tgt wait).stopRot low
  match k.issueAddr with
  | none => k
  | some b => k.bufferFrom b (k.nextIssue + (if inBuf k.ibuf b || b == nextPc c.a c.size then 0 else refill))

/-- Finishes an instruction in the common way; ended rotations clear reservations (03 R59). -/
def State.finish (s : State) (c : Issue) (tgt : Nat → Option W32) (wait : Nat → Option Wait) (refill : Nat) : State :=
  match s.grp? c.g.id with
  | none => s
  | some g =>
    let g' := g.advance c (s.now g) tgt wait refill
    let out := g.rot.isSome && g'.rot.isNone
    let s := (s.setGrp (if out then g'.dropLr else g')).bumpCore g.core 0x02 1
    let s := if g'.nextIssue = s.now g + 1 + c.h.stall then s else s.bumpCore g.core 0x04 1
    if out then s.clearResv g' else s

/-- Every active lane completes and falls through. -/
def State.done (s : State) (c : Issue) : State := s.finish c (fun _ => none) (fun _ => none) 8

/-- Adds a result to the group. -/
def State.addPend (s : State) (gid : Nat) (p : Pend) : State :=
  match s.grp? gid with
  | none => s
  | some g => s.setGrp { g with pend := g.pend ++ [p] }

/-- A fixed-latency result (02 R38). -/
def State.fixed (s : State) (c : Issue) (lat : Nat) (ws : List Wr) : State :=
  s.addPend c.g.id ⟨some (s.now c.g + lat), [], ws⟩
/-- An interlocked result that needs the values of some outbound-queue entries. -/
def State.locked (s : State) (c : Issue) (need : List Nat) (ws : List Wr) : State :=
  s.addPend c.g.id ⟨none, need, ws⟩

/-! ### Checks at issue (02 R39, R40) -/

/-- A register index at or above the declared count, or a scalar above s191 (02 R29, R31). -/
def Group.badIdx (g : Group) (xs : List Span) : Bool :=
  xs.any fun x => match x.f with
    | .vec => g.nv < x.base + x.n
    | .sca => g.ns < x.base + x.n || 192 < x.base + x.n
    | _ => false

/-- A vector source that is not uniform (02 R35). -/
def Group.notUniform (g : Group) (xs : List Span) : Bool :=
  xs.any fun x => x.f == .vec && (List.range x.n).any fun k => !(g.v (x.base + k)).isUni

/-- STALLSHORT (02 R39) for an instruction with fixed latency `lat` (none when interlocked) issued at cycle t. -/
def Group.stallShort (g : Group) (i : Instr) (lat : Option Nat) (t : Nat) : Bool :=
  g.sbchk && g.pend.any fun p => match p.due with
    | none => false
    | some d => p.touches i.reads || (match lat with
      | none => false
      | some k => t + k < d && p.touches i.writes)

/-- The interlock (02 R38): an uncommitted interlocked result on a register the instruction reads or writes. -/
def Group.interlocked (g : Group) (i : Instr) : Bool :=
  g.pend.any fun p => p.due.isNone && (p.touches i.reads || p.touches i.writes)

/-- An instruction with a non-identity pattern takes two cycles more (02 R37). -/
def crossedSrc : Src → Bool
  | .vec _ x => x.pat != .id
  | _ => false
def crossed (o : Ops) : Bool := crossedSrc o.a || crossedSrc o.b

/-- Latency of the integer class (02 R37). -/
def iLat (s : Bool) (o : Ops) : Nat := (if s then 3 else 4) + (if crossed o then 2 else 0)
/-- Latency of floating arithmetic and compares. -/
def fLat (f : FTy) (o : Ops) : Nat := (if f = .f64 then 8 else 6) + (if crossed o then 2 else 0)
/-- Latency of reciprocals, roots and transcendentals. -/
def tLat (f : FTy) (o : Ops) : Nat := (if f = .f64 then 32 else 16) + (if crossed o then 2 else 0)

/-- The fixed latency of an instruction, none when interlocked (02 R37). -/
def latency : Instr → Option Nat
  | .iadd _ f o | .isub _ f o | .imul _ f o | .imulh _ f o | .imad _ f o | .imin _ f o | .imax _ f o | .iabs _ f o
  | .shl _ f o | .shr _ f o | .sra _ f o | .and _ f o | .or _ f o | .xor _ f o | .andn _ f o | .popc _ f o | .clz _ f o
  | .brev _ f o | .bfx _ f o | .bfi _ f o | .isel _ f o _ | .icmp _ f o | .lea _ f o | .mov _ f o | .movi _ f o =>
    some (iLat f.s o)
  | .movw _ f _ _ _ => some (if f.s then 3 else 4)
  | .plop .. => some 4
  | .fadd _ f o | .fsub _ f o | .fmul _ f o | .ffma _ f o | .fmin _ f o | .fmax _ f o => some (fLat f.f o)
  | .fcmp _ _ f o => some (fLat f o)
  | .frcp _ f o | .frsq _ f o | .fsqrt _ f o | .fexp2 _ f o | .flog2 _ f o | .fsin _ f o | .fcos _ f o | .ftanh _ f o =>
    some (tLat f.f o)
  | .fcvt _ _ _ xa _ _ => some (if xa = .id then 6 else 8)
  | .fround _ _ o => some (if crossed o then 8 else 6)
  | .dqnt _ _ _ _ _ _ xa _ => some (if xa = .id then 6 else 8)
  | _ => none

/-- The executing group, when it may issue: resident, not trapped. -/
def State.curGrp? (s : State) : Option Group :=
  match s.cur with
  | .group g =>
    match s.grp? g with
    | some x => if x.res = .resident && x.trap.isNone then some (x.flush (s.now x)) else none
    | none => none
  | _ => none

/-- Parks the ready lanes at an address (03 R63). -/
def Group.park (g : Group) (m : Mask) : Group :=
  { g with lanes := mkLanes fun l => if m.getLsbD l && (nth g.lanes l).isReady then .parked else nth g.lanes l }

/-- A pre-emption request or a gang abort that the group meets at its safe points (03 R63, 12 R271). -/
def Group.yielding (g : Group) : Bool := g.preempt.isSome || g.gangAbort

/-- The path changes when the group issues at `a`: a lane of the previous instruction stands elsewhere, or a lane at `a`
became ready after a wait (03 R59). -/
def Group.pathChange (g : Group) (a : W32) : Bool :=
  (lanesOf (g.prev &&& g.live)).any (fun l => nth g.pcv l != a) || (g.woken &&& g.lanesAt a) != 0

/-- The group as it issues at `a`: without reservations to come where its path changes. -/
def Group.onPath (g : Group) (a : W32) : Group := if g.pathChange a then g.dropLr else g

/-- Clears the group's reservations where the path changes at `a`. -/
def State.path (s : State) (g : Group) (a : W32) : State :=
  let s := s.setGrp (g.onPath a)
  if g.pathChange a then s.clearResv g else s

/-- The frame of every core instruction (02 R34, R38-R40, 03 R53, R59, R63): results due commit; a safe point under a request parks the
lanes; an uncommitted interlocked result holds the instruction back; the checks of R40 come first; with no active lane it only moves its lanes on. An
instruction with no executing group does nothing. -/
def withIssue (i : Instr) (s : State) (body : Issue → State → Out) : Out :=
  match s.curGrp? with
  | none => .next s
  | some g =>
    match g.issueAddr with
    | none => .next s
    | some a =>
      let lns := g.lanesAt a
      let c : Issue := { g, a, lns, act := g.active i lns, size := i.size, h := hdrOf i }
      let s1 := s.setGrp g
      if c.h.sp && g.yielding then .next (s1.setGrp (g.park lns))
      else if g.interlocked i then .next s1
      else if g.badIdx (i.reads ++ i.writes) then .next (s1.trapAtIssue c Cause.regidx 0xFF)
      else if c.h.u && g.notUniform i.reads then .next (s1.trapAtIssue c Cause.uniform 0xFF)
      else if g.stallShort i (latency i) (s.now g) then .next (s1.trapAtIssue c Cause.stallShort 0xFF)
      else
        let c := { c with g := g.onPath a }
        if c.act = 0 && !unpredicated i then .next ((s1.path g a).done c) else body c (s1.path g a)

end Sys2Proof.Machine
end

