-- ==== Sys2Proof/Machine/Mem.lean ====
section
/-! DEFINITION. Mem.lean: bytes by address, the physical map, home points, page walks, and scratchpad windows (06 R124,
R126, R130-R132, 07 R149, 14 R318-R320, R338, R388). -/

namespace Sys2Proof.Machine

open Sys2Proof

/-! ### Cells: addresses strictly rising -/

/-- The byte listed at an address. -/
def cellGet? : List Host.Cell → Nat → Option Byte
  | [], _ => none
  | (x, b) :: m, a => if x = a then some b else cellGet? m a

/-- Lists a byte at an address. -/
def cellPut : List Host.Cell → Nat → Byte → List Host.Cell
  | [], a, b => [(a, b)]
  | (x, y) :: m, a, b => if a < x then (a, b) :: (x, y) :: m else if a = x then (a, b) :: m else (x, y) :: cellPut m a b

/-- Unlists an address. -/
def cellDel : List Host.Cell → Nat → List Host.Cell
  | [], _ => []
  | (x, y) :: m, a => if x = a then m else (x, y) :: cellDel m a

/-- What an unlisted address reads as (log 4, log 7). -/
def emptyByte : Byte := 0

/-- One byte of a memory in canonical form. -/
def memRead (m : List Host.Cell) (a : Nat) : Byte := (cellGet? m a).getD emptyByte
/-- Writes one byte and keeps the canonical form. -/
def memWrite (m : List Host.Cell) (a : Nat) (b : Byte) : List Host.Cell := if b = emptyByte then cellDel m a else cellPut m a b

/-- Addresses strictly rising. -/
def cellsRise : List Host.Cell → Bool
  | [] => true
  | [_] => true
  | x :: y :: m => decide (x.1 < y.1) && cellsRise (y :: m)

/-- The canonical form: addresses strictly rising, and no entry equal to what an unlisted address reads as. -/
def Memory.wf (m : List Host.Cell) : Bool := cellsRise m && m.all fun c => c.2 != emptyByte

/-- Bytes a, a+1, … as a little-endian number (00 R3). -/
def leGet (f : Nat → Byte) (a : Nat) : Nat → Nat
  | 0 => 0
  | n + 1 => (f a).toNat + 256 * leGet f (a + 1) n

/-- The cells of an n-byte little-endian number. -/
def leCells (a n v : Nat) : List Host.Cell := (List.range n).map fun i => (a + i, .ofNat 8 (v / 2 ^ (8 * i)))

def memReadN (m : List Host.Cell) (a n : Nat) : Nat := leGet (memRead m) a n
def memWriteAll (m : List Host.Cell) (cs : List Host.Cell) : List Host.Cell := cs.foldl (fun m c => memWrite m c.1 c.2) m

/-! ### The physical map (14 R319) -/

/-- What a physical address names. -/
inductive Tier where
  | hbm (stack : Nat)
  | swm (die : Nat)
  | lp
  | peer (link : Nat)
  | host
  /-- Private regions, beyond the physical address space (06 R128, log 8). -/
  | priv
  | none
  deriving DecidableEq, Repr

/-- Private regions lie beyond the 52-bit physical address space, so that no mapping names them (06 R128, log 8). -/
def privStart : Nat := 2 ^ 52

def tierOf (pa : Nat) : Tier :=
  if pa < 0x8000000000 then .hbm (pa / 2 ^ 36)
  else if pa < 0xC000000000 then (if pa % 2 ^ 36 < 0xBDC000000 then .swm (pa / 2 ^ 36 % 4) else .none)
  else if 0x10000000000 ≤ pa && pa ≤ 0x69682EFFFFF then .lp
  else if 2 ^ 50 ≤ pa && pa < 2 ^ 50 + 16 * 2 ^ 44 then .peer ((pa - 2 ^ 50) / 2 ^ 44)
  else if 2 ^ 51 ≤ pa && pa < 2 ^ 52 then .host
  else if privStart ≤ pa then .priv
  else .none

/-- Populated for a page's frame: private regions have no mapping of their own (06 R128). DESIGN CHOICE (log 91): memory behind a die, a column of
stacked weight memory or an LPDDR-6 channel that the part lacks serves the accesses of lanes as if it were there; 15 R344 refuses only requests. -/
def populated (pa : Nat) : Bool :=
  match tierOf pa with
  | .none | .priv => false
  | _ => true

/-- The home die, or 4 + i for the memory of peer i (14 R319; log 8 for private regions). -/
def homeDie (pa : Nat) : Nat :=
  match tierOf pa with
  | .hbm s => s / 2
  | .swm d => d
  | .lp => pa / 2 ^ 16 % 4
  | .peer i => 4 + i
  | .host => pa / 2 ^ 12 % 4
  | .priv => pa / 2 ^ 33 % 4
  | .none => 0

/-- Tile and home spiral of an address (07 R149). -/
def tileOf (pa : Nat) : Nat := pa / 1024 * 1024
def lineOf (pa : Nat) : Nat := pa / 128 * 128
def homeQuad (pa : Nat) : Nat := 4 * homeDie pa + pa / 1024 % 4
/-- A tile can be held: peer memory never is. -/
def canHold (pa : Nat) : Bool := homeDie pa < 4

/-! ### Home points (07 R149, R150) -/

/-- A tile's byte. -/
def Tile.byte (t : Tile) (a : Nat) : Byte := (t.bytes[a - t.addr]?).getD 0
/-- Writes bytes of a tile and marks them dirty. -/
def Tile.write (t : Tile) (cs : List Host.Cell) : Tile :=
  cs.foldl (fun t c =>
    if t.addr ≤ c.1 && c.1 < t.addr + 1024 then
      { t with bytes := t.bytes.set (c.1 - t.addr) c.2, dirty := if t.dirty.contains c.1 then t.dirty else t.dirty ++ [c.1] }
    else t) t

def Quad.tile? (q : Quad) (addr : Nat) : Option Tile := q.tiles.find? (·.addr == addr)
def Quad.setTile (q : Quad) (t : Tile) : Quad := { q with tiles := q.tiles.map fun x => if x.addr = t.addr then t else x }

/-- The home tile of an address, if held. -/
def State.homeTile? (s : State) (pa : Nat) : Option Tile :=
  if canHold pa then ((s.quad (homeQuad pa)).tile? (tileOf pa)).filter fun t => !t.copy else none

/-- The 64 KiB unit of the LPDDR-6 tier that holds an address. -/
def unitOf (pa : Nat) : Nat := pa / 65536 * 65536
/-- A unit in fill state (14 R336). -/
def State.filling (s : State) (pa : Nat) : Bool := tierOf pa == .lp && (s.die (homeDie pa)).fill.contains (unitOf pa)

/-- The frame that a staged LPDDR-6 unit is served from (14 R335); one in fill state is served from the tier (R336). -/
def State.serve (s : State) (pa : Nat) : Nat :=
  match tierOf pa with
  | .lp =>
    if s.filling pa then pa
    else match (s.die (homeDie pa)).staged.find? (·.1 == unitOf pa) with
    | some (_, f) => f + (pa - unitOf pa)
    | none => pa
  | _ => pa

/-- A byte at its memory controller. -/
def State.ctlByte (s : State) (pa : Nat) : Byte := memRead s.dram (s.serve pa)
/-- A byte at its home point. -/
def State.homeByte (s : State) (pa : Nat) : Byte :=
  match s.homeTile? pa with
  | some t => t.byte pa
  | none => s.ctlByte pa
def State.homeRead (s : State) (pa n : Nat) : Nat := leGet s.homeByte pa n
def State.ctlRead (s : State) (pa n : Nat) : Nat := leGet s.ctlByte pa n

/-- The channel whose controller serves an address (13 R278). -/
def chanOf (pa : Nat) : Option Nat :=
  match tierOf pa with
  | .hbm st => some (32 * st + pa / 2048 % 32)
  | _ => none
/-- The channel of an address is stopped for a lane repair; and an access to the address would reach its controller (13 R309). -/
def State.stopped (s : State) (pa : Nat) : Bool := ((chanOf pa).map fun c => (s.chan c).repair).getD false
def State.repairing (s : State) (pa : Nat) : Bool := (s.homeTile? pa).isNone && s.stopped pa

/-- The channel of the LPDDR-6 tier that serves an address (06 R126, 14 R319). -/
def lpChannel (pa : Nat) : Option Nat := if tierOf pa == .lp then some (pa / 4096 % 64) else none

/-- The column that holds a tile of stacked weight memory: where the directory has none, that of its number (14 R334). -/
def State.columnOf (s : State) (pa : Nat) : Option Nat :=
  match tierOf pa with
  | .swm d => some ((((s.die d).dirs.find? (·.1 == tileOf pa)).map (·.2.1)).getD (pa / 1024 % 12))
  | _ => none

/-- Memory behind a die, column or LPDDR-6 channel that the part lacks (15 R344). -/
def State.absentMem (s : State) (pa : Nat) : Bool :=
  ((lpChannel pa).map fun c => !s.md.caplp.getLsbD c).getD false ||
  (homeDie pa < 4 && tierOf pa != .host && !(nth s.md.capdie (homeDie pa)).getLsbD 84) ||
  ((s.columnOf pa).map fun c => !(nth s.md.capdie (homeDie pa)).getLsbD (72 + c)).getD false

/-- Writes at the memory controllers. -/
def State.ctlWrite (s : State) (cs : List Host.Cell) : State := { s with dram := memWriteAll s.dram cs }

/-- The host gives up its lines that overlap n bytes at pa (15 R342). -/
def State.hostGone (s : State) (pa n : Nat) : State :=
  let h := homeDie pa
  if 4 ≤ h || (s.die h).hostLines.isEmpty then s
  else s.setDie h { s.die h with hostLines := (s.die h).hostLines.filter fun a => !(a < pa + n && pa < a + 128) }

/-- Writes at the home points: the held tile, else the controller (07 R149). -/
def State.homeWrite (s : State) (cs : List Host.Cell) : State :=
  cs.foldl (fun s c =>
    match s.homeTile? c.1 with
    | some t => let q := homeQuad c.1; s.setQuad q ((s.quad q).setTile (t.write [c]))
    | none => s.ctlWrite [c]) s

/-! ### Reservations lost to writes (08 R193) -/

/-- The 16-byte block of a location. -/
def Loc.blk : Loc → Loc
  | .mem pa cls => .mem (pa / 16 * 16) cls
  | .pad t o => .pad t (o / 16 * 16)
  | .nowhere => .nowhere

/-- Two locations name one byte range start, whatever the class. -/
def Loc.same : Loc → Loc → Bool
  | .mem a _, .mem b _ => a == b
  | .pad t o, .pad u p => t == u && o == p
  | _, _ => false

/-- A block is among those that n bytes at a location touch (n ≤ 16 and aligned accesses touch one; others may span). -/
def Loc.inBlock (blk : Loc) (l : Loc) (n : Nat) : Bool :=
  match blk, l with
  | .mem b _, .mem a _ => a < b + 16 && b < a + n
  | .pad t b, .pad u a => t == u && a < b + 16 && b < a + n
  | _, _ => false

/-- A write of n bytes applied at holding point `hp` (core `cr` for an L1) ends the reservations of other lanes. -/
def State.killResv (s : State) (l : Loc) (n hp cr g lane : Nat) (own : Bool) : State :=
  { s with cores := Vector.ofFn fun i : Fin 192 =>
      let c := s.cores[i]
      if c.resv.isEmpty then c
      else { c with resv := c.resv.filter fun r =>
        !(r.hp == hp && (hp == 0 || (if hp = 2 then i.val / 12 == cr / 12 else i.val == cr)) && r.blk.inBlock l n && (own || !(r.grp == g && r.lane == lane))) } }

/-! ### Contexts' descriptors in memory (14 R315) -/

structure Desc where
  savebase : Nat
  savesz   : Nat
  tqlsz    : Nat
  fqlsz    : Nat
  flags    : Nat
  tag      : Nat
  tqbase   : Nat
  fqbase   : Nat
  ring     : Nat
  qtab     : Nat
  ptroot   : Nat
  wellFormed : Bool
  deriving DecidableEq, Repr

def Desc.of (w : Nat) : Desc :=
  let t := fld w 408 8
  let f := fld w 400 8
  { savebase := fld w 448 64, savesz := fld w 416 32, tqlsz := t, fqlsz := f, flags := fld w 392 8, tag := fld w 368 16,
    tqbase := fld w 256 64, fqbase := fld w 192 64, ring := fld w 128 64, qtab := fld w 64 64, ptroot := fld w 0 64,
    wellFormed := decide (4 ≤ t ∧ t ≤ 16 ∧ 4 ≤ f ∧ f ≤ 16 ∧ fld w 256 6 = 0 ∧ fld w 192 6 = 0 ∧ fld w 128 17 = 0 ∧
      fld w 448 12 = 0 ∧ fld w 0 12 = 0 ∧ fld w 394 6 = 0 ∧ fld w 384 8 = 0 ∧ fld w 320 48 = 0) }

/-- The descriptor of a context, read from the module's context table. -/
def State.desc (s : State) (ctx : Nat) : Desc :=
  Desc.of (s.homeRead (s.md.ctxbase.toNat + 64 * ctx) 64)

def State.descOk (s : State) (ctx : Nat) : Bool :=
  decide (ctx < s.md.ctxcnt.toNat) && (s.desc ctx).wellFormed && bit (s.desc ctx).flags 0

/-! ### Page walks (14 R318, R388) -/

/-- A translation: the frame of the page and its leaf entry; or the first cause and the region that failed (06 R144). -/
inductive Walk where
  | ok (base size : Nat) (pte : Nat)
  | fail (cause base size : Nat)
  deriving DecidableEq, Repr

def levelBits : Nat → Nat
  | 0 => 16 | 1 => 21 | 2 => 30 | 3 => 39 | _ => 48

/-- A non-leaf entry's other bits are zero. -/
def pteNode (e : Nat) : Bool := fld e 0 2 == 1 && fld e 2 6 == 0 && fld e 52 12 == 0
/-- A leaf whose reserved bits, the low frame bits of large pages included, are zero. -/
def pteLeaf (level e : Nat) : Bool :=
  fld e 0 2 == 3 && !bit e 4 && fld e 8 8 == 0 && fld e 52 12 == 0 &&
    (level != 1 || fld e 16 5 == 0) && (level != 2 || fld e 16 14 == 0)

/-- The walk from a table at `pa`, level by level. -/
def walkFrom (s : State) (va : Nat) (level pa : Nat) : Walk :=
  let bits := levelBits level
  let base := va / 2 ^ bits * 2 ^ bits
  let idx := va / 2 ^ bits % (if level = 0 then 32 else 512)
  let e := s.homeRead (pa + 8 * idx) 8
  match level with
  | 0 => if pteLeaf 0 e then .ok base (2 ^ bits) e else .fail 0 base (2 ^ bits)
  | k + 1 =>
    if level ≤ 2 && pteLeaf level e then .ok base (2 ^ bits) e
    else if pteNode e then walkFrom s va k (fld e 8 44 * 256) else .fail 0 base (2 ^ bits)

/-- The walk of a context's tables; bits 56:0 of the address select the entries. -/
def State.walk (s : State) (ctx va : Nat) : Walk := walkFrom s va 4 (s.desc ctx).ptroot

/-- The walk from a table at `pa` reads an entry that a stopped channel serves (13 R309). -/
def walkStopsFrom (s : State) (va : Nat) (level pa : Nat) : Bool :=
  let at' := pa + 8 * (va / 2 ^ levelBits level % (if level = 0 then 32 else 512))
  s.repairing at' || (match level with
    | 0 => false
    | k + 1 => let e := s.homeRead at' 8; pteNode e && walkStopsFrom s va k (fld e 8 44 * 256))

/-- A walk waits for a channel that is stopped for a lane repair. -/
def State.walkStops (s : State) (ctx va : Nat) : Bool := s.chans.toList.any (·.repair) && walkStopsFrom s va 4 (s.desc ctx).ptroot

def pteFrame (e : Nat) : Nat := fld e 16 36 * 65536
def pteClass (e : Nat) : Nat := fld e 2 2
def pteW (e : Nat) : Bool := bit e 5
def pteX (e : Nat) : Bool := bit e 6
def pteA (e : Nat) : Bool := bit e 7

/-- An access kind for translation: 0 load, 1 store, 2 atomic (06 R144). -/
abbrev AccKind := Nat

/-- A peer's memory beyond a link that is down (15 R347). -/
def State.peerDown (s : State) (pa : Nat) : Bool :=
  match tierOf pa with
  | .peer i => !(nth s.md.links i).up
  | _ => false

/-- The causes of R388 for a leaf, in order. Inside a non-coherent window, `win`, the window stands in the place of the page's class, so that only W
decides whether a store is let through (08 R181, 14 R338; DEDUCED, log 87). -/
def State.permit (s : State) (w : Walk) (va : Nat) (k : AccKind) (win : Bool := false) : Walk :=
  match w with
  | .fail .. => w
  | .ok base size e =>
    let pa := pteFrame e + (va - base)
    if !pteA e || !populated pa || s.peerDown pa then .fail 3 base size
    else if k != 0 && tierOf pa == .lp then .fail 2 base size
    else if k != 0 && ((pteClass e == 1 && !win) || !pteW e) then .fail 1 base size
    else w

/-- The translation a core or engine uses (14 R320): a cached entry that the tables no longer hold may still serve, by a
free choice. `core` is none for agents with the die's walker cache alone. -/
def State.lookup (s : State) (core : Option Nat) (die ctx va draw : Nat) : Walk :=
  let fresh := s.walk ctx va
  let hit (t : Tlb) : Bool := t.ctx == ctx && t.base ≤ va && va < t.base + t.size
  let cached := (match core with
    | some c => (s.core c).tlb.find? hit
    | none => none).or ((s.die die).walker.find? hit)
  match cached with
  | none => fresh
  | some t =>
    let old := Walk.ok t.base t.size t.pte.toNat
    if old == fresh then fresh else if Config.freeNat draw % 2 = 0 then old else fresh

/-- Keeps a valid translation in the core's and the die's caches. -/
def State.cacheTlb (s : State) (core : Option Nat) (die ctx : Nat) (w : Walk) : State :=
  match w with
  | .fail .. => s
  | .ok base size e =>
    let t : Tlb := ⟨ctx, base, size, .ofNat 64 e⟩
    let add (l : List Tlb) : List Tlb := if l.contains t then l else t :: l.filter fun x => !(x.ctx == ctx && x.base == base)
    let s := match core with
      | some c => s.setCore c { s.core c with tlb := add (s.core c).tlb }
      | none => s
    s.setDie die { s.die die with walker := add (s.die die).walker }

/-! ### Non-coherent windows (14 R338) -/

def ncwIn (r : W128) (va : Nat) : Bool :=
  let n := r.toNat
  bit n 127 && fld n 0 64 ≤ va && va < fld n 0 64 + fld n 64 32 * 65536
def State.inWindow (s : State) (ctx va : Nat) : Bool := (s.ctxD ctx).ncw.toList.any (ncwIn · va)

/-! ### Apertures (06 R124) -/

inductive Apert where
  | trans
  | team (o : Nat)
  | clu (k o : Nat)
  | priv (o : Nat)
  | none
  deriving DecidableEq, Repr

def windowBase : Nat := 0xFFFFF00000000000

def apert (ea : W64) : Apert :=
  let a := ea.toNat
  if a < 2 ^ 56 then .trans
  else if a < 0xFF00000000000000 then .none
  else if a < windowBase then .trans
  else
    let o := a - windowBase
    if o < 2 ^ 24 then .team o
    else if 2 ^ 40 ≤ o && o < 2 ^ 40 + 12 * 2 ^ 24 then .clu ((o - 2 ^ 40) / 2 ^ 24) (o % 2 ^ 24)
    else if 2 ^ 41 ≤ o && o < 2 ^ 41 + 2 ^ 32 then .priv (o - 2 ^ 41)
    else .none

/-- The team that a window address of team t names (06 R124): rank k of its cluster. -/
def State.rank? (s : State) (t : Team) (k : Nat) : Option Team :=
  s.teams.find? fun u => u.grid == t.grid && u.cluster == t.cluster && u.crank == k

/-- Teams of a cluster are placed together, so its ranks are those present. -/
def State.inCluster (s : State) (t : Team) (k : Nat) : Bool := (s.rank? t k).isSome

/-- Private bytes of a group's lanes: the header's units of 4 bytes, kept with the grid (06 R128). -/
def privAddr (base l o : Nat) : Nat := base + o / 4 * 512 + l * 4 + o % 4

/-! ### Windows (06 R130-R132) -/

def Team.rd (t : Team) (o n : Nat) : Nat := memReadN t.win o n
def Team.wr (t : Team) (o n v : Nat) : Team := { t with win := memWriteAll t.win (leCells o n v) }
def Team.fullAt (t : Team) (o : Nat) : Bool := t.full.contains (o / 16)
def Team.setFull (t : Team) (o : Nat) (b : Bool) : Team :=
  let g := o / 16
  { t with full := if b then (if t.full.contains g then t.full else t.full ++ [g]) else t.full.filter (· != g) }

/-- Reads n bytes of a window; bytes beyond it read 0 (06 R131). -/
def State.padRead (s : State) (team off n : Nat) : Nat :=
  match s.team? team with
  | some t => t.rd off n
  | none => 0
def State.padWrite (s : State) (team off n v : Nat) : State :=
  match s.team? team with
  | some t => if off + n ≤ t.size then s.setTeam (t.wr off n v) else s
  | none => s

/-! ### Kernel headers and launch packets as numbers (12 R260, R262) -/

/-- The number whose 64-bit words these are, lowest first. -/
def ofWords : List W64 → Nat
  | [] => 0
  | w :: ws => w.toNat + 2 ^ 64 * ofWords ws
/-- n 64-bit words of a number, lowest first. -/
def toWords (n v : Nat) : List W64 := (List.range n).map fun i => .ofNat 64 (v / 2 ^ (64 * i))

def Grid.header (g : Grid) : Nat := ofWords g.hdr
def Grid.code (g : Grid) : Nat := fld g.header 448 64
def Grid.csize (g : Grid) : Nat := fld g.header 416 32
def Grid.entry (g : Grid) : Nat := fld g.header 384 32
def Grid.privSize (g : Grid) : Nat := 4 * fld g.header 208 24
def Grid.splive (g : Grid) : Nat := fld g.header 175 9
def Grid.ctm (g : Grid) : Nat := fld g.header 191 4
def Grid.usesCurd (g : Grid) : Bool := bit g.header 128

end Sys2Proof.Machine
end

