-- ==== Sys2Proof/Machine/Launch.lean ====
section
/-! DEFINITION. Launch.lean: a group and a team as they stand at launch (02 R41, 03 R51, R58, 09 R208). -/

namespace Sys2Proof.Machine

open Sys2Proof

/-- A group at launch: declared counts, lanes live, entry, FRIV.exp, private region, and the cycle of its placement. -/
structure GroupAt where
  id    : Nat
  team  : Nat
  gid   : Nat
  core  : Nat
  slot  : Nat
  nv    : Nat
  ns    : Nat
  live  : Nat
  entry : W32
  friv  : Nat
  priv  : Nat
  now   : Nat

/-- Registers 0, p0 ones, DONEM ones, lanes beyond the count exited (02 R41, 03 R51). The instruction buffer is empty, so that the first issue after
launch pays the refill of 03 R60, as R66 has it after a restore (DESIGN CHOICE, log 104). -/
def GroupAt.group (x : GroupAt) : Group :=
  { id := x.id, team := x.team, gid := x.gid, core := x.core, slot := x.slot, res := .resident, nv := x.nv, ns := x.ns,
    vregs := .replicate 256 (.uni 0), sregs := .replicate 192 0, preds := .replicate 8 0, hnds := .replicate 16 0,
    pcv := .replicate 128 x.entry, lanes := mkLanes fun l => if l < x.live then .ready else .exited,
    freed := (List.range 8).foldl (fun m i => if x.live ≤ 16 * i then m ||| BitVec.twoPow 8 i else m) 0,
    donem := BitVec.allOnes 128, spoob := false, spooba := 0, friv := x.friv, sbchk := false, trapc := 0, fpf := 0, fair := 0,
    rot := none, rotReq := false, prev := 0, woken := 0, nextIssue := x.now, ibuf := none, iblk := [], retp := [], pend := [], obq := [],
    engines := [], trap := none, preempt := none, gangAbort := false, hidden := false, room := 0, untracked := false, lastIssue := x.now, idle := false,
    priv := x.priv, ended := none, img := none, adv := [], later := [] }

/-- A private region of its own for each group: beyond the physical address space, homed on the group's die (06 R128, log 8). -/
def privBase (id die : Nat) : Nat := privStart + 2 ^ 35 * id + 2 ^ 33 * die

def emptyCv : Cv := ⟨0, 0, 0, none, []⟩

end Sys2Proof.Machine
end

