-- ==== Sys2Proof/Machine/FpFn.lean ====
section
/-! DEFINITION. FpFn.lean: what the floating class computes on one lane's operand bits, with the flags it sets (05
R107-R115, R119-R123). A result is an encoding as a natural number. -/

namespace Sys2Proof

abbrev FRes := Nat × Fl

/-- A rounded result, canonical NaN and INV for an undefined one (05 R103). -/
def finish (F : Fmt) (rm : Rm) (x : Num) (inv : Bool) : FRes :=
  if x.isNan then (canon F, if inv then .inv else 0) else round x F rm

def rdOf (rm : Rm) : Bool := rm == .rd

/-- FADD, FSUB (05 R107). -/
def fnFadd (F : Fmt) (rm : Rm) (sub : Bool) (a b : Nat) : FRes :=
  let (x, inv) := addNum (rdOf rm) (fv a F) ((fv b F).flip sub)
  finish F rm x inv

def fnFmul (F : Fmt) (rm : Rm) (a b : Nat) : FRes :=
  let (x, inv) := mulNum (fv a F) (fv b F)
  finish F rm x inv

/-- FFMA (05 R107): the negations apply before the sum; a NaN operand sets no flag (R103, log 16). -/
def fnFfma (F : Fmt) (rm : Rm) (n1 n2 : Bool) (a b c : Nat) : FRes :=
  let (x, y, z) := (fv a F, fv b F, fv c F)
  if x.isNan || y.isNan || z.isNan then (canon F, 0)
  else
    let (p, i1) := mulNum x y
    let (s, i2) := addNum (rdOf rm) (p.flip n1) (z.flip n2)
    finish F rm s (i1 || i2)

/-- FMIN, FMAX (05 R108): an operand copied, −0 below +0, a number before a NaN. -/
def fnMinMax (F : Fmt) (mx : Bool) (a b : Nat) : Nat :=
  let (x, y) := (fv a F, fv b F)
  let w := F.eb + F.fb + F.sgn.toNat
  if x.isNan && y.isNan then canon F
  else if x.isNan then b % 2 ^ w
  else if y.isNan then a % 2 ^ w
  else
    let lt := ltNum x y || (eqNum x y && x.neg && !y.neg)
    (if lt != mx then a else b) % 2 ^ w

/-- FCMP's conditions (05 R109). -/
def fnFcmp (F : Fmt) (cond : Nat) (a b : Nat) : Bool :=
  let (x, y) := (fv a F, fv b F)
  let un := x.isNan || y.isNan
  match cond with
  | 0 => !un && eqNum x y
  | 1 => un || !eqNum x y
  | 2 => !un && ltNum x y
  | 3 => !un && !ltNum y x
  | 4 => !un && ltNum y x
  | 5 => !un && !ltNum x y
  | 6 => un
  | _ => !un

def oneCode (F : Fmt) : Nat := F.bias.toNat * 2 ^ F.fb

/-- A correctly rounded result of FRCP or FSQRT (05 R110, R111). -/
def fnFrcp (F : Fmt) (rm : Rm) (a : Nat) : FRes :=
  match fv a F with
  | .nan => (canon F, 0)
  | .inf n => (signed F n 0, 0)
  | .fin n m e =>
    if m = 0 then (signed F n ((F.inf).getD F.maxc), .dz)
    else roundMag F rm n (divMag 1 0 m e (F.fb + 8))

def fnFsqrt (F : Fmt) (rm : Rm) (a : Nat) : FRes :=
  match fv a F with
  | .nan => (canon F, 0)
  | .inf n => if n then (canon F, .inv) else (signed F n ((F.inf).getD F.maxc), 0)
  | .fin n m e =>
    if m = 0 then (signed F n 0, 0)
    else if n then (canon F, .inv)
    else roundMag F rm false (sqrtMag m e (F.fb + 8))

/-- Operation numbers of the free choice (05 R110). -/
inductive Faith where | rsq | exp2 | log2 | sin | cos | tanh
  deriving DecidableEq, Repr

def Faith.num : Faith → Nat
  | .rsq => 0 | .exp2 => 1 | .log2 => 2 | .sin => 3 | .cos => 4 | .tanh => 5

/-- A faithful result (05 R110): round_ne in the 16-bit formats; in FP32 and FP64 one of the two neighbours, by a free
function of operation, format and operand; an overflow under rn overflows. -/
def faithful (op : Faith) (F : Fmt) (a : Nat) (neg : Bool) (x : Mag) : FRes :=
  let rn := roundMag F .rn neg x
  if F.eb + F.fb < 16 then rn
  else
    let (cn, _) := roundCode F .rn neg x
    let (lo, inex) := roundCode F .rz neg x
    let (hi, _) := roundCode F (if neg then .rd else .ru) neg x
    if F.maxc < cn || !inex then rn
    else
      let c := if Config.faithfulUp op.num F.fb a && hi ≤ F.maxc then hi else lo
      (signed F neg c, roundFl F c true)

/-- m is a power of two. -/
def isPow2 (m : Nat) : Bool := m == 2 ^ m.log2

/-- FRSQ, FEXP2, FLOG2, FSIN, FCOS, FTANH (05 R110-R112). -/
def fnFaith (op : Faith) (F : Fmt) (a : Nat) : FRes :=
  let infc := (F.inf).getD F.maxc
  match op, fv a F with
  | _, .nan => (canon F, 0)
  | .rsq, .inf n => if n then (canon F, .inv) else (0, 0)
  | .rsq, .fin n m e =>
    if m = 0 then (signed F n infc, .dz) else if n then (canon F, .inv)
    else faithful op F a false (rsqMag m e (F.fb + 12))
  | .exp2, .inf n => (if n then 0 else infc, 0)
  | .exp2, .fin n m e => if m = 0 then (oneCode F, 0) else faithful op F a false (exp2Mag n m e)
  | .log2, .inf n => if n then (canon F, .inv) else (infc, 0)
  | .log2, .fin n m e =>
    if m = 0 then (signed F true infc, .dz) else if n then (canon F, .inv)
    else if isPow2 m then round (.ofInt (e + m.log2)) F .rn
    else let (s, x) := log2Mag m e; faithful op F a s x
  | .sin, .inf _ | .cos, .inf _ => (canon F, .inv)
  | .sin, .fin n m e =>
    if m = 0 then (signed F n 0, 0)
    else
      let (s, x) := sinPi m e
      if x.m = 0 then (signed F n 0, 0) else faithful op F a (s != n) x
  | .cos, .fin _ m e =>
    if m = 0 then (oneCode F, 0)
    else
      let (s, x) := cosPi m e
      if x.m = 0 then (0, 0) else faithful op F a s x
  | .tanh, .inf n => (signed F n (oneCode F), 0)
  | .tanh, .fin n m e => if m = 0 then (signed F n 0, 0) else faithful op F a n (tanhMag m e)

/-- A finite value rounded to an integer, and whether it changed (05 R114, R115). -/
def toInt (rm : Rm) (neg : Bool) (m : Nat) (e : Int) : Int × Bool :=
  let (k, inex) := roundAt rm neg ⟨m, e, false⟩ 0
  (sgnInt neg k, inex)

/-- FROUND (05 R115). -/
def fnFround (F : Fmt) (rm : Rm) (a : Nat) : FRes :=
  match fv a F with
  | .nan => (canon F, 0)
  | .inf n => (signed F n ((F.inf).getD F.maxc), 0)
  | .fin n m e => (signed F n (roundCode F .rz n ⟨(toInt rm n m e).1.natAbs, 0, false⟩).1, 0)

/-- A conversion type (05 R113): a format, or an integer type by width and signedness. -/
inductive CTy where
  | flt (f : Fmt)
  | int (bits : Nat) (sgn : Bool)
  deriving DecidableEq, Repr

def CTy.ofCode : Nat → CTy
  | 0 => .flt .fp32 | 1 => .flt .fp64 | 2 => .flt .fp16 | 3 => .flt .bf16 | 4 => .flt .e4m3 | 5 => .flt .e5m2
  | 6 => .int 8 true | 7 => .int 16 true | 8 => .int 32 true | 9 => .int 64 true
  | 10 => .int 8 false | 11 => .int 16 false | 12 => .int 32 false | _ => .int 64 false

/-- The value of bits in a type (05 R98: upper bits of a narrow source are ignored). -/
def CTy.val (t : CTy) (x : Nat) : Num :=
  match t with
  | .flt f => fv (x % 2 ^ (f.eb + f.fb + 1)) f
  | .int b s =>
    let n := x % 2 ^ b
    .ofInt (if s && 2 ^ (b - 1) ≤ n then (n : Int) - (2 ^ b : Nat) else n)

/-- Bounds of an integer type. -/
def intLo (b : Nat) (s : Bool) : Int := if s then -((2 ^ (b - 1) : Nat) : Int) else 0
def intHi (b : Nat) (s : Bool) : Int := if s then (2 ^ (b - 1) : Nat) - 1 else (2 ^ b : Nat) - 1

/-- A value placed in a register of at least 32 bits (05 R98): narrow integers extended by their signedness. -/
def placeInt (b : Nat) (i : Int) : Nat := (i % ((2 ^ (if b = 64 then 64 else 32) : Nat) : Int)).toNat

/-- Conversion to an integer type (05 R114). -/
def cvtInt (b : Nat) (s : Bool) (rm : Rm) (x : Num) : Int × Fl :=
  match x with
  | .nan => (0, .inv)
  | .inf n => (if n then intLo b s else intHi b s, .inv ||| .sat)
  | .fin n m e =>
    let (y, inex) := toInt rm n m e
    if y < intLo b s then (intLo b s, .inv ||| .sat)
    else if intHi b s < y then (intHi b s, .inv ||| .sat)
    else (y, if inex then .inx else 0)

/-- Conversion to a floating format, E4M3 without infinity included (05 R114). -/
def cvtFlt (F : Fmt) (rm : Rm) (sat : Bool) (x : Num) : FRes :=
  match x with
  | .nan => (canon F, 0)
  | .inf n =>
    if sat then (signed F n F.maxc, .sat)
    else match F.inf with
      | some i => (signed F n i, 0)
      | none => (canon F, 0)
  | .fin n m e =>
    let (c, inex) := roundCode F rm n ⟨m, e, false⟩
    if F.maxc < c then
      if sat then (signed F n F.maxc, .ovf ||| .inx ||| .sat)
      else if F.inf.isNone then (canon F, .ovf ||| .inx)
      else (signed F n (ovfCode F rm n), .ovf ||| .inx)
    else (signed F n c, roundFl F c inex)

/-- FCVT of one lane (05 R114). -/
def fnFcvt (c : CvtD) (rho : Nat) (x : Nat) : FRes :=
  let rm := Rm.ofCode c.rm rho
  match CTy.ofCode c.dt with
  | .flt F => cvtFlt F rm c.sat ((CTy.ofCode c.st).val x)
  | .int b s =>
    let (i, fl) := cvtInt b s rm ((CTy.ofCode c.st).val x)
    (placeInt b i, fl)

/-! ### Scale rings and band states (05 R116-R123) -/

/-- The larger of two non-negative values; a NaN on the left stays, on the right is skipped. -/
def mxNum (c x : Num) : Num := if c.isNan || x.isNan then c else if ltNum c x then x else c

def roundUpBf16 (x : Num) : Nat := (round x .bf16 .ru).1

/-- Fmax of each output (05 R119): e4m3, e5m2, fp4, i8. -/
def qFmax : Nat → Nat
  | 0 => 448 | 1 => 57344 | 2 => 6 | _ => 127

/-- The largest of the sixteen entries in absolute value, NaN if any is NaN (05 R119). -/
def ringMax (m : List Nat) : Num :=
  m.foldl (fun acc b =>
    let v := (fv b .bf16).abs
    if acc.isNan || v.isNan then .nan else mxNum acc v) (.fin false 0 0)

/-- x / y of finite values, y not zero, as a magnitude with at least `p` bits. -/
def quo (mx : Nat) (ex : Int) (my : Nat) (ey : Int) (p : Nat) : Mag :=
  if mx = 0 then ⟨0, 0, false⟩ else divMag mx ex my ey p

/-- The scale that a ring gives (05 R119), as BF16. -/
def qScale (out : Nat) (m : List Nat) : Nat :=
  match ringMax m with
  | .nan => canon .bf16
  | .inf _ => 0x7F80
  | .fin _ 0 _ => 0x3F80
  | .fin _ k e => (roundMag .bf16 .ru false (divMag k e (qFmax out) 0 24)).1

/-- The magnitude |x| / scale is above `lim`. -/
def aboveLim (x : Mag) (lim : Nat) : Bool :=
  let fl : Nat := if 0 ≤ x.e then shl' x.m x.e else x.m / 2 ^ (-x.e).toNat
  let exact := !x.st && (0 ≤ x.e || x.m % 2 ^ (-x.e).toNat == 0)
  lim < fl || (fl == lim && !exact)

/-- QNT of one element but `.fp4` (05 R119): saturation before rounding. -/
def qCode (out : Nat) (rm : Rm) (x scale : Num) : FRes :=
  let F := if out = 0 then Fmt.e4m3 else .e5m2
  if x.isNan || scale.isNan then (if out = 3 then (0, .inv) else (canon F, .inv))
  else
    let sat (n : Bool) : FRes :=
      if out = 3 then (placeInt 8 (if n then -127 else 127), .sat) else (signed F n (roundNe (.fin false (qFmax out) 0) F), .sat)
    match x, scale with
    | .inf n, _ => sat n
    | .fin n _ _, .inf _ => (if out = 3 then 0 else signed F n 0, 0)
    | .fin n m e, .fin _ ms es =>
      let y := quo m e ms es 64
      if aboveLim y (qFmax out) then sat n
      else if out = 3 then
        let (k, inex) := roundAt rm n y 0
        (placeInt 8 (sgnInt n k), if inex then .inx else 0)
      else roundMag F rm n y
    | _, _ => (0, 0)

/-- One `.fp4` block (05 R120): the E3M5 block scale, the codes and the flags. The scale of a block with an infinite
element under an infinite ring scale is open (log 17). -/
def qBlock (blk : Nat) (rms : List Rm) (xs : List Num) (scale : Num) : Nat × List Nat × Fl :=
  let bmax := xs.foldl (fun a x => if x.isNan then a else mxNum a x.abs) (.fin false 0 0)
  let e : Nat :=
    match scale, bmax with
    | .fin _ ms es, .fin _ m eb =>
      if m = 0 then 0
      else
        let t := divMag m eb (6 * ms) es 40
        if aboveLim t 31 then 0xFE else min 0xFE (roundMag .e3m5 .ru false t).1
    | .fin .., .inf _ => 0xFE
    | .inf _, .inf _ => Config.openValue 0 blk % 255
    | _, _ => 0
  let codes := (xs.zip rms).map fun (x, rm) =>
    if x.isNan || scale.isNan then ((0, Fl.inv) : FRes)
    else if e = 0 then (0, 0)
    else
      match x, scale, fv e .e3m5 with
      | .inf n, _, _ => (signed .e2m1 n 7, .sat)
      | .fin n m ex, .fin _ ms es, .fin _ me ee =>
        let y := quo m ex (ms * me) (es + ee) 64
        if aboveLim y 6 then (signed .e2m1 n 7, .sat) else roundMag .e2m1 rm n y
      | .fin n _ _, _, _ => (signed .e2m1 n 0, 0)
      | _, _, _ => (0, 0)
  (e, codes.map (·.1), codes.foldl (fun f c => f ||| c.2) 0)

/-- DQNT of one element (05 R122): exact product, one rounding. -/
def dqProd (F : Fmt) (rm : Rm) (fs : List Num) : FRes :=
  if fs.any Num.isNan then (canon F, 0)
  else
    let (x, inv) := fs.foldl (fun (acc, i) f => let (p, j) := mulNum acc f; (p, i || j)) (Num.fin false 1 0, false)
    finish F rm x inv

/-- A format's bit width. -/
def Fmt.bits (F : Fmt) : Nat := F.eb + F.fb + F.sgn.toNat

/-- The largest absolute value of some values, NaN apart; +0 where there is none (05 R123). -/
def absMax (xs : List Num) : Num := xs.foldl (fun a x => mxNum a x.abs) (.fin false 0 0)

/-- The larger of a running maximum in FP32 bits and the largest absolute value (05 R119, R123): a NaN counts as +0. DESIGN CHOICE
(log 81): of −0 and +0, which no rule orders here, +0 is taken, as FMAX takes it (R108). -/
def runMax (old : Nat) (xs : List Num) : Num :=
  let c := fv old .fp32
  if c.isNan || !ltNum (absMax xs) c then absMax xs else c

/-- The maximum c of QNT (05 R119): where no value is a number it is the running maximum alone, of whatever sign; a NaN counts as +0. -/
def bandMax (old : Nat) (xs : List Num) : Num :=
  let c := fv old .fp32
  if xs.all (·.isNan) && !c.isNan then c else runMax old xs

end Sys2Proof
end

