-- ==== Sys2Proof/Machine/IntFn.lean ====
section
/-! DEFINITION. IntFn.lean: what the integer class computes on one lane's operands (04 R80-R89, R93). Operands and
results are 64-bit containers; a 32-bit type uses and gives bits 31:0, with zeros above. -/

namespace Sys2Proof

/-- wrap(x) (04, opnd helper): x mod 2^W. -/
def wrapT (t : ITy) (x : Int) : W64 := .ofNat 64 (x % (2 ^ t.bits : Nat)).toNat

/-- ival(x): sign-extended for `.i` types, zero-extended for `.n` types. -/
def ival (t : ITy) (x : W64) : Int :=
  let n := x.toNat % 2 ^ t.bits
  if t.signed && 2 ^ (t.bits - 1) ≤ n then (n : Int) - (2 ^ t.bits : Nat) else n

/-- zext(x, W). -/
def uval (t : ITy) (x : W64) : Nat := x.toNat % 2 ^ t.bits

/-- sext(x, W), whatever the type's signedness. -/
def sval (t : ITy) (x : W64) : Int :=
  let n := x.toNat % 2 ^ t.bits
  if 2 ^ (t.bits - 1) ≤ n then (n : Int) - (2 ^ t.bits : Nat) else n

def fnAdd (t : ITy) (a b : W64) : W64 := wrapT t (uval t a + uval t b)
def fnSub (t : ITy) (a b : W64) : W64 := wrapT t ((uval t a : Int) - uval t b)
def fnMul (t : ITy) (a b : W64) : W64 := wrapT t (uval t a * uval t b)
/-- IMULH (04 R80): floor(ival(a) * ival(b) / 2^W). -/
def fnMulh (t : ITy) (a b : W64) : W64 := wrapT t (ival t a * ival t b / (2 ^ t.bits : Nat))
def fnMad (t : ITy) (a b c : W64) : W64 := wrapT t (uval t a * uval t b + uval t c)
def fnMin (t : ITy) (a b : W64) : W64 := wrapT t (min (ival t a) (ival t b))
def fnMax (t : ITy) (a b : W64) : W64 := wrapT t (max (ival t a) (ival t b))
/-- IABS (04 R81): the smallest value returns itself. -/
def fnAbs (t : ITy) (a : W64) : W64 := wrapT t (ival t a).natAbs

/-- The shift amount: the whole 32-bit value of source B (04 R82). -/
def shAmt (b : W64) : Nat := b.toNat % 2 ^ 32
/-- SHL (04 R82): 0 for amounts of W or more. -/
def fnShl (t : ITy) (a b : W64) : W64 :=
  if shAmt b < t.bits then wrapT t (uval t a * 2 ^ shAmt b) else 0
def fnShr (t : ITy) (a b : W64) : W64 :=
  if shAmt b < t.bits then wrapT t (uval t a / 2 ^ shAmt b) else 0
/-- SRA (04 R82): arithmetic for every type; amounts of W or more fill with the sign. -/
def fnSra (t : ITy) (a b : W64) : W64 := wrapT t (sval t a / (2 ^ min (shAmt b) (t.bits - 1) : Nat))

def trim (t : ITy) (x : W64) : W64 := if t.is64 then x else x &&& 0xFFFFFFFF
def fnAnd (t : ITy) (a b : W64) : W64 := trim t (a &&& b)
def fnOr (t : ITy) (a b : W64) : W64 := trim t (a ||| b)
def fnXor (t : ITy) (a b : W64) : W64 := trim t (a ^^^ b)
def fnAndn (t : ITy) (a b : W64) : W64 := trim t (a &&& ~~~b)

/-- Number of one bits among the lowest `w` bits. -/
def ones : Nat → Nat → Nat
  | 0, _ => 0
  | w + 1, n => n % 2 + ones w (n / 2)
/-- Bits 0 to w-1 in reverse order. -/
def revBits : Nat → Nat → Nat
  | 0, _ => 0
  | w + 1, n => (n % 2) * 2 ^ w + revBits w (n / 2)

def fnPopc (t : ITy) (a : W64) : W64 := .ofNat 64 (ones t.bits (uval t a))
def fnClz (t : ITy) (a : W64) : W64 :=
  .ofNat 64 (if uval t a = 0 then t.bits else t.bits - 1 - (uval t a).log2)
def fnBrev (t : ITy) (a : W64) : W64 := .ofNat 64 (revBits t.bits (uval t a))

/-- The field of BFX and BFI after clamping: position and width; an empty field has width 0 (04 R84). -/
def bfField (t : ITy) (pos wid : Nat) : Nat × Nat :=
  if wid = 0 ∨ t.bits ≤ pos then (0, 0) else (pos, min wid (t.bits - pos))

/-- BFX (04 R84). -/
def fnBfx (t : ITy) (a pos wid : W64) : W64 :=
  let (p, w) := bfField t (shAmt pos) (shAmt wid)
  if w = 0 then 0
  else
    let x := uval t a / 2 ^ p % 2 ^ w
    wrapT t (if t.signed && 2 ^ (w - 1) ≤ x then (x : Int) - (2 ^ w : Nat) else x)

/-- BFI (04 R84): an empty field leaves the old value. -/
def fnBfi (t : ITy) (old a pos wid : W64) : W64 :=
  let (p, w) := bfField t (shAmt pos) (shAmt wid)
  let o := uval t old
  if w = 0 then .ofNat 64 o
  else .ofNat 64 (o % 2 ^ p + 2 ^ p * (uval t a % 2 ^ w) + 2 ^ (p + w) * (o / 2 ^ (p + w)))

/-- Conditions of ICMP (04 R86). -/
def fnCmp (t : ITy) (m : Nat) (a b : W64) : Bool :=
  let x := ival t a
  let y := ival t b
  match m with
  | 0 => x == y
  | 1 => x != y
  | 2 => x < y
  | 3 => x ≤ y
  | 4 => y < x
  | _ => y ≤ x

/-- LEA (04 R87): the index is 32 bits, extended by the type's signedness; `off` is an integer. -/
def fnLea (t : ITy) (m : Nat) (a b : W64) (off : Int) : W64 :=
  let idx : Int := ival (if t.signed then .i32 else .n32) b
  wrapT t (uval t a + idx * (2 ^ m : Nat) + off)

/-- An immediate of `w` bits extended to the type: by sign for `.i`, by zero for `.n` (04 R88). -/
def immExt (t : ITy) (w : Nat) (v : W64) : W64 :=
  let n := v.toNat % 2 ^ w
  wrapT t (if t.signed && w < t.bits && 2 ^ (w - 1) ≤ n then (n : Int) - (2 ^ w : Nat) else n)

/-- MOVW (04 R88). -/
def fnMovw (t : ITy) (old : W64) (imm : BitVec 16) (h : Nat) : W64 :=
  let o := uval t old
  .ofNat 64 (o % 2 ^ (16 * h) + 2 ^ (16 * h) * imm.toNat + 2 ^ (16 * h + 16) * (o / 2 ^ (16 * h + 16)))

/-- PLOP's table look-up for one lane (04 R89). -/
def fnPlop (lut : Byte) (a b c : Bool) : Bool := lut.toNat / 2 ^ (4 * a.toNat + 2 * b.toNat + c.toNat) % 2 == 1

/-- One step of RED and SCAN on integer values (04 R93). -/
def redOp (op : Nat) (t : ITy) (x y : W64) : W64 :=
  match op with
  | 0 => fnAdd t x y
  | 1 => fnMin t x y
  | 2 => fnMax t x y
  | 3 => fnAnd t x y
  | 4 => fnOr t x y
  | _ => fnXor t x y

/-- The identity of each op (04 R93). -/
def redIdent (op : Nat) (t : ITy) : W64 :=
  match op with
  | 1 => if t.signed then .ofNat 64 (2 ^ (t.bits - 1) - 1) else .ofNat 64 (2 ^ t.bits - 1)
  | 2 => if t.signed then .ofNat 64 (2 ^ (t.bits - 1)) else 0
  | 3 => .ofNat 64 (2 ^ t.bits - 1)
  | _ => 0

/-- A result extended to a scalar: by sign for `.i` types, by zero otherwise (02 R31). -/
def toScalar (t : ITy) (x : W64) : W64 := .ofInt 64 (ival t x)

end Sys2Proof
end

