-- ==== Sys2Proof/Machine/Order.lean ====
section
/-! DEFINITION. Order.lean: the abstract machine of ordering: outbound queues, L1 lines, requests to home points, apply
queues, replies, and what performs an access (08 R168-R184, R188-R193, 06 R127). -/

namespace Sys2Proof.Machine

open Sys2Proof

/-! ### Entries -/

def State.modGrp (s : State) (gid : Nat) (f : Group → Group) : State :=
  match s.grp? gid with
  | some g => s.setGrp (f g)
  | none => s

def Group.modEnt (g : Group) (uid : Nat) (f : Entry → Entry) : Group :=
  { g with obq := g.obq.map fun e => if e.uid = uid then f e else e }
def Group.ent? (g : Group) (uid : Nat) : Option Entry := g.obq.find? (·.uid == uid)

/-- Stores, atomics, SCs and range operations (08 R171). -/
def EKind.isWrite : EKind → Bool
  | .store | .atom .. | .sc | .range .. | .obj (some _) => true
  | _ => false
/-- Loads, LRs and atomics, which an `.acq` FENCE waits for (08 R188). -/
def EKind.isRead : EKind → Bool
  | .load | .lr | .atom .. | .feload _ | .obj (some _) => true
  | _ => false
def EKind.isFence : EKind → Bool
  | .fence .. => true
  | _ => false

/-- The runs of bytes of an access: 8 bytes of private memory are two interleaved pieces (06 R128). -/
def pieces (pa n : Nat) : List (Nat × Nat) := if tierOf pa == .priv && n == 8 then [(pa, 4), (pa + 512, 4)] else [(pa, n)]
/-- The cells that an access writes. -/
def pieceCells (pa n v : Nat) : List Host.Cell :=
  if tierOf pa == .priv && n == 8 then leCells pa 4 v ++ leCells (pa + 512) 4 (v / 2 ^ 32) else leCells pa n v
/-- The value of an access from its bytes. -/
def pieceGet (f : Nat → Byte) (pa n : Nat) : Nat :=
  if tierOf pa == .priv && n == 8 then leGet f pa 4 + 2 ^ 32 * leGet f (pa + 512) 4 else leGet f pa n

/-- Two accesses touch a common byte. -/
def meet (xs ys : List (Nat × Nat)) : Bool := xs.any fun x => ys.any fun y => x.1 < y.1 + y.2 && y.1 < x.1 + x.2

/-- Two entries touch a common byte; a range operation touches whole tiles. -/
def Entry.overlaps (a b : Entry) : Bool :=
  match a.loc, a.kind, b.loc, b.kind with
  | .mem x _, _, .mem y _, _ => meet (pieces x a.n) (pieces y b.n)
  | .pad t x, _, .pad u y, _ => t == u && x < y + b.n && y < x + a.n
  | .mem x _, _, .nowhere, .range _ ts => meet (pieces x a.n) (ts.map fun t => (t, 1024))
  | .nowhere, .range _ ts, .mem y _, _ => meet (ts.map fun t => (t, 1024)) (pieces y b.n)
  | .nowhere, .range _ ts, .nowhere, .range _ us => ts.any us.contains
  | _, _, _, _ => false

/-- Still in its queue, or waiting at its core for its line. -/
def Entry.waits (e : Entry) : Bool := e.stage == .queued || e.stage == .filling

/-- The core whose scratchpad an entry accesses. -/
def State.padCore (s : State) : Loc → Option Nat
  | .pad t _ => (s.team? t).map (·.core)
  | _ => none

/-! ### The core's copies (06 R127, 07 R159) -/

def Core.line? (c : Core) (pa : Nat) : Option Line := c.l1.find? (·.addr == lineOf pa)
def Line.dirtyIn (l : Line) (pa n : Nat) : Bool := l.dirty.any fun a => pa ≤ a && a < pa + n

/-- A requester-side copy of the tile of an address in a quadrant. -/
def Quad.copy? (q : Quad) (pa : Nat) : Option Tile := (q.tile? (tileOf pa)).filter (·.copy)

/-- A write-back of a core or of a quadrant. -/
def Req.isBack (r : Req) : Bool := r.grp == 0 && r.write && (r.src < 192 || (5000 ≤ r.src && r.src < 5016))

/-- How far a write has to have come: into a remote apply queue or applied at a home on its die; applied; acknowledged. -/
inductive Reach where | taken | applied | acked
  deriving DecidableEq, Repr

/-- The access goes to the copy that the core's quadrant holds, not to the home point (07 R159). -/
def Req.toCopy (r : Req) : Bool := r.fill == 3 || r.fill == 4

/-- Write-backs of a core, or of its quadrant's copies, that `hit` keeps and that have not come so far. -/
def State.flyingBack (s : State) (core : Nat) (far : Reach) (hit : Req → Bool) : Bool :=
  let mine (r : Req) : Bool := r.isBack && (r.src == core || r.src == 5000 + quadOfCore core) && hit r
  let late (r : Req) : Bool := mine r && (far != .taken || r.home == r.srcDie || r.toCopy)
  s.net.any mine || s.dies.toList.any (·.snoop.any late) || s.quads.toList.any (fun q => q.accs.any fun a => late a.req) ||
    (far != .taken && s.dies.toList.any fun d => d.applyq.toList.any (·.any mine)) || (far == .acked && s.replies.any fun p => mine p.req)

/-- Such write-backs that carry bytes of a range. -/
def State.flying (s : State) (core pa n : Nat) (far : Reach) : Bool :=
  s.flyingBack core far fun r => r.cells.any fun c => pa ≤ c.1 && c.1 < pa + n

/-- The core still holds dirty bytes of an access, in its L1 or in a copy, or sends them (08 R183). -/
def State.unwritten (s : State) (core pa n : Nat) (far : Reach) : Bool :=
  (pieces pa n).any fun (a, k) =>
    (match (s.core core).line? a with
     | some l => l.dirtyIn a k
     | none => false) ||
    (match (s.quad (quadOfCore core)).copy? a with
     | some t => t.dirty.any fun x => a ≤ x && x < a + k
     | none => false) || s.flying core a k far

/-- A core's window bytes that a release at `.dev` or `.sys` writes back (08 R181). -/
def State.windowsOut (s : State) (core : Nat) : Bool :=
  (s.core core).l1.any (fun (l : Line) => l.cls == 4 && !l.dirty.isEmpty) || s.flyingBack core .acked fun r => match r.loc with
    | .mem _ cls => cls == 4
    | _ => false

/-- A range entry's step for a tile has reached the apply queue of its home die. -/
def State.rangeTaken (s : State) (uid tile : Nat) : Bool :=
  let hit (r : Req) : Bool := r.ent == uid && (match r.loc with
    | .mem pa _ => pa == tile
    | _ => false)
  s.dies.toList.any (fun d => d.applyq.toList.any (·.any hit)) || s.replies.any fun p => hit p.req

/-- A range entry's step for a tile has been applied at its home: it is no longer listed, or its acknowledgement is on the way. -/
def State.rangeApplied (s : State) (e : Entry) (tile : Nat) : Bool :=
  (match e.kind with
   | .range _ ts => !ts.contains tile
   | _ => true) || s.replies.any fun p => p.req.ent == e.uid && (match p.req.loc with
    | .mem pa _ => pa == tile
    | _ => false)

/-! ### Performed at a scope (08 R183) -/

/-- Scopes are 1 `.grp`, 2 `.clu`, 3 `.die`, 4 `.dev`, 5 `.sys`. -/
def State.performedAt (s : State) (g : Group) (e : Entry) (scope : Nat) : Bool :=
  match e.kind, e.loc with
  | .store, .mem pa cls | .atom .., .mem pa cls | .sc, .mem pa cls =>
    if scope ≤ 1 then !e.waits
    else (e.stage == .done || (scope ≤ 3 && (e.stage == .taken || e.stage == .applied))) &&
      (cls == 2 || (cls == 4 && scope ≤ 3) || !s.unwritten g.core pa e.n (if 4 ≤ scope then .acked else .taken))
  | .query _, _ | .pf, _ => true
  | .range _ ts, _ =>
    if scope ≤ 1 then !e.waits
    else e.stage == .done || (scope ≤ 3 && e.stage == .left && ts.all fun t => s.rangeTaken e.uid t)
  | _, _ => e.stage == .done

/-- An earlier write is applied at its home point, as a range operation on a tile asks (07 R166, 08 R171): the dirty bytes that it left in the
core's copies with it. -/
def State.appliedHome (s : State) (g : Group) (e : Entry) (tiles : List Nat) : Bool :=
  match e.kind, e.loc with
  | .range _ us, _ => us.all fun t => !tiles.contains t || (!e.waits && s.rangeApplied e t)
  | _, .mem pa _ => (pieces pa e.n).all (fun p => !tiles.contains (tileOf p.1)) ||
      ((e.stage == .done || e.stage == .applied) && !s.unwritten g.core pa e.n .applied)
  | _, _ => true

/-- External writes that die h has applied, C_h[ext], with those its ports dropped, which count as applied (15 R351). -/
def Die.extApplied (d : Die) (h : Nat) : Nat := ((d.dep[4]?.bind (·[h]?))).getD 0 + (d.drops[4]?).getD 0

/-- The external writes an acquire waits for have been applied (08 R183). -/
def State.extMet (s : State) (e : Entry) : Bool :=
  (List.range 4).all fun h => (e.extAt[h]?.getD 0) ≤ (s.die h).extApplied h
def State.extNow (s : State) : List Nat := (List.range 4).map fun h => (s.die h).extAcc

/-! ### Requests (08 R174) -/

/-- T_d[src][h]. -/
def depAt (t : List (List Nat)) (src h : Nat) : Nat := (t[src]?.bind (·[h]?)).getD 0
def depSet (t : List (List Nat)) (src h v : Nat) : List (List Nat) := t.set src (((t[src]?).getD []).set h v)
/-- The entry-wise maximum of two tables outside one column. -/
def depMerge (t u : List (List Nat)) (own : Nat) : List (List Nat) :=
  (List.range 5).map fun i => (List.range 4).map fun j => if j = own then depAt t i j else max (depAt t i j) (depAt u i j)

/-- Sends a request: a remote one takes its stamp and the sender's table, and a write counts (08 R174). -/
def State.send (s : State) (r : Req) : State :=
  if r.home = r.srcDie ∨ 4 ≤ r.home then { s with net := s.net ++ [r] }
  else
    let d := s.die r.srcDie
    let t := if r.write then depSet d.dep r.srcDie r.home (depAt d.dep r.srcDie r.home + 1) else d.dep
    let stamp := (List.range 5).map fun i => depAt t i r.home
    let d := { d with dep := t, unacked := if r.write then put d.unacked (r.home % 4) (nth d.unacked r.home + 1) else d.unacked }
    { s.setDie r.srcDie d with net := s.net ++ [{ r with stamp, table := t }] }

/-- A die holds back new writes to h while 2^20 are unacknowledged (08 R174). -/
def State.writeBlocked (s : State) (die home : Nat) : Bool :=
  home < 4 && home != die && 2 ^ 20 ≤ nth (s.die die).unacked home

def blankReq : Req :=
  { uid := 0, src := 0, srcDie := 0, home := 0, grp := 0, ent := 0, kind := .store, loc := .nowhere, n := 0, data := 0, cells := [],
    write := false, far := false, fill := 0, stamp := [], table := [] }

/-- Who wrote the bytes of a line, a copy or a write-back, as an error record names them: GRIDID and context of the last writer (15 R346). -/
abbrev Who := W64 × Nat
def Line.who (l : Line) : Who := (l.grid, l.ctx)
def Tile.who (t : Tile) : Who := (t.grid, t.ctx)
def Req.who (r : Req) : Who := (r.grid, r.ctx)
/-- A group as a writer. -/
def State.whoIs (s : State) (gid : Nat) : Who := ((s.grp? gid).map fun g => (s.gridId g, s.grpCtx g)).getD (0, 0)

/-- A write-back of bytes of a line or tile at `a`, n bytes long, that a core, or quadrant q as source 5000 + q, held dirty (08 R172). -/
def State.sendBack (s : State) (src die a n cls : Nat) (who : Who) (cells : List Host.Cell) : State :=
  if cells.isEmpty then s
  else
    let (u, s) := s.fresh
    s.send { blankReq with uid := u, src, srcDie := die, home := homeDie a, loc := .mem a cls, n, cells, write := true, grid := who.1, ctx := who.2 }

/-! ### Spiral arrival (07 R151, R154, R155) -/

/-- The number of a requester at the front of quadrant q (07 R156). -/
def whoAt (q src : Nat) : Nat :=
  if src < 192 then (if quadOfCore src = q then src % 12 else 13)
  else if 1000 ≤ src && src < 1032 then (if (src - 1000) / 2 = q then 12 else 13)
  else if 2000 ≤ src && src < 2048 then (if (src - 2000) / 3 = q then 12 else 13)
  else if src = 5000 + q then 12
  else 13

/-- P as it stands at the start of cycle t. -/
def Quad.frontAt (q : Quad) (t : Nat) : Nat := if q.pAt = t + 1 then q.pOld else q.front
def Quad.rank (q : Quad) (who t : Nat) : Nat := (who + 14 - q.frontAt t) % 14

/-- A tile inserted clean with given bytes, its promotion still to come (07 R150). -/
def newTile (addr : Nat) (copy : Bool) (bytes : List Byte) : Tile :=
  { addr, copy, pos := none, legs := [], cls := 0, bytes, dirty := [], sharers := [], apC := 0, apR := 0 }

/-- Positions that a motion covers. -/
def legLen (l : Nat × Nat × Nat) : Nat := if l.2.1 ≤ l.2.2 then l.2.2 - l.2.1 else l.2.1 - l.2.2

/-- The slot of a tile at cycle t, or that of the carrier that holds it (07 R153, R374). -/
def Tile.at (x : Tile) (t : Nat) : Nat :=
  match (x.legs.filter fun l => l.1 ≤ t).getLast? with
  | some l => let k := min (t - l.1) (legLen l); if l.2.1 ≤ l.2.2 then l.2.1 + k else l.2.1 - k
  | none => match x.legs.head? with
    | some l => l.2.1
    | none => x.pos.getD 0

/-- A wave carries the tile outward in cycle t: it occupies no slot (07 R153). -/
def Tile.carried (x : Tile) (t : Nat) : Bool := x.legs.any fun l => l.2.1 < l.2.2 && l.1 ≤ t && t < l.1 + legLen l

/-- An access accepted in cycle t: it stands at the tile's slot p and gets there in cycle t + p / 256; one that would get there at once while a wave
carries the tile chases it outward (07 R154). -/
def Way.start (x : Tile) (t : Nat) : Way :=
  let p := x.at t
  ⟨p, t + p / 256, if p / 256 == 0 && x.carried t then 1 else 0, p / 256 == 0 && !x.carried t⟩

/-- The way in cycle t, one cycle on: the tile still in its slot, or a chase at 2 positions a cycle until it, or its carrier, is reached or
passed; a tile no longer held ends it. The table of R164 has its load go 4 positions in one cycle, and R154's 2 hold here (DEDUCED, log 97). -/
def Way.go (w : Way) (x : Option Tile) (t : Nat) : Way :=
  if w.ready then w
  else match x with
    | none => { w with ready := true }
    | some x =>
      let q := x.at t
      if t < w.wake then w
      else match w.side with
        | 0 => if q = w.here && !x.carried t then { w with ready := true } else { w with side := if q < w.here then 2 else 1 }
        | 1 => { w with here := w.here + 2, ready := decide (q ≤ w.here + 2) }
        | _ => { w with here := w.here - 2, ready := decide (w.here ≤ q + 2) }

/-- The cycle in which what reaches quadrant q now is accepted at its spiral: the next one where the front has accepted for this one, after which
nothing more is applied in it (07 R154, R156; DEDUCED, log 96). -/
def State.acceptCycle (s : State) (q : Nat) : Nat :=
  let now := (s.die (q / 4)).cycle
  if (s.quad q).pAt = now + 1 then now + 1 else now

/-- The next place in a quadrant's order of acceptance. -/
def Quad.nextNo (q : Quad) : Nat := ((q.accs.map (·.no)) ++ q.pulls.map (·.no)).foldl max 0 + 1

def Req.pa (r : Req) : Nat :=
  match r.loc with
  | .mem pa _ => pa
  | _ => 0

/-- A request is accepted at a quadrant's spiral and sets out for its tile (07 R154, R155). -/
def State.atSpiral (s : State) (q : Nat) (r : Req) : State :=
  let qd := s.quad q
  let t := s.acceptCycle q
  let now := t == (s.die (q / 4)).cycle
  let way := match qd.tile? (tileOf r.pa) with
    | some x => let w := Way.start x t; { w with ready := w.ready && now }
    | none => ⟨0, t, 0, now⟩
  let rank := qd.rank (whoAt q r.src) t
  match r.kind with
  | .query (.pull g) => s.setQuad q { qd with pulls := qd.pulls ++ [⟨t, rank, way, r, g, qd.nextNo⟩] }
  | _ => s.setQuad q { qd with accs := qd.accs ++ [⟨t, rank, way, r, qd.nextNo⟩] }

/-! ### L1 lines (06 R127) -/

def Core.setLine (c : Core) (l : Line) : Core :=
  { c with l1 := if c.l1.any (·.addr == l.addr) then c.l1.map fun x => if x.addr = l.addr then l else x else c.l1 ++ [l] }

def Line.dirtyCells (l : Line) : List Host.Cell := l.cells.filter fun c => l.dirty.contains c.1

/-- Reservations of a core that its L1 line held end with the line (08 R193). -/
def Core.dropLine (c : Core) (a : Nat) : Core :=
  { c with l1 := c.l1.filter (·.addr != a),
           resv := c.resv.filter fun r => !(r.hp == 1 && r.blk.inBlock (.mem a 0) 128) }

/-- Fills of lines of n bytes from `a` on, on the cores that `hit` keeps, bring no line or copy any more; a fill may bring a whole tile, so that those of
its other lines count too. The accesses that waited for one stand in their queues again, and decide anew (06 R126, 08 R176, 09 R198, R206). -/
def State.cancelFills (s : State) (hit : Nat → Bool) (a n : Nat) : State :=
  let hits (l : Loc) (k : Nat) : Bool := match l with
    | .mem pa _ => (pieces pa k).any fun p => tileOf p.1 < a + n && a < tileOf p.1 + 1024
    | _ => false
  let ent (e : Entry) : Entry := if e.stage == .filling && hits e.loc e.n then { e with stage := .queued } else e
  { s with groups := s.groups.map fun g => if hit g.core && g.obq.any (·.stage == .filling) then { g with obq := g.obq.map ent } else g }

/-- The copy of a line's tile in the quadrant of a core, where the core's bytes go before the home (07 R159); window lines go home (08 R181). -/
def State.copyFor (s : State) (core : Nat) (l : Line) : Bool := l.cls != 4 && ((s.quad (quadOfCore core)).copy? l.addr).isSome

/-- The dirty bytes of a line set out for the home point, or for the quadrant's copy. -/
def State.lineBack (s : State) (core : Nat) (l : Line) : State :=
  if l.dirty.isEmpty then s
  else if s.copyFor core l then
    let (u, s) := s.fresh
    s.atSpiral (quadOfCore core) { blankReq with uid := u, src := core, srcDie := dieOfCore core, home := homeDie l.addr, loc := .mem l.addr l.cls,
                                                 n := 128, cells := l.dirtyCells, write := true, fill := 3, grid := l.grid, ctx := l.ctx }
  else s.sendBack core (dieOfCore core) l.addr 128 l.cls l.who l.dirtyCells

/-- Writes a line back, and drops it where asked; while its die holds writes to the home back, a line with dirty bytes stays (08 R174). Fills of a
dropped line under way are older than what was written back. -/
def State.wbLine (s : State) (core a : Nat) (drop : Bool) : State :=
  match (s.core core).line? a with
  | none => s
  | some l =>
    if !l.dirty.isEmpty && !s.copyFor core l && s.writeBlocked (dieOfCore core) (homeDie l.addr) then s
    else
      let s := s.lineBack core l
      let c := s.core core
      if drop then (s.setCore core (c.dropLine l.addr)).cancelFills (· == core) l.addr 128 else s.setCore core (c.setLine { l with dirty := [] })

/-- An L1 of 256 KiB holds 2048 lines; the line held longest leaves (log 19). -/
def State.trimL1 (s : State) (core : Nat) : State :=
  match (s.core core).l1 with
  | l :: rest => if 2048 ≤ rest.length then s.wbLine core l.addr true else s
  | [] => s

/-- Bytes of a line as held, none where one is missing. -/
def Line.get? (l : Line) (pa n : Nat) : Option Nat :=
  if (List.range n).all fun i => (cellGet? l.cells (pa + i)).isSome then some (leGet (fun a => (cellGet? l.cells a).getD 0) pa n)
  else none

/-- Bytes of an access that the L1 holds, none where one is missing. -/
def State.l1Byte? (s : State) (core a : Nat) : Option Byte := ((s.core core).line? a).bind fun l => cellGet? l.cells a
def State.l1Get? (s : State) (core pa n : Nat) : Option Nat :=
  if (pieces pa n).all fun p => (List.range p.2).all fun i => (s.l1Byte? core (p.1 + i)).isSome
  then some (pieceGet (fun a => (s.l1Byte? core a).getD 0) pa n) else none

/-- The line of an address in a core's L1, made where it is missing; a window access makes it a window line. -/
def Core.lineFor (c : Core) (pa cls : Nat) (own : Option (Nat × Nat)) : Line :=
  let l := (c.line? pa).getD { addr := lineOf pa, cells := [], dirty := [], cls, own }
  if cls = 4 then { l with cls := 4, own } else l

def Line.store (l : Line) (b : Host.Cell) : Line :=
  { l with cells := cellPut l.cells b.1 b.2, dirty := if l.dirty.contains b.1 then l.dirty else l.dirty ++ [b.1] }

def Line.signed (l : Line) (who : Who) : Line := { l with grid := who.1, ctx := who.2 }

/-- A store into the L1: bytes marked dirty, of a line that names its last writer. -/
def State.l1Write (s : State) (core cls : Nat) (own : Option (Nat × Nat)) (who : Who) (cs : List Host.Cell) : State :=
  let s := cs.foldl (fun s b => let c := s.core core; s.setCore core (c.setLine (((c.lineFor b.1 cls own).store b).signed who))) s
  s.trimL1 core

/-- A fill: bytes the line does not hold yet take the fill's. -/
def State.l1Fill (s : State) (core cls : Nat) (own : Option (Nat × Nat)) (la v : Nat) : State :=
  let c := s.core core
  let l := (leCells la 128 v).foldl (fun (l : Line) b =>
    if (cellGet? l.cells b.1).isSome then l else { l with cells := cellPut l.cells b.1 b.2 }) (c.lineFor la cls own)
  (s.setCore core (c.setLine l)).trimL1 core

/-- A line lies in a guarded range of a lock that a team, on a core, holds (06 R126, 09 R205). -/
def State.lockHeld (s : State) (core team : Nat) (va : W64) : Bool :=
  let la := lineOf va.toNat
  (s.core core).held.any fun h => h.live && h.team == team && h.ranges.any fun r => r.1 ≤ la && la + 128 ≤ r.1 + r.2.1

/-- A class G access whose line lies in a guarded range of the team's held lock (06 R126, 09 R205). -/
def State.heldG (s : State) (g : Group) (va : W64) : Bool := s.lockHeld g.core g.team va

/-- Guarded only by ranges that the list marks read-only (09 R198). -/
def State.roG (s : State) (g : Group) (va : W64) : Bool :=
  let hits := (s.core g.core).held.flatMap fun h => if h.live && h.team == g.team then h.ranges.filter fun r => r.1 ≤ va.toNat && va.toNat < r.1 + r.2.1 else []
  !hits.isEmpty && hits.all (·.2.2)

/-- A write of the team to a guarded line, made at the home point, is on its way there: until it is applied no copy of the line or its tile is made
(09 R198). -/
def State.roPending (s : State) (g : Group) (pa : Nat) : Bool :=
  s.groups.any fun x => x.team == g.team && x.obq.any fun e => e.kind.isWrite && (e.stage == .left || e.stage == .taken || e.stage == .applied) &&
    (match e.loc with
     | .mem a 3 => tileOf a == tileOf pa
     | _ => false)

/-- The class lets the core and its quadrant hold copies for this access (06 R126, 08 R180, R181, 09 R198). -/
def State.mayCache (s : State) (g : Group) (va : W64) (pa cls : Nat) (write : Bool) : Bool :=
  cls == 0 || cls == 1 || cls == 4 || (cls == 3 && s.heldG g va && !(write && s.roG g va) && !s.roPending g pa)

/-- The whole tile of an access may stand in a requester-side copy: of class G, where a held lock's ranges cover all of it (06 R126, 07 R159, 09
R205). -/
def State.mayCopy (s : State) (g : Group) (va : W64) (cls : Nat) : Bool :=
  cls == 0 || cls == 1 || (cls == 3 &&
    let ta := tileOf va.toNat
    (s.core g.core).held.any fun h => h.live && h.team == g.team && h.ranges.any fun r => r.1 ≤ ta && ta + 1024 ≤ r.1 + r.2.1)

/-! ### Requester-side copies (07 R159) -/

/-- Reservations that a quadrant's copy of a tile held end with the copy (08 R193). -/
def State.endCopyResv (s : State) (q tile : Nat) : State :=
  { s with cores := Vector.ofFn fun i : Fin 192 =>
      let c := s.cores[i]
      if i.val / 12 = q then { c with resv := c.resv.filter fun r => !(r.hp == 2 && r.blk.inBlock (.mem tile 0) 1024) } else c }

def Tile.dirtyCells (t : Tile) : List Host.Cell := t.dirty.map fun a => (a, t.byte a)
def Tile.signed (t : Tile) (who : Who) : Tile := { t with grid := who.1, ctx := who.2 }

/-- Drops a copy, its dirty bytes first written back; while its die holds writes to the home back, a dirty one stays (08 R174). -/
def State.dropCopy (s : State) (q tile : Nat) : State :=
  match (s.quad q).copy? tile with
  | none => s
  | some t =>
    if !t.dirty.isEmpty && s.writeBlocked (q / 4) (homeDie t.addr) then s
    else
      let s := s.sendBack (5000 + q) (q / 4) t.addr 1024 t.cls t.who t.dirtyCells
      let qd := s.quad q
      (s.setQuad q { qd with tiles := qd.tiles.filter fun x => !(x.addr == t.addr && x.copy) }).endCopyResv q t.addr

/-- Writes a copy's dirty bytes back and keeps it. -/
def State.cleanCopy (s : State) (q tile : Nat) : State :=
  match (s.quad q).copy? tile with
  | none => s
  | some t =>
    if !t.dirty.isEmpty && s.writeBlocked (q / 4) (homeDie t.addr) then s
    else
      let s := s.sendBack (5000 + q) (q / 4) t.addr 1024 t.cls t.who t.dirtyCells
      s.setQuad q ((s.quad q).setTile { t with dirty := [] })

/-! ### Ranges cleaned before their copies are dropped (08 R176, 09 R206) -/

/-- n bytes from `a` on meet one of some runs of bytes. -/
def meetRuns (ps : List (Nat × Nat)) (a n : Nat) : Bool := ps.any fun p => p.1 < a + n && a < p.1 + p.2

/-- No L1 line of the cores named and no copy that meets the runs holds dirty bytes, and no write-back that carries bytes of them is on its way: all
are applied at their home points. -/
def State.runsClean (s : State) (cores : Nat → Bool) (ps : List (Nat × Nat)) : Bool :=
  let late (r : Req) : Bool := r.isBack && r.cells.any fun c => meetRuns ps c.1 1
  ps.isEmpty ||
  ((List.range 192).all (fun c => !cores c || (s.core c).l1.all fun (l : Line) => l.dirty.isEmpty || !meetRuns ps l.addr 128) &&
   s.quads.toList.all (fun q => q.tiles.all (fun t => !t.copy || t.dirty.isEmpty || !meetRuns ps t.addr 1024) && q.accs.all fun a => !late a.req) &&
   s.net.all (fun r => !late r) && s.dies.toList.all fun d => d.snoop.all (fun r => !late r) && d.applyq.toList.all fun q => q.all fun r => !late r)

/-- Those dirty bytes set out for their home points, as write-backs of any line or copy do. -/
def State.cleanRuns (s : State) (cores : Nat → Bool) (ps : List (Nat × Nat)) : State :=
  let s := (List.range 192).foldl (fun s c =>
    if !cores c then s
    else ((s.core c).l1.filter fun (l : Line) => !l.dirty.isEmpty && meetRuns ps l.addr 128).foldl (fun s l => s.wbLine c l.addr false) s) s
  (List.range 16).foldl (fun s q =>
    ((s.quad q).tiles.filter fun t => t.copy && !t.dirty.isEmpty && meetRuns ps t.addr 1024).foldl (fun s t => s.cleanCopy q t.addr) s) s

/-! ### Acquire actions (08 R183) -/

/-- The lines and copies that an acquire at `.sys` drops: class G ones stay until release. -/
def State.acqSysDrop (s : State) (core : Nat) : State :=
  let s := ((s.core core).l1.filter fun l => l.cls != 3).foldl (fun s l => s.wbLine core l.addr true) s
  let q := quadOfCore core
  let s := ((s.quad q).tiles.filter fun t => t.copy && t.cls != 3).foldl (fun s t => s.dropCopy q t.addr) s
  s.cancelFills (fun c => quadOfCore c == q) 0 (2 ^ 64)

/-- Nothing that such an acquire drops is left. -/
def State.acqSysDone (s : State) (core : Nat) : Bool :=
  (s.core core).l1.all (·.cls == 3) && (s.quad (quadOfCore core)).tiles.all fun t => !t.copy || t.cls == 3

/-- Tries the acquire actions of a performed entry of scope `acq`. -/
def State.tryAcq (s : State) (gid uid : Nat) : State :=
  match s.grp? gid with
  | none => s
  | some g =>
    match g.ent? uid with
    | none => s
    | some e =>
      if e.stage != .done || e.acqOk then s
      else if e.acq ≤ 3 then s.setGrp (g.modEnt uid fun e => { e with acqOk := true })
      else if !s.extMet e then s
      else
        let s := if e.acq = 5 then s.acqSysDrop g.core else s
        if e.acq = 5 && !s.acqSysDone g.core then s
        else s.modGrp gid fun g => g.modEnt uid fun e => { e with acqOk := true }

/-- An entry is performed with a value. -/
def State.perform (s : State) (gid uid val : Nat) : State :=
  (s.modGrp gid fun g => g.modEnt uid fun e => { e with stage := .done, val, extAt := s.extNow, acqOk := e.acq == 0 }).tryAcq gid uid

/-! ### Holding back (08 R171, R188) -/

/-- A FENCE marker's own condition over the entries before it. -/
def State.fenceMet (s : State) (g : Group) (before : List Entry) (kind scope : Nat) : Bool :=
  if kind = 1 then before.all fun e => !e.kind.isRead || e.stage == .done
  else before.all (fun e => s.performedAt g e scope) && !(4 ≤ scope && s.windowsOut g.core)

/-- A query, or PF's request: not among the accesses that 08 R171 orders. -/
def EKind.aside : EKind → Bool
  | .query _ | .pf => true
  | _ => false

/-- Entry j, earlier, keeps a query i from setting out: an access to its tile that is not yet applied, or a query of it that has not left (18 R373). -/
def State.holdsQuery (s : State) (j i : Entry) : Bool :=
  match i.kind, i.loc with
  | .query _, .mem pa _ =>
    match j.kind, j.loc with
    | .query _, .mem a _ => tileOf a == tileOf pa && j.stage == .queued
    | .range _ us, _ => j.stage != .done && us.contains (tileOf pa) && !(j.stage == .left && s.rangeApplied j (tileOf pa))
    | _, .mem a _ => (pieces a j.n).any (fun p => tileOf p.1 == tileOf pa) && !(j.stage == .done || j.stage == .applied)
    | _, _ => false
  | _, _ => false

/-- Entry j, earlier, holds back entry i (08 R171, R188). `fwd` leaves out the first row, for a load that forwards. -/
def State.holdsBack (s : State) (g : Group) (j i : Entry) (before : List Entry) (fwd : Bool) : Bool :=
  (!fwd && j.overlaps i && j.waits) ||
  ((match s.padCore j.loc, s.padCore i.loc with
    | some a, some b => a == b
    | _, _ => false) && j.stage == .queued) ||
  (j.kind == .sc && i.kind == .sc && j.loc.blk.same i.loc.blk && j.stage == .queued) ||
  (!j.kind.isFence && j.acq != 0 && !(j.stage == .done && j.acqOk)) ||
  (i.rel != 0 && !s.performedAt g j i.rel) ||
  (match i.kind with
   | .range _ tiles => j.kind.isWrite && !s.appliedHome g j tiles
   | .engine _ => j.kind.isWrite && !s.performedAt g j 3
   | _ => false) ||
  (match j.kind with
   | .fence 0 _ => !(j.stage == .done && j.acqOk)
   | .fence 1 _ => !(j.stage == .done && j.acqOk)
   | .fence _ sc => (i.kind.isWrite || i.kind.isFence || (match i.kind with
       | .engine _ => true
       | .item _ => true
       | .chan => true
       | .obj _ => true
       | .fe (some _) => true
       | _ => false)) && !(s.fenceMet g before 2 sc)
   | _ => false) ||
  (match i.kind with
   | .fence 1 _ => j.kind.isRead && j.stage != .done
   | .fence _ sc => !s.performedAt g j sc
   | _ => false)

/-- Entry j, earlier, keeps entry i in the queue. -/
def State.holds (s : State) (g : Group) (j i : Entry) (before : List Entry) (fwd : Bool) : Bool :=
  if i.kind.aside || j.kind.aside then s.holdsQuery j i else s.holdsBack g j i before fwd

/-- Some entry before position i holds entry e back. -/
def State.heldBy (s : State) (g : Group) (e : Entry) (fwd : Bool) : List Entry → List Entry → Bool
  | _, [] => false
  | seen, j :: rest => s.holds g j e seen fwd || s.heldBy g e fwd (seen ++ [j]) rest

/-- The scope of a release: 0 for none. -/
def Entry.relScope (e : Entry) : Nat :=
  match e.kind with
  | .fence 1 _ => 0
  | .fence _ sc => sc
  | _ => e.rel

/-- Entry i is held back by an earlier one, or, a release at `.dev` or `.sys`, by window bytes of the core not written back (08 R181). -/
def State.heldBack (s : State) (g : Group) (i : Nat) (e : Entry) (fwd : Bool) : Bool :=
  (4 ≤ e.relScope && s.windowsOut g.core) || s.heldBy g e fwd [] (g.obq.take i)

/-- An atomic or SC. -/
def EKind.swaps : EKind → Bool
  | .atom .. | .sc => true
  | _ => false

/-- The bytes a load takes from earlier stores still queued, the youngest for each byte; none where one is missing (08 R172), or where a younger
atomic or SC on the byte is queued, which the load then waits for (DESIGN CHOICE, log 99). -/
def forwardBytes (before : List Entry) (e : Entry) : Option (List Byte) :=
  match e.kind, e.loc with
  | .load, .mem pa _ =>
    (List.range e.n).mapM fun k =>
      match before.reverse.find? fun j => (j.kind == .store || j.kind.swaps) && j.stage == .queued && j.overlaps { e with loc := .mem (pa + k) 0, n := 1 } with
      | some j => match j.kind, j.loc with
        | .store, .mem x _ => some (.ofNat 8 (j.data / 2 ^ (8 * (pa + k - x))))
        | _, _ => none
      | none => none
  | _, _ => none

/-! ### Applying accesses -/

/-- new(old, x) of R189 on n bytes. -/
def atomNew (op : Nat) (sgn : Bool) (n old x e : Nat) : Nat :=
  let t : ITy := if n = 8 then (if sgn then .i64 else .n64) else (if sgn then .i32 else .n32)
  let a := BitVec.ofNat 64 old
  let b := BitVec.ofNat 64 x
  match op with
  | 0 => (fnAdd t a b).toNat
  | 1 => (fnMin t a b).toNat
  | 2 => (fnMax t a b).toNat
  | 3 => (fnAnd t a b).toNat
  | 4 => (fnOr t a b).toNat
  | 5 => (fnXor t a b).toNat
  | 6 => x % 2 ^ (8 * n)
  | 7 => if old = e then x % 2 ^ (8 * n) else old
  | _ => (fnFadd (if n = 8 then .fp64 else .fp32) .rn false old (x % 2 ^ (8 * n))).1

/-- What an access does to n bytes that hold `old`: its value, and the bytes written. `ok` is whether the lane's
reservation holds, for SC. -/
def accEffect (k : EKind) (n old data : Nat) (ok : Bool) : Nat × Option Nat :=
  match k with
  | .store => (0, some data)
  | .atom op sgn e => (old, if op = 7 && old != e then none else some (atomNew op sgn n old data e))
  | .sc => if ok then (1, some data) else (0, none)
  | _ => (old, none)

/-- A lane's reservation on the block of a location at a holding point. -/
def State.hasResv (s : State) (core g lane : Nat) (l : Loc) : Bool :=
  (s.core core).resv.any fun r => r.grp == g && r.lane == lane && r.blk.inBlock l 1

/-- Sets a lane's reservation; beyond 512 the oldest goes (08 R191). The reservation that the lane held ends here, and of two LRs of a lane that are
performed out of program order the one performed last stands (DESIGN CHOICE, log 98). In private memory the block is the 16 physical bytes that hold
the access's first (DESIGN CHOICE, log 98). -/
def State.setResv (s : State) (core g lane : Nat) (l : Loc) (hp : Nat) : State :=
  let c := s.core core
  let va := ((s.grp? g).bind fun x => x.obq.find? fun e =>
    e.kind == .lr && e.lane == lane && e.stage != .done && e.loc.blk.same l.blk).map (·.va.toNat / 16 * 16)
  let keep := (c.resv.filter fun r => !(r.grp == g && r.lane == lane)) ++ va.toList.map fun v => ⟨g, lane, l.blk, hp, v⟩
  s.setCore core { c with resv := keep.drop (keep.length - 512) }

/-- Ends a lane's reservation. -/
def State.endResv (s : State) (core g lane : Nat) : State :=
  let c := s.core core
  s.setCore core { c with resv := c.resv.filter fun r => !(r.grp == g && r.lane == lane) }

/-- Reservations after an access by (g, lane) of core `cr` at holding point hp that wrote or not. -/
def State.resvAfter (s : State) (k : EKind) (wrote : Bool) (l : Loc) (n hp cr g lane : Nat) : State :=
  let s := if wrote then s.killResv l n hp cr g lane (k == .sc) else s
  match k with
  | .lr => s.setResv cr g lane l hp
  | .sc => s.endResv cr g lane
  | _ => s

/-- An access at a scratchpad bank (06 R130, R131): in range by then. -/
def State.applyPad (s : State) (k : EKind) (team off n data cr g lane : Nat) : Nat × State :=
  let old := s.padRead team off n
  let (v, w) := accEffect k n old data (s.hasResv cr g lane (.pad team off))
  let s := match w with
    | some x => s.padWrite team off n x
    | none => s
  (v, s.resvAfter k w.isSome (.pad team off) n 0 cr g lane)

/-- An access at the core's L1, whose line holds the bytes or is stored to. -/
def State.applyL1 (s : State) (k : EKind) (pa cls : Nat) (own : Option (Nat × Nat)) (n data cr g lane : Nat) : Nat × State :=
  let old := (s.l1Get? cr pa n).getD 0
  let (v, w) := accEffect k n old data (s.hasResv cr g lane (.mem pa cls))
  let s := match w with
    | some x => s.l1Write cr cls own (s.whoIs g) (pieceCells pa n x)
    | none => s
  (v, s.resvAfter k w.isSome (.mem pa cls) n 1 cr g lane)

/-! ### Touches and queries at a spiral (07 R151, R157, R162-R164) -/

/-- A tile is pinned while any pin table names it (07 R157). -/
def State.pinned (s : State) (tile : Nat) : Bool := s.cores.toList.any fun c => c.pins.any (·.1 == tile)
/-- A tile of a spiral is pinned where it is the home tile: a copy never is (07 R157, R159). -/
def State.pinnedTile (s : State) (x : Tile) : Bool := !x.copy && s.pinned x.addr

/-- The access promotes its tile: not `.far`, not a range operation's step or a query, not a stack core's (07 R151). -/
def Req.touches (r : Req) : Bool := !r.far && !(3000 ≤ r.src && r.src < 4000) && (match r.kind with
  | .range .. | .query _ => false
  | _ => true)

/-- The promotion request that a touch makes in the cycle it is applied (07 R156, R157). -/
def State.touch (s : State) (q : Nat) (r : Req) (pa : Nat) : State :=
  if !r.touches || (q == homeQuad pa && s.pinned (tileOf pa)) then s
  else
    let qd := s.quad q
    let t := (s.die (q / 4)).cycle
    s.setQuad q { qd with promos := qd.promos ++ [⟨whoAt q r.src, tileOf pa, q != homeQuad pa, t⟩] }

/-- A touch of a tile not held inserts it, clean, with the controller's bytes (07 R150, R151); none of a unit in fill state, which the
tier serves (14 R336). -/
def State.insertIfTouched (s : State) (q : Nat) (r : Req) (pa : Nat) : State :=
  if !r.touches || !canHold pa || (s.homeTile? pa).isSome || s.filling pa then s
  else
    let qd := s.quad q
    let bytes := (List.range 1024).map fun i => s.ctlByte (tileOf pa + i)
    s.setQuad q { qd with tiles := qd.tiles ++ [newTile (tileOf pa) false bytes] }

/-- A tile's request at the front, where it may promote; `who` is the requester. -/
def State.ask (s : State) (q who tile : Nat) : State :=
  let qd := s.quad q
  s.setQuad q { qd with promos := qd.promos ++ [⟨who, tile, false, (s.die (q / 4)).cycle⟩] }

/-- SPDIST's report on a tile that a spiral can hold, for a core of a die (07 R162). -/
def State.spTile (s : State) (core pa : Nat) : Nat :=
  let t := s.homeTile? pa
  let pos := (t.bind (·.pos)).getD 0xFFFF
  let copy := ((s.quad (quadOfCore core)).copy? pa).isSome
  pos + 2 ^ 16 * (t.isSome && s.pinned (tileOf pa)).toNat + 2 ^ 17 * (homeDie pa != dieOfCore core).toNat + 2 ^ 18 * copy.toNat

/-- SPPIN at the tile, for a group of a core (07 R163): whether it holds the tile now. A tile not held asks to be inserted. -/
def State.pinTile (s : State) (core gid pa : Nat) : Bool × State :=
  let c := s.core core
  let t := tileOf pa
  if c.pins.contains (t, gid) then (true, s)
  else if 4 ≤ c.pins.length then (false, s)
  else
    let s := s.setCore core { c with pins := c.pins ++ [(t, gid)] }
    let q := homeQuad pa
    (true, if ((s.quad q).tile? t).isSome then s else s.ask q (whoAt q core) t)

/-- SPUNPIN at the tile. -/
def State.unpinTile (s : State) (core gid pa : Nat) : State :=
  let c := s.core core
  s.setCore core { c with pins := c.pins.filter fun p => !(p.1 == tileOf pa && p.2 == gid) }

/-- A query has reached its tile, or its home where the tile is not held: its answer (07 R162, R163). A group that has ended pins nothing. -/
def State.answer (s : State) (q : Query) (core gid pa : Nat) : Nat × State :=
  match q with
  | .dist => (s.spTile core pa, s)
  | .pin => if ((s.grp? gid).map (·.res)) == some Res.resident then let (b, s) := s.pinTile core gid pa; (b.toNat, s) else (0, s)
  | .unpin => (0, s.unpinTile core gid pa)
  | .pull _ => (0, s)

/-! ### Error records (15 R346) -/

def State.errorRec (s : State) (pa : Nat) (grid : W64) (ctx src die cause : Nat) : State :=
  { s with md := { s.md with recs := s.md.recs ++ [⟨false,
      [.ofNat 64 (cause + 2 ^ 34 * die + 2 ^ 36 * src + 2 ^ 48 * ctx), 0, grid, .ofNat 64 pa]⟩] } }

/-! ### Copies that a home takes back within its own step (07 R152, R165) -/

/-- Bytes that a holder of die d held dirty are applied at their home point within a step: reservations there end, the host gives up the
lines, and the home learns what the bytes' die knows (08 R174, R193, 15 R342). The home itself takes them, in its own step: they are not sent, so no
count of R174 names them, and they touch nothing (DEDUCED, log 95). -/
def State.backNow (s : State) (d : Nat) (who : Who) (cells : List Host.Cell) : State :=
  match cells with
  | [] => s
  | c :: _ =>
    let h := homeDie c.1
    if s.peerDown c.1 then s.errorRec c.1 who.1 who.2 0 d 3
    else
    let s := cells.foldl (fun s c => s.killResv (.mem c.1 0) 1 0 0 0 128 true) (s.homeWrite cells)
    if 4 ≤ h then s
    else
      let x := s.die h
      s.setDie h { x with hostLines := x.hostLines.filter fun a => !cells.any fun c => lineOf c.1 == a,
                          dep := if h = d then x.dep else depMerge x.dep (s.die d).dep h }

/-- Write-backs of n bytes from `a` on that are still under way are applied now, each source's in order, and arrive later without those bytes. -/
def State.pullBacks (s : State) (a n : Nat) : State :=
  let inside (c : Host.Cell) : Bool := a ≤ c.1 && c.1 < a + n
  let found (rs : List Req) : List Req := rs.filter fun r => r.isBack && r.cells.any inside
  let rs := s.quads.toList.flatMap (fun q => found (q.accs.map (·.req))) ++ s.dies.toList.flatMap (fun d => found d.snoop) ++
    s.dies.toList.flatMap (fun d => d.applyq.toList.flatMap found) ++ found s.net
  if rs.isEmpty then s
  else
    let s := rs.foldl (fun s r => s.backNow r.srcDie r.who (r.cells.filter inside)) s
    let cut (r : Req) : Req := if r.isBack then { r with cells := r.cells.filter fun c => !inside c } else r
    { s with
      net := s.net.map cut,
      dies := vmap (fun (d : Die) => { d with snoop := d.snoop.map cut, applyq := vmap (·.map cut) d.applyq }) s.dies,
      quads := vmap (fun (q : Quad) => { q with accs := q.accs.map fun x => { x with req := cut x.req } }) s.quads }

/-- The dirty bytes of n bytes from `a` on that copies and L1 lines hold are applied at their home, older write-backs first. Of one byte that
several hold dirty, the L1s' wins over a copy's, and that of the core with the highest number among them (DESIGN CHOICE, log 90). `cores` and
`quads` name the holders. -/
def State.collect (s : State) (cores quads : Nat → Bool) (a n : Nat) : State :=
  let inside (x : Nat) : Bool := a ≤ x && x < a + n
  let s := s.pullBacks a n
  let copies (q : Nat) : List (Who × List Host.Cell) :=
    if quads q then ((s.quad q).tiles.filter (·.copy)).map fun t => (t.who, t.dirtyCells.filter fun c => inside c.1) else []
  let lines (c : Nat) : List (Who × List Host.Cell) :=
    if cores c then (s.core c).l1.map fun (l : Line) => (l.who, l.dirtyCells.filter fun c => inside c.1) else []
  let s := (List.range 16).foldl (fun s q => (copies q).foldl (fun s x => s.backNow (q / 4) x.1 x.2) s) s
  let s := (List.range 192).foldl (fun s c => (lines c).foldl (fun s x => s.backNow (dieOfCore c) x.1 x.2) s) s
  { s with
    quads := Vector.ofFn fun i : Fin 16 =>
      let q := s.quads[i]
      if quads i.val && q.tiles.any (fun t => t.copy && t.dirty.any inside) then
        { q with tiles := q.tiles.map fun (t : Tile) => if t.copy then { t with dirty := t.dirty.filter fun x => !inside x } else t }
      else q,
    cores := Vector.ofFn fun i : Fin 192 =>
      let c := s.cores[i]
      if cores i.val then { c with l1 := c.l1.map fun (l : Line) => { l with dirty := l.dirty.filter fun x => !inside x } } else c }

/-- Every L1 line and every copy that overlaps n bytes from `a` on is dropped, of the holders named, with the reservations they held; fills
under way bring none. -/
def State.dropAll (s : State) (cores quads : Nat → Bool) (a n : Nat) : State :=
  let line (l : Line) : Bool := l.addr < a + n && a < l.addr + 128
  let copy (t : Tile) : Bool := t.copy && t.addr < a + n && a < t.addr + 1024
  let gone := (List.range 16).flatMap fun q => if quads q then ((s.quad q).tiles.filter copy).map fun t => (q, t.addr) else []
  let s := gone.foldl (fun s x => s.endCopyResv x.1 x.2) s
  let s := { s with
    cores := Vector.ofFn fun i : Fin 192 =>
      let c := s.cores[i]
      if cores i.val then (c.l1.filter line).foldl (fun (c : Core) (l : Line) => c.dropLine l.addr) c else c,
    quads := Vector.ofFn fun i : Fin 16 =>
      let q := s.quads[i]
      if quads i.val && q.tiles.any copy then { q with tiles := q.tiles.filter fun t => !copy t } else q }
  s.cancelFills (fun c => cores c || quads (quadOfCore c)) a n

/-! ### Range steps (07 R165, R381) -/

/-- One tile treated at its home, in one step: 0 SPCLEAN, 1 SPINV, 2 SPFLUSH. Dirty bytes of the L1 lines and of copies go to the home point,
those of the home tile to the memory controller. -/
def State.rangeTile (s : State) (op tile : Nat) : State :=
  let all (_ : Nat) : Bool := true
  let s := if op = 1 then s else s.collect all all tile 1024
  let s := if op = 0 then s
    else
      let s := s.dropAll all all tile 1024
      { s with cores := vmap (fun (c : Core) => { c with resv := c.resv.filter fun r => !r.blk.inBlock (.mem tile 0) 1024,
                                                         pins := c.pins.filter (·.1 != tile) }) s.cores }
  match s.homeTile? tile with
  | none => s
  | some t =>
    let h := homeQuad tile
    let s := if op = 1 then s else s.ctlWrite t.dirtyCells
    let qd := s.quad h
    if op = 0 then s.setQuad h (qd.setTile { t with dirty := [] })
    else s.setQuad h { qd with tiles := qd.tiles.filter (·.addr != tile) }

/-! ### Home application (08 R173, R174) -/

/-- The group that a request serves, its core, and the lane. -/
def State.laneOf (s : State) (r : Req) : Nat × Nat :=
  match (s.grp? r.grp).bind (·.ent? r.ent) with
  | some e => (r.src, e.lane)
  | none => (r.src, 128)

/-- An access applied at its home point, or at the copy that its quadrant holds: its value and the state. -/
def State.applyAt (s : State) (q : Nat) (r : Req) : Nat × State :=
  match r.loc, r.kind with
  | _, .range op tiles => (0, tiles.foldl (fun s t => s.rangeTile op t) s)
  | .mem pa _, .query k => s.answer k r.src r.grp pa
  | .mem pa cls, k =>
    if r.toCopy then
      match (s.quad q).copy? pa with
      | none => (0, s)
      | some t =>
        if r.isBack then
          let s := s.setQuad q ((s.quad q).setTile ((t.write r.cells).signed r.who))
          (0, (r.cells.foldl (fun s c => s.killResv (.mem c.1 0) 1 2 r.src 0 128 true) s).touch q r pa)
        else if r.fill = 4 then (leGet t.byte (lineOf pa) 128, s.touch q r pa)
        else
          let (cr, lane) := s.laneOf r
          let (v, w) := accEffect k r.n (leGet t.byte pa r.n) r.data (s.hasResv cr r.grp lane (.mem pa cls))
          let s := match w with
            | some x => s.setQuad q ((s.quad q).setTile ((t.write (leCells pa r.n x)).signed (s.whoIs r.grp)))
            | none => s
          (v, (s.touch q r pa).resvAfter k w.isSome (.mem pa cls) r.n 2 cr r.grp lane)
    else
      let s := s.insertIfTouched q r pa
      let held (s : State) : State := if canHold pa then s.touch q r pa else s
      if r.fill = 1 then (s.homeRead (lineOf pa) 128, held s)
      else if r.fill = 2 then
        let v := s.homeRead (tileOf pa) 1024
        let s := match s.homeTile? pa with
          | some t => let sq := quadOfCore r.src
                      s.setQuad q ((s.quad q).setTile { t with sharers := if t.sharers.contains sq then t.sharers else t.sharers ++ [sq] })
          | none => s
        (v, held s)
      else if r.isBack || !r.cells.isEmpty then
        let s := r.cells.foldl (fun s c => s.killResv (.mem c.1 0) 1 0 0 0 128 true) (s.homeWrite r.cells)
        (0, held s)
      else
        let (cr, lane) := s.laneOf r
        let old := s.homeRead pa r.n
        let (v, w) := accEffect k r.n old r.data (s.hasResv cr r.grp lane (.mem pa cls))
        let s := match w with
          | some x => s.homeWrite (leCells pa r.n x)
          | none => s
        (v, (held s).resvAfter k w.isSome (.mem pa cls) r.n 0 cr r.grp lane)
  | _, _ => (0, s)

end Sys2Proof.Machine
end

