-- ==== Sys2Proof/Machine/Queue.lean ====
section
/-! DEFINITION. Queue.lean: the events of the abstract machine: entries leave, requests arrive and are applied, replies
merge, lines are written back, outside writes enter, interlocked results commit (08 R171-R177, R183, 02 R37, 15 R342). -/

namespace Sys2Proof.Machine

open Sys2Proof

/-! ### Committing interlocked results (02 R37, R38) -/

def szBytes (sz : Nat) : Nat :=
  match sz with
  | 0 | 1 => 1 | 2 | 3 => 2 | 4 => 4 | 5 => 8 | _ => 16

/-- A loaded value in its registers' 128 bits: narrow types extended to 32 bits, or to 64 for a scalar (06 R137, R140). -/
def extLoad (sz w v : Nat) : Nat :=
  match sz with
  | 1 => if 2 ^ 7 ≤ v % 2 ^ 8 then v % 2 ^ 8 + 2 ^ w - 2 ^ 8 else v % 2 ^ 8
  | 3 => if 2 ^ 15 ≤ v % 2 ^ 16 then v % 2 ^ 16 + 2 ^ w - 2 ^ 16 else v % 2 ^ 16
  | _ => v % 2 ^ (8 * szBytes sz)

/-- The value of an access made in pieces, lowest address first. -/
def joinPieces : List Entry → Nat
  | [] => 0
  | e :: es => e.val + 2 ^ (8 * e.n) * joinPieces es

/-- The writes of a result once its entries have their values. -/
def Group.settle (g : Group) (need : List Nat) (w : Wr) : List Wr :=
  let es := need.filterMap g.ent?
  let lanes := maskOf fun l => es.any (·.lane == l)
  let laneVal (l : Nat) : Nat := joinPieces (es.filter (·.lane == l))
  let one := joinPieces es
  match w with
  | .ld d sz =>
    let v := mkLanes fun l => if lanes.getLsbD l then extLoad sz 32 (laneVal l) else 0
    (List.range (szRegs sz)).map fun k => .vlanes (d + k) lanes (mkLanes fun l => .ofNat 32 (nth v l / 2 ^ (32 * k)))
  | .ldu d sz true => [.sset d (.ofNat 64 (extLoad sz 64 one))]
  | .ldu d sz false => (List.range (szRegs sz)).map fun k => .vset (d + k) (.uni (.ofNat 32 (extLoad sz 32 one / 2 ^ (32 * k))))
  | .pbits d => [.pset d lanes (maskOf fun l => lanes.getLsbD l && laneVal l != 0)]
  | .pall d m => [.pset d m (if one = 0 then 0 else m)]
  | .sval d n => (List.range n).map fun k => .sset (d + k) (.ofNat 64 (one / 2 ^ (64 * k)))
  | .vbig d m => [.vlanes d m (mkLanes fun l => .ofNat 32 (one / 2 ^ (32 * l)))]
  | w => [w]

/-- Every entry a result needs has its value: one no longer listed had. -/
def Group.ready (g : Group) (p : Pend) : Bool := p.need.all fun u => match g.ent? u with
  | some e => e.stage == .done
  | none => true

/-- Drops entries that nothing waits for any longer: performed at `.dev`, actions done, value taken. -/
def State.prune (s : State) (gid : Nat) : State :=
  s.modGrp gid fun g => { g with obq := g.obq.filter fun e =>
    !(e.stage == .done && e.acqOk && s.performedAt g e 4) || g.pend.any (·.need.contains e.uid) }

/-- Spans that a list of writes touches. -/
def Wr.spans : Wr → List Span
  | .vset d _ | .vlanes d _ _ | .vbig d _ => [.v d]
  | .sset d _ => [.s d]
  | .pset d _ _ | .pbits d | .pall d _ => [.p d]
  | .hset d _ => [.h d]
  | .fpf _ => []
  | .ld d sz | .ldu d sz false => [.v d (szRegs sz)]
  | .ldu d _ true => [.s d]
  | .sval d n => [.s d n]

/-- RESULT_COMMIT: result i of a group, interlocked, with its values at hand, and after earlier results on its registers. -/
def execResultCommit (gid i : Nat) (s : State) : Out :=
  match s.grp? gid with
  | none => .next s
  | some g0 =>
    let g := g0.flush (s.now g0)
    if g0.res == .saved then .next s
    else match g.pend[i]? with
    | none => .next (s.setGrp g)
    | some p =>
      let early := (g.pend.take i).any fun q => q.touches (p.wrs.flatMap Wr.spans)
      if p.due.isSome || !g.ready p || early then .next (s.setGrp g)
      else
        let g := { g.commitAll (p.wrs.flatMap (g.settle p.need)) with pend := g.pend.eraseIdx i }
        .next ((s.setGrp g).prune gid)

/-! ### Ownership (08 R176) -/

/-- A destination line or granule that an engine has not written yet overlaps n bytes at a location; request `mine` excepted. -/
def State.owned (s : State) (l : Loc) (n mine : Nat) : Bool :=
  (s.engines.toList.any fun e => e.table.any fun r => r.uid != mine && r.own.any fun x => match x.2.2, l with
    | .mem a _, .mem b _ => b < lineOf a + 128 && lineOf a < b + n
    | .pad t a, .pad u b => t == u && b < a + 16 && a < b + n
    | _, _ => false) ||
  s.copyEngs.toList.any fun c => c.jobs.any fun j => j.uid != mine && j.lines.any fun (x : DLine) =>
    match x.loc, l with
    | .mem a _, .mem b _ => b < lineOf a + 128 && lineOf a < b + n
    | .pad t a, .pad u b => t == u && b < a / 16 * 16 + 16 && a / 16 * 16 < b + n
    | _, _ => false

/-- The bytes that a request reads or writes: a fill's whole line, or tile. -/
def Req.extent (r : Req) : Loc × Nat :=
  match r.loc with
  | .mem pa cls => if r.fill = 2 then (.mem (tileOf pa) cls, 1024) else if r.fill = 1 then (.mem (lineOf pa) cls, 128) else (r.loc, r.n)
  | l => (l, r.n)

/-- An engine owns some of a request's bytes: the request waits for it (08 R176). A query reads none, and a range operation's step is not held. -/
def State.ownedReq (s : State) (r : Req) : Bool :=
  match r.kind with
  | .query _ | .range .. => false
  | _ => s.owned r.extent.1 r.extent.2 r.ent

/-! ### After application -/

/-- A destination line of a copy engine's job has been applied and leaves ownership (08 R176). -/
def State.jobLineDone (s : State) (cpe uid : Nat) (l : Loc) : State :=
  let c := s.cpe cpe
  s.setCpe cpe { c with jobs := c.jobs.map fun (j : Job) =>
    if j.uid = uid then { j with lines := j.lines.filter fun (x : DLine) => !(x.sent && x.loc.same l) } else j }

/-- The context and virtual line address that a window line keeps (14 R339). -/
def State.ownOf (s : State) (g : Group) (va : W64) (cls : Nat) : Option (Nat × Nat) :=
  if cls = 4 then some (s.grpCtx g, lineOf va.toNat) else none

/-- The request that an entry sends to its home point, or to the holding point that a fill serves. -/
def entryReq (g : Group) (e : Entry) (pa cls uid fill : Nat) (write : Bool) : Req :=
  { blankReq with uid, src := g.core, srcDie := g.die, home := homeDie pa, grp := g.id, ent := e.uid,
                  kind := if fill = 1 ∨ fill = 2 ∨ fill = 4 then .load else e.kind, loc := .mem pa cls, n := e.n, data := e.data, write,
                  far := e.far, fill }

/-- An access stands in its queue again. -/
def State.requeue (s : State) (gid uid : Nat) : State := s.modGrp gid fun g => g.modEnt uid fun e => { e with stage := .queued }

/-- The first piece of an access that the L1 does not hold whole. -/
def State.lacks (s : State) (core pa n : Nat) : Option Nat :=
  ((pieces pa n).find? fun p => !((List.range p.2).all fun i => (s.l1Byte? core (p.1 + i)).isSome)).map (·.1)

/-- A private access of a lane that has exited: its bytes have lost their meaning (06 R129). -/
def Group.lostPriv (g : Group) (e : Entry) (pa : Nat) : Bool :=
  tierOf pa == .priv && e.lane < 128 && (nth g.lanes e.lane).isExited

/-- Bytes of a copy or of a home's line have come for an entry: the line is filled, and the access is made in the L1 once every piece is
there; another piece is asked for under a fresh request, which `more` sends. PF's request ends with the line. -/
def State.lineCame (s : State) (g : Group) (e : Entry) (pa cls v : Nat) (more : State → Nat → State) : State :=
  let own := s.ownOf g e.va cls
  if g.lostPriv e pa then s.perform g.id e.uid 0
  else
  let s := s.l1Fill g.core cls own (lineOf pa) v
  if e.kind == .pf then s.perform g.id e.uid 0
  else match e.loc with
  | .mem a _ =>
    match s.lacks g.core a e.n with
    | some x => more s x
    | none =>
      let (x, s) := s.applyL1 e.kind a cls own e.n e.data g.core g.id e.lane
      s.perform g.id e.uid x
  | _ => s

/-- A home fill of a missing piece: the entry waits for it. -/
def State.askHome (s : State) (g : Group) (e : Entry) (pa cls fill : Nat) : State :=
  let (u, s) := s.fresh
  let s := s.modGrp g.id fun g => g.modEnt e.uid fun e => { e with stage := .filling, val := u }
  s.send (entryReq g e pa cls u fill false)

/-- The value of an applied request reaches its entry: a fill that nothing overtook brings the line, or the copy and the line, and the access
follows. -/
def State.deliver (s : State) (r : Req) (v : Nat) : State :=
  match s.grp? r.grp with
  | none => s
  | some g => match g.ent? r.ent with
    | none => s
    | some e =>
      match r.loc, r.kind with
      | _, .range _ ts =>
        match e.kind with
        | .range op us =>
          let left := us.filter fun t => !ts.contains t
          if left.isEmpty then s.perform r.grp r.ent 0
          else s.modGrp r.grp fun g => g.modEnt r.ent fun e => { e with kind := .range op left }
        | _ => s
      | .mem pa cls, _ =>
        if r.fill = 0 || r.fill = 3 then s.perform r.grp r.ent v
        else if !(e.stage == .filling && e.val == r.uid) then s
        else
          let more (s : State) (x : Nat) : State := s.askHome g e x cls 1
          if r.fill = 2 && s.mayCopy g e.va cls then
            let q := quadOfCore r.src
            let qd := s.quad q
            let s := if (qd.copy? pa).isSome then s
              else s.setQuad q { qd with tiles := qd.tiles ++
                [{ newTile (tileOf pa) true ((List.range 1024).map fun i => .ofNat 8 (v / 2 ^ (8 * i))) with cls }] }
            (s.touch q r pa).lineCame g e pa cls (v / 2 ^ (8 * (lineOf pa - tileOf pa))) more
          else s.lineCame g e pa cls (if r.fill = 2 then v / 2 ^ (8 * (lineOf pa - tileOf pa)) else v) more
      | _, _ => s.perform r.grp r.ent v

/-- The host holds the lines that it has read, of memory whose lines its snoop filter tracks; the tier's change as fills write it (14 R336, 15
R342). -/
def State.hostHolds (s : State) (r : Req) : State :=
  let d := s.die r.home
  match tierOf r.pa with
  | .hbm _ | .swm _ | .lp =>
    s.setDie r.home { d with hostLines := (List.range (r.n / 128 + 2)).foldl (fun ls i =>
      let a := lineOf (r.pa + 128 * i)
      if ls.contains a || r.pa + r.n ≤ a then ls else ls ++ [a]) d.hostLines }
  | _ => s

/-- Whether a die answers for its homes (15 R349, R350). -/
def State.dieDown (s : State) (d : Nat) : Bool := decide (d < 4) && ((s.die d).phase == .flush || (s.die d).phase == .reset)

/-- Bookkeeping of an application: counts and tables for a remote write, C[ext] for an outside one, an engine's line; then
the reply, or for a near home the delivery (08 R174, R175). -/
def State.applied (s : State) (r : Req) (v : Nat) : State :=
  let s := if 1000 ≤ r.src && r.src < 1032 then s.jobLineDone (r.src - 1000) r.ent r.loc else s
  if r.src = 4016 && !r.write then s.hostHolds r
  else if r.home < 4 && 4000 ≤ r.src && r.src < 5000 then
    if !r.write then s
    else
    let d := s.die r.home
    s.setDie r.home { d with dep := depSet d.dep 4 r.home (depAt d.dep 4 r.home + 1) }
  else if r.home = r.srcDie ∨ 4 ≤ r.home ∨ r.toCopy then s.deliver r v
  else
    let d := s.die r.home
    let n := if s.dieDown r.home then depAt d.dep r.srcDie r.home + 1 else r.stamp[r.srcDie]?.getD 0
    let dep := if r.write then depMerge (depSet d.dep r.srcDie r.home n) r.table r.home else d.dep
    let s := s.setDie r.home { d with dep }
    let s := s.modGrp r.grp fun g => g.modEnt r.ent fun e => if e.stage == .taken then { e with stage := .applied } else e
    { s with replies := s.replies ++ [⟨r, v, dep⟩] }

/-- Applies a request at quadrant q and does the rest; one for a copy that is no longer held stands in its queue again, and a write-back of a line
then goes to the home. -/
def State.applyNow (s : State) (q : Nat) (r : Req) : State :=
  let gone := r.toCopy && (match r.loc with
    | .mem pa _ => ((s.quad q).copy? pa).isNone
    | _ => false)
  if gone then (if r.isBack then s.send { r with fill := 0 } else s.requeue r.grp r.ent)
  else
    let (v, s) := s.applyAt q r
    s.applied r v

/-- The quadrant a request goes to: the copying core's own, or the home quadrant. -/
def Req.quad (r : Req) : Nat :=
  if r.toCopy then quadOfCore r.src
  else match r.loc with
    | .mem pa _ => homeQuad pa
    | _ => 0

/-- A request would reach a stopped controller; SPCLEAN and SPFLUSH write a held tile's bytes to it too (13 R309). -/
def State.atRepair (s : State) (r : Req) : Bool :=
  s.repairing r.pa || (match r.kind with
    | .range op _ => op != 1 && s.stopped r.pa
    | _ => false)

/-- The lines that a write changes. -/
def Req.lines (r : Req) : List Nat := if r.isBack then (r.cells.map fun c => lineOf c.1).eraseDups else [lineOf r.pa]

/-- An access could not overtake one applied to the tile in this cycle with a better place in front order (07 R155). -/
def State.outranked (s : State) (r : Req) : Bool :=
  match (s.quad r.quad).tile? (tileOf r.pa) with
  | none => false
  | some t =>
    let now := (s.die (r.quad / 4)).cycle
    t.apC == now && (s.quad r.quad).rank (whoAt r.quad r.src) now < t.apR

/-- A write from inside the module to a line that the host holds waits for BISnp (15 R342). -/
def State.snooped (s : State) (r : Req) : Bool :=
  r.home < 4 && !r.toCopy && r.write && !(4000 ≤ r.src && r.src < 5000) && r.lines.any (s.die r.home).hostLines.contains

def State.toSnoop (s : State) (r : Req) : State :=
  let d := s.die r.home
  s.setDie r.home { d with snoop := d.snoop ++ [r] }

/-- Something accepted at a quadrant's spiral for the tile is not yet applied. -/
def Quad.busyAt (q : Quad) (tile : Nat) : Bool := (q.accs.any fun a => tileOf a.req.pa == tile) || q.pulls.any fun p => tileOf p.req.pa == tile

/-- A request reaches its home: a held tile accepts it at its spiral; otherwise it is applied at the memory controller, once those accepted before it
are (07 R154, R155). A pull of a tile that is not held has no effect (07 R164). -/
def State.arrive (s : State) (r : Req) : State :=
  if 4 ≤ r.home && !r.toCopy then s.applyNow 0 r
  else if s.snooped r then s.toSnoop r
  else
    let q := r.quad
    let qd := s.quad q
    if (qd.tile? (tileOf r.pa)).isSome || qd.busyAt (tileOf r.pa) || s.acceptCycle q != (s.die (q / 4)).cycle then s.atSpiral q r
    else s.applyNow q r

/-! ### QUEUE_LEAVE (08 R171, R172) -/

def State.sendEntry (s : State) (g : Group) (e : Entry) (pa cls fill : Nat) (write : Bool) : State :=
  let (u, s) := s.fresh
  let s := s.modGrp g.id fun g => g.modEnt e.uid fun e => { e with stage := .left }
  s.send (entryReq g e pa cls u fill write)

/-- The ports of a die count a write that they drop, per source: dies 0 to 3, and 4 for the host and peers (15 R350). -/
def State.countDrop (s : State) (home src : Nat) : State :=
  let d := s.die home
  s.setDie home { d with drops := d.drops.set src ((d.drops[src]?).getD 0 + 1) }

/-- A write that the ports of its home drop counts as one that its die sent, so that the re-admitted home counts it as applied (15 R350, R351). -/
def State.dropSent (s : State) (die home : Nat) : State :=
  if home = die then s
  else
    let d := s.die die
    (s.setDie die { d with dep := depSet d.dep die home (depAt d.dep die home + 1) }).countDrop home die

/-- A store to a home in warm reset is dropped with an error record (06 R147, 15 R350). -/
def State.dropStore (s : State) (g : Group) (e : Entry) (pa cause : Nat) : State :=
  let src := if g.res == .draining then 1 else 0
  ((s.dropSent g.die (homeDie pa)).errorRec pa (s.gridId g) (s.grpCtx g) src g.die cause).perform g.id e.uid 0

/-- A write of a result whose value an outbound-queue entry gives. -/
def Wr.loaded : Wr → Bool
  | .ld .. | .ldu .. | .pbits _ | .pall .. | .sval .. | .vbig .. => true
  | _ => false

/-- An access that has left and does not complete: its lane, or all the lanes that complete together, stand at the instruction again, out of DONEM,
without their results, and the group takes a trap, once for the instruction (06 R140, R146, R147, 14 R340; log 105). -/
def State.failEntry (s : State) (gid : Nat) (e : Entry) (cause : Nat) : State :=
  let back : Mask := if e.lane < 128 && !e.whole then BitVec.twoPow 128 e.lane else e.mask
  let fails (x : Entry) : Bool := x.uid == e.uid || (e.whole && x.inst == e.inst)
  let lost : List Nat := (((s.grp? gid).map fun g => (g.obq.filter fails).map (·.uid)).getD []) ++ [e.uid]
  let cut (p : Pend) : Pend :=
    let need := p.need.filter (!lost.contains ·)
    if need == p.need then p else { p with need, wrs := if need.isEmpty then p.wrs.filter (!·.loaded) else p.wrs }
  match s.grp? gid with
  | none => s
  | some g =>
    let at' (l : Nat) : Bool := back.getLsbD l && !(nth g.lanes l).isExited && g.res != Res.draining
    let s := s.setGrp { g with
      obq := g.obq.filter (!fails ·), pend := g.pend.map cut, donem := g.donem &&& ~~~(maskOf at'),
      pcv := mkLanes fun l => if at' l then e.pc else nth g.pcv l }
    if g.res == .draining || g.trapsFor cause e.pc then s
    else s.raiseTrap gid { cause, pc := e.pc, code := 0, lane := 0xFF, lanes := e.mask, va := e.va, after := false, size := 8,
                           delivered := false, seq := none }

/-- Stores and range operations: complete for their lanes once they have left. -/
def EKind.posted : EKind → Bool
  | .store | .range .. => true
  | _ => false

/-- An access counter of a 2 MiB region: 16 bits, saturating (14 R333). -/
def bumpRegion (l : List (Nat × Nat)) (region : Nat) : List (Nat × Nat) :=
  if l.any (·.1 == region) then l.map fun x => if x.1 = region then (region, min 65535 (x.2 + 1)) else x else l ++ [(region, 1)]

def regionOf (pa : Nat) : Nat := pa / 2 ^ 21 * 2 ^ 21

/-- A counter that has reached the threshold makes a notice and returns to 0 (14 R333). `host`: of the host's accesses to device memory. -/
def State.noticeAt (s : State) (die : Nat) (host : Bool) (region : Nat) : State :=
  let d := s.die die
  let thr := s.md.acthr.toNat % 65536
  let l := if host then d.accDev else d.accHost
  match l.find? (·.1 == region) with
  | none => s
  | some (_, n) =>
    if thr = 0 || n < thr then s
    else
      let l := l.map fun x => if x.1 = region then (region, 0) else x
      let s := s.setDie die (if host then { d with accDev := l } else { d with accHost := l })
      { s with md := { s.md with recs := s.md.recs ++ [⟨true, [.ofNat 64 (host.toNat + 2 ^ 16 * thr), .ofNat 64 region]⟩] } }

/-- One more access to a region, with the notice that it may bring. -/
def State.countRegion (s : State) (die : Nat) (host : Bool) (region : Nat) : State :=
  let d := s.die die
  (s.setDie die (if host then { d with accDev := bumpRegion d.accDev region } else { d with accHost := bumpRegion d.accHost region })).noticeAt die host region

/-- Location directory of stacked weight memory (14 R334): column, leading column and count of a tile. A count that has reached 16 for another
column stands until the tile has moved there. -/
def driftCount (l : List (Nat × Nat × Nat × Nat)) (tile col : Nat) : List (Nat × Nat × Nat × Nat) :=
  match l.find? (·.1 == tile) with
  | none => l ++ [(tile, tile / 1024 % 12, col, 1)]
  | some (_, c, lead, n) =>
    if n = 16 && lead != c then l
    else l.map fun x => if x.1 = tile then (tile, c, if lead = col then lead else col, if lead = col then min (if col = c then 15 else 16) (n + 1) else 1) else x

/-- An access by an agent of a die, served by a column where it has one: host memory by region on the agent's die, and the directory of the
tile's home die (14 R333, R334). -/
def State.noteAccess (s : State) (die : Nat) (col : Option Nat) (pa : Nat) : State :=
  match tierOf pa, col with
  | .host, _ => s.countRegion die false (regionOf pa)
  | .swm d, some c => s.setDie d { s.die d with dirs := driftCount (s.die d).dirs (tileOf pa) c }
  | _, _ => s

/-- A group's access, by the column of its core. -/
def State.noteFor (s : State) (g : Group) (pa : Nat) : State := s.noteAccess g.die (some (g.core % 48 / 4)) pa

/-- The class of an access as it leaves: a window in force now decides, else the page's class (08 R181, 14 R339). -/
def State.classNow (s : State) (g : Group) (va : W64) (cls : Nat) : Nat :=
  if apert va == .trans && s.inWindow (s.grpCtx g) va.toNat then 4 else cls % 4

/-- A translated access leaves: where its class lets it be performed (08 R172, R180, R181, 06 R126, R127, 07 R158, R159). The core's own bytes come
first; a line held in part is filled. -/
def State.leaveMem (s : State) (g : Group) (e : Entry) (pa cls0 : Nat) (copy : Bool) : State :=
  let cls := s.classNow g e.va cls0
  let e := { e with loc := .mem pa cls }
  let near := s.mayCache g e.va pa cls e.kind.isWrite
  let q := quadOfCore g.core
  let own := s.ownOf g e.va cls
  let ro := cls == 3 && e.kind.isWrite && s.heldG g e.va && s.roG g e.va
  let s1 := s.modGrp g.id fun g => g.modEnt e.uid fun x => { x with loc := .mem pa cls }
  let s1 := if ro then ((s1.wbLine g.core (lineOf pa) true).dropCopy q (tileOf pa)).cancelFills (fun c => quadOfCore c == q) (lineOf pa) 128 else s1
  let line := (pieces pa e.n).any fun p => ((s1.core g.core).line? p.1).isSome
  let held := ((s1.quad q).copy? pa).isSome
  let here (s : State) : State :=
    let (v, s) := (s.noteFor g pa).applyL1 e.kind pa cls own e.n e.data g.core g.id e.lane
    s.perform g.id e.uid v
  if g.lostPriv e pa then s1.perform g.id e.uid 0
  else if s.dieDown (homeDie pa) then (if e.kind.posted then s1.dropStore g e pa 1 else s1.failEntry g.id e Cause.homeDown)
  else if ro && (line || held) then s
  else if near && e.kind == .store && (line || !e.far || cls == 4) then here s1
  else if near then
    match s1.lacks g.core pa e.n with
    | none => here s1
    | some x =>
      if line || !e.far || cls == 4 then
        let s := (s1.noteFor g pa).bumpCore g.core 0x07 1
        if cls != 4 && ((s.quad q).copy? x).isSome then
          let (u, s) := s.fresh
          let s := s.modGrp g.id fun g => g.modEnt e.uid fun e => { e with stage := .filling, val := u }
          s.arrive (entryReq g e x cls u 4 false)
        else s.askHome g e x cls (if copy && !e.far && homeDie x != g.die && homeDie x < 4 && s.mayCopy g e.va cls then 2 else 1)
      else if held then
        let s := (s1.noteFor g pa).modGrp g.id fun g => g.modEnt e.uid fun e => { e with stage := .left }
        let (u, s) := s.fresh
        s.arrive (entryReq g e pa cls u 3 false)
      else if e.kind.isWrite && s.writeBlocked g.die (homeDie pa) then s
      else (s1.noteFor g pa).sendEntry g e pa cls 0 e.kind.isWrite
  else if e.kind.isWrite && s.writeBlocked g.die (homeDie pa) then s
  else (s1.noteFor g pa).sendEntry g e pa cls 0 e.kind.isWrite

/-- Accesses of one instruction to the granule of an entry, which its bank serves as one (06 R130). -/
def Group.granMates (g : Group) (e : Entry) : List Entry :=
  match e.loc with
  | .pad t o => g.obq.filter fun x => x.uid == e.uid || (x.stage == .queued && e.inst != 0 && x.inst == e.inst && (match x.loc with
      | .pad u p => u == t && p / 16 == o / 16
      | _ => false))
  | _ => [e]

/-- One access at a bank: data, or a full/empty bit, which no ownership delays (06 R141). A full/empty load that finds its granule emptied since
its issue stays at the bank until it is full (06 R139; DEDUCED, log 20). -/
def State.atBank (s : State) (g : Group) (e : Entry) : State :=
  match e.loc, e.kind with
  | .pad t o, .fe set =>
    match s.team? t with
    | none => s.perform g.id e.uid 0
    | some x =>
      let s := match set with
        | some b => if o < x.size then s.setTeam (x.setFull o b) else s
        | none => s
      s.perform g.id e.uid (o < x.size && x.fullAt o).toNat
  | .pad t o, .feload fc => if ((s.team? t).map fun x => x.fullAt o).getD false then
      let (v, s) := s.applyPad .load t o e.n 0 g.core g.id e.lane
      let s := match fc, s.team? t with
        | true, some x => s.setTeam (x.setFull o false)
        | _, _ => s
      s.perform g.id e.uid v
    else s.modGrp g.id fun g => g.modEnt e.uid fun e => { e with stage := .left }
  | .pad t o, k =>
    let (v, s) := s.applyPad k t o e.n e.data g.core g.id e.lane
    s.perform g.id e.uid v
  | _, _ => s

def EKind.isFeLoad : EKind → Bool
  | .feload _ => true
  | _ => false

def EKind.isFe : EKind → Bool
  | .fe _ => true
  | _ => false

/-- The accesses of an instruction to one granule leave together, lower lanes first; a granule that an engine owns delays them (06 R130, 08
R176). -/
def State.leavePad (s : State) (g : Group) (e : Entry) : State :=
  let es := g.granMates e
  if es.any fun x => !x.kind.isFe && s.owned x.loc x.n 0 then s else es.foldl (fun s x => s.atBank g x) s

/-- A query sets out for its tile's home spiral once no promotion that its group asked for is pending (07 R162, 18 R373). A home in warm reset, whose
spirals hold nothing, is not asked: the answer is made from what is known of it (DESIGN CHOICE, log 100). -/
def State.leaveQuery (s : State) (g : Group) (e : Entry) (q : Query) (pa : Nat) : State :=
  let h := homeQuad pa
  if s.dieDown (homeDie pa) then (let (v, s) := s.answer q g.core g.id pa; s.perform g.id e.uid v)
  else if (s.quad h).promos.any fun p => p.tile == tileOf pa && p.who == whoAt h g.core then s
  else s.sendEntry g e pa 0 0 false

/-- QUEUE_LEAVE: entry i of a group leaves as soon as nothing before it holds it back; a load may forward; a marker that is
due is done; acquire actions outstanding are tried again; a full/empty load at its bank looks at its granule again. `copy` lets a miss make a
requester-side copy. -/
def State.leave (s : State) (g : Group) (i : Nat) (copy : Bool) : State :=
  match g.obq[i]? with
  | none => s
  | some e =>
    if e.stage == .done then s.tryAcq g.id e.uid
    else if e.stage == .left && e.kind.isFeLoad then (if s.owned e.loc e.n 0 then s else s.atBank g e)
    else if e.stage != .queued then s
    else
      match forwardBytes (g.obq.take i) e with
      | some bs => if s.heldBack g i e true then s else s.perform g.id e.uid (leGet (fun k => (bs[k]?).getD 0) 0 e.n)
      | none =>
        if s.heldBack g i e false then s
        else match e.kind, e.loc with
          | .fence .., _ => s.perform g.id e.uid 0
          | .range _ tiles, _ =>
            if tiles.isEmpty then s.perform g.id e.uid 0
            else s.modGrp g.id fun g => g.modEnt e.uid fun e => { e with stage := .left }
          | .engine _, _ | .obj _, _ | .chan, _ | .item _, _ => s
          | .query q, .mem pa _ => s.leaveQuery g e q pa
          | .pf, _ => s.perform g.id e.uid 0
          | _, .pad .. => s.leavePad g e
          | _, .mem pa cls => if s.owned e.loc e.n 0 then s else s.leaveMem g e pa cls copy
          | _, .nowhere => s.perform g.id e.uid 0

/-! ### HOME_APPLY, APPLY_QUEUE_HEAD, REPLY_MERGE -/

/-- Two requests keep their order: of one source to one home point of the same die, or of one die to another (08 R173). -/
def Req.sameWay (a b : Req) : Bool :=
  a.home == b.home && a.srcDie == b.srcDie &&
    (a.home != a.srcDie || (a.src == b.src && tileOf a.pa == tileOf b.pa))

/-- The grid and context that an error record names for a write (15 R346). -/
def State.writerGrid (s : State) (r : Req) : W64 × Nat :=
  match if 1000 ≤ r.src && r.src < 1032 then (s.cpe (r.src - 1000)).jobs.find? (·.uid == r.ent) else none with
  | some j => (j.grid, j.ctx)
  | none => if r.grp = 0 then r.who else s.whoIs r.grp

/-- A request that cannot reach its home, a die in warm reset or a peer whose link is down: writes are dropped with an error record
and count as dropped, engine packets end, loads and atomics take their trap (15 R346, R347, R350). -/
def State.turnAway (s : State) (r : Req) (status fcode cause : Nat) : State :=
  let s := if r.write && r.home < 4 && r.home != r.srcDie then
      let s := s.countDrop r.home r.srcDie
      let d := s.die r.srcDie
      s.setDie r.srcDie { d with unacked := put d.unacked r.home (nth d.unacked r.home - 1) }
    else s
  let who := s.writerGrid r
  let rec' (src : Nat) : State := s.errorRec r.pa who.1 who.2 src r.srcDie cause
  if 1000 ≤ r.src && r.src < 1032 then
    let s := rec' 2
    let c := s.cpe (r.src - 1000)
    let stopJob (j : Job) : Job :=
      if j.uid != r.ent then j
      else
        let va := ((j.lines.find? fun (x : DLine) => x.sent && x.loc.same r.loc).map (·.va)).getD 0
        let ls := j.lines.filter fun (x : DLine) => x.sent && !x.loc.same r.loc
        let written := j.written - r.cells.length
        if j.status != 0 then { j with written, lines := j.lines.filter fun (x : DLine) => !(x.sent && x.loc.same r.loc) }
        else { j with written, status, fcode, ffa := va, lines := ls, wait := none }
    s.setCpe (r.src - 1000) { c with jobs := c.jobs.map stopJob }
  else match (s.grp? r.grp).bind fun g => (g.ent? r.ent).map fun e => (g, e) with
    | some (g, e) =>
      if e.kind == .pf then s.perform g.id e.uid 0
      else if let .query q := e.kind then (let (v, s) := s.answer q g.core g.id r.pa; s.perform g.id e.uid v)
      else if r.fill = 1 ∨ r.fill = 2 then (if e.stage == .filling && e.val == r.uid then s.failEntry g.id e (if r.home < 4 then Cause.homeDown else Cause.prot) else s)
      else if e.kind.posted then (rec' (if g.res == .draining then 1 else 0)).deliver r 0
      else s.failEntry g.id e (if r.home < 4 then Cause.homeDown else Cause.prot)
    | none => if r.write then rec' 0 else s

/-- HOME_APPLY: request i arrives, after those it must follow: at its home on the same die or at a peer, or into the apply
queue of another die. Ports that answer for a die in warm reset let only write-backs through. -/
def execHomeApply (i : Nat) (s : State) : Out :=
  match s.net[i]? with
  | none => .next s
  | some r =>
    if (s.net.take i).any (·.sameWay r) || (r.home == r.srcDie && (s.die r.home).snoop.any (·.sameWay r)) then .next s
    else
      let s' := { s with net := s.net.eraseIdx i }
      if s.dieDown r.home && !r.isBack then .next (s'.turnAway r 5 0 1)
      else if 4 ≤ r.home && s.peerDown r.pa && !(match r.kind with
          | .range .. => true
          | _ => false) then .next (s'.turnAway r 3 3 3)
      else if r.home = r.srcDie ∨ 4 ≤ r.home then
        if s.ownedReq r || s.outranked r || s.atRepair r then .next s else .next (s'.arrive r)
      else
        let d := s'.die r.home
        let s' := s'.setDie r.home { d with applyq := put d.applyq r.srcDie (nth d.applyq r.srcDie ++ [r]) }
        .next (s'.modGrp r.grp fun g => g.modEnt r.ent fun e => if e.stage == .left then { e with stage := .taken } else e)

/-- The head's stamp lets it be applied (08 R174). -/
def stampOk (dep : List (List Nat)) (h : Nat) (r : Req) : Bool :=
  (List.range 5).all fun x =>
    let c := depAt dep x h
    let v := (r.stamp[x]?).getD 0
    if x = r.srcDie then (if r.write then c + 1 == v else v ≤ c) else v ≤ c

/-- APPLY_QUEUE_HEAD: the head of a die's lane for a source die, once its stamp allows it; the write-backs admitted during a warm reset
are applied in order as they come (15 R349). -/
def execApplyQueueHead (die src : Nat) (s : State) : Out :=
  let d := s.die die
  match nth d.applyq src with
  | [] => .next s
  | r :: rest =>
    if (!s.dieDown die && !stampOk d.dep (die % 4) r) || s.ownedReq r || s.outranked r || s.atRepair r then .next s
    else
      .next ((s.setDie die { d with applyq := put d.applyq (src % 4) rest }).arrive r)

/-- REPLY_MERGE: reply i reaches its die, whose table merges, and the access is performed (08 R172, R174). -/
def execReplyMerge (i : Nat) (s : State) : Out :=
  match s.replies[i]? with
  | none => .next s
  | some p =>
    let d := s.die p.req.srcDie
    let h := p.req.home
    let d := { d with dep := depMerge d.dep p.table p.req.srcDie,
                      unacked := if p.req.write then put d.unacked (h % 4) (nth d.unacked h - 1) else d.unacked }
    .next (({ s with replies := s.replies.eraseIdx i }.setDie p.req.srcDie d).deliver p.req p.val)

/-! ### WRITE_BACK (08 R172) -/

/-- WRITE_BACK: an L1 line or a copy writes its dirty bytes back, or drops. -/
def execWriteBack (w : WbWhat) (s : State) : Out :=
  match w with
  | .l1 core a drop => .next (s.wbLine core (lineOf a) drop)
  | .copy q a drop => .next (if drop then s.dropCopy q (tileOf a) else s.cleanCopy q (tileOf a))

/-! ### RANGE_STEP (07 R165, R166, 08 R174) -/

/-- The pairs of a group's range entries under way and their tiles. -/
def Group.rangeWork (g : Group) : List (Entry × Nat) :=
  g.obq.flatMap fun e => match e.kind with
    | .range _ tiles => if e.stage == .left then tiles.map fun t => (e, t) else []
    | _ => []

/-- The request of a range entry for a tile is under way. -/
def State.stepping (s : State) (uid tile : Nat) : Bool :=
  let hit (r : Req) : Bool := r.ent == uid && r.pa == tile
  s.net.any hit || s.dies.toList.any (fun d => d.snoop.any hit || d.applyq.toList.any (·.any hit)) || s.replies.any (fun p => hit p.req) ||
    s.quads.toList.any fun q => q.accs.any fun a => hit a.req

/-- RANGE_STEP: one tile of a range operation sets out for its home, where it is treated in the order of arrival; at another die's home it counts as a
write (08 R173, R174). -/
def execRangeStep (gid i : Nat) (s : State) : Out :=
  match s.grp? gid with
  | none => .next s
  | some g =>
    match g.rangeWork[i]? with
    | none => .next s
    | some (e, t) =>
      let op := match e.kind with
        | .range op _ => op
        | _ => 0
      if s.writeBlocked g.die (homeDie t) || s.stepping e.uid t then .next s
      else
        let (u, s) := s.fresh
        .next (s.send { entryReq g e t 0 u 0 true with kind := .range op [t], n := 1024 })

/-! ### Outside writes and reads (08 R175, 15 R342) -/

def State.countHostAccess (s : State) (pa : Nat) : State :=
  let h := homeDie pa
  match tierOf pa with
  | .hbm _ | .swm _ | .lp => s.countRegion h true (regionOf pa)
  | _ => s

def bytesCells (pa : Nat) (bs : List Byte) : List Host.Cell := (List.range bs.length).map fun i => (pa + i, (bs[i]?).getD 0)

/-- An external write of a die stands at a spiral, not yet applied: those after it wait (08 R175). -/
def State.externalParked (s : State) (die : Nat) : Bool :=
  s.quads.toList.any fun q => q.accs.any fun a => a.req.write && 4000 ≤ a.req.src && a.req.src < 5000 && a.req.home == die

/-- A link, or 16 for the host, brings accesses. -/
def State.linkUp (s : State) (src : Nat) : Bool := src == 16 || (src < 16 && s.md.cappeer.getLsbD src && (nth s.md.links src).up)

/-- A write from outside is accepted, or dropped with an error record. -/
def State.external (s : State) (src pa : Nat) (r : Req) : State :=
  let h := homeDie pa
  if 4 ≤ h || !s.linkUp src then s
  else if tierOf pa == .lp || s.dieDown h then
    let s := s.errorRec pa 0 0 (if src = 16 then 5 else 6) h (if s.dieDown h then 1 else 4)
    if s.dieDown h then (let d := s.die h; (s.setDie h { d with extAcc := d.extAcc + 1 }).countDrop h 4) else s
  else
    let s := if src = 16 then s.countHostAccess pa else s
    let (u, s) := s.fresh
    let d := s.die h
    s.setDie h { d with extAcc := d.extAcc + 1,
                        extq := d.extq ++ [{ r with uid := u, src := 4000 + src, srcDie := h, home := h, loc := .mem pa 0, write := true }] }

/-- The driver loads an image of a boot stage; it is held until the next cold reset (15 R355). -/
def State.loadImage (s : State) (stage x : Nat) : State :=
  if 3 ≤ stage then s else { s with md := { s.md with loaded := put s.md.loaded stage (some x) } }

/-- EXTERNAL_WRITE: accepted at an interface (peer link, or 16 for the host), later applied and counted at its home die; a host or peer claims a
queue slot by an atomic increment of wr (10 R218). A host write to the LPDDR-6 tier, or to a die in warm reset, is dropped with an error record. -/
def execExternalWrite (e : ExtAct) (s : State) : Out :=
  match e with
  | .accept src pa bs => .next (if bs.isEmpty then s else s.external src pa { blankReq with n := bs.length, cells := bytesCells pa bs })
  | .claim src pa => .next (if pa % 8 ≠ 0 then s else s.external src pa { blankReq with kind := .atom 0 false 0, n := 8, data := 1 })
  | .image stage x => .next (s.loadImage stage x)
  | .apply die =>
    let d := s.die die
    match d.extq with
    | [] => .next s
    | r :: rest => if s.ownedReq r || s.outranked r || s.externalParked die then .next s else .next ((s.setDie die { d with extq := rest }).arrive r)

/-- HOST_READ: the host, 16, reads device memory at its home point, in its order there, and holds the lines (07 R155, 15 R342); a peer reads this
module's memory over its link, where it holds no copy of it that the module tracks (15 R347). -/
def execHostRead (x : OutAdr) (n : Nat) (s : State) : Out :=
  let ⟨src, pa⟩ := x
  let h := homeDie pa
  let (u, s') := s.fresh
  let r := { blankReq with uid := u, src := 4000 + src, srcDie := h, home := h, kind := .load, loc := .mem pa 0, n }
  if 4 ≤ h || s.dieDown h || n = 0 || !s.linkUp src || s.ownedReq r || s.outranked r || s.atRepair r then .next s
  else .next ((if src = 16 then s'.countHostAccess pa else s').arrive r)

/-- BISNP_RESPONSE: the host gives up the line that the first waiting write needs, and the write goes on (15 R342). -/
def execBisnpResponse (die : Nat) (s : State) : Out :=
  let d := s.die die
  match d.snoop with
  | [] => .next s
  | r :: rest =>
    let d := { d with snoop := rest, hostLines := d.hostLines.filter fun a => !r.lines.contains a }
    .next ((s.setDie die d).arrive r)

end Sys2Proof.Machine
end

