-- ==== Sys2Proof/Machine/Operands.lean ====
section
/-! DEFINITION. Operands.lean: the tag of a result (02 R36) and the writes that put a result into its destination (02
R31, R35, 04 R79). -/

namespace Sys2Proof.Machine

open Sys2Proof

def lo32 (x : W64) : W32 := x.truncate 32
def hi32 (x : W64) : W32 := (x >>> 32).truncate 32

/-- Base and stride of a source that is uniform or affine for rule 4: uniform counts as stride 0 (02 R36). -/
def Group.lin (g : Group) (o : Src) : Option (W32 × W32) :=
  match o with
  | .none => some (0, 0)
  | .imm v => some (lo32 v, 0)
  | .sca r => some (lo32 (g.s r), 0)
  | .vec r x =>
    if x.pat = .id then
      match g.v r with
      | .uni u => some (u, 0)
      | .aff b t => some (b, t)
      | .gen _ => none
    else none

/-- The source is uniform, scalar or immediate (02 R36 rule 5); a non-identity pattern is not (rule 3). -/
def Group.uniSrc (g : Group) (two : Bool) (o : Src) : Bool :=
  match o with
  | .vec r x => x.pat == .id && (g.v r).isUni && (!two || (g.v (r + 1)).isUni)
  | _ => true

abbrev Lin := Option (W32 × W32)

def linAdd (x y : Lin) : Lin := x.bind fun (a, s) => y.map fun (b, t) => (a + b, s + t)
def linSub (x y : Lin) : Lin := x.bind fun (a, s) => y.map fun (b, t) => (a - b, s - t)
/-- affine × uniform (02 R36 rule 4). -/
def linMul (x y : Lin) : Lin :=
  x.bind fun (a, s) => y.bind fun (b, t) =>
    if t = 0 then some (a * b, s * b) else if s = 0 then some (a * b, a * t) else none
/-- A shift left by a uniform amount: base and stride alike; 32 or more gives 0 (04 R82). -/
def linShl (x y : Lin) : Lin :=
  x.bind fun (a, s) => y.bind fun (n, t) =>
    if t = 0 then some (a <<< n.toNat, s <<< n.toNat) else none

def linReg (x : Lin) : Option VReg := x.map fun (b, t) => mkAff b t

/-- Every lane that has not exited is active (02 R36 rule 2); no active lane lies in a slice whose registers are freed, which only
exited lanes do (02 R41). -/
def Issue.full (c : Issue) : Bool :=
  c.act == c.g.live && (List.range 128).all fun l => !(c.act.getLsbD l && c.g.sliceFreed l)

def Issue.l0 (c : Issue) : Nat := (lowest c.act).getD 0

/-- The writes of a vector result: U forms and uniform results once, affine results by rule 4, others lane by lane
(02 R35, R36). `two` writes a pair. -/
def emitVec (c : Issue) (two : Bool) (d : Nat) (uni : Bool) (lin : Option VReg) (f : Nat → W64) : List Wr :=
  let one : List Wr :=
    let x := f c.l0
    .vset d (.uni (lo32 x)) :: (if two then [.vset (d + 1) (.uni (hi32 x))] else [])
  let each : List Wr :=
    let v := mkLanes fun l => if c.act.getLsbD l then f l else 0
    .vlanes d c.act (mkLanes fun l => lo32 (nth v l)) ::
      (if two then [.vlanes (d + 1) c.act (mkLanes fun l => hi32 (nth v l))] else [])
  if c.h.u then one
  else if !c.full then each
  else match lin with
    | some r => [.vset d r]
    | none => if uni then one else each

/-- The predicate bits of the active lanes (04 R86); with U one outcome for all of them. -/
def emitPrd (c : Issue) (d : Nat) (f : Nat → Bool) : List Wr :=
  if c.h.u then [.pset d c.act (if f c.l0 then c.act else 0)]
  else [.pset d c.act (maskOf fun l => c.act.getLsbD l && f l)]

/-- An integer result: a scalar in the scalar form (04 R79), else a vector. -/
def emitInt (c : Issue) (f : IFn) (d : Nat) (uni : Bool) (lin : Option VReg) (v : Nat → W64) : List Wr :=
  if f.s then [.sset d (toScalar f.t (v c.l0))] else emitVec c f.t.is64 d uni lin v

/-- The old value of the destination, for instructions that read it (04 R84, R88). -/
def Group.oldDst (g : Group) (f : IFn) (d l : Nat) : W64 :=
  if f.s then (if f.t.is64 then g.s d else (lo32 (g.s d)).zeroExtend 64)
  else if f.t.is64 then ((g.v (d + 1)).get l) ++ ((g.v d).get l)
  else ((g.v d).get l).zeroExtend 64

def Group.uniDst (g : Group) (f : IFn) (d : Nat) : Bool :=
  f.s || ((g.v d).isUni && (!f.t.is64 || (g.v (d + 1)).isUni))

/-- Lane values of the first two sources, and of the third, at the widths an instruction gives them. -/
structure Args where
  a : W64
  b : W64
  c : W64

def Group.args (g : Group) (o : Ops) (wa wb wc : Bool) (l : Nat) : Args :=
  ⟨g.opnd wa o.n o.a l, g.opnd wb o.n o.b l, g.opnd wc o.n o.c l⟩

def Group.uniOps (g : Group) (o : Ops) (wa wb wc : Bool) : Bool :=
  g.uniSrc wa o.a && g.uniSrc wb o.b && g.uniSrc wc o.c

/-- An integer instruction of fixed latency whose result is a function of its operands (04 R77-R79). `wb` and `wc` say
whether B and C have the type's width. -/
def aluInt (i : Instr) (f : IFn) (o : Ops) (wb wc : Bool) (lin : Group → Lin) (fn : Args → W64) (s : State) : Out :=
  withIssue i s fun c s =>
    let g := c.g
    let w := f.t.is64
    let v := fun l => fn (g.args o w (w && wb) (w && wc) l)
    let wr := emitInt c f o.d (g.uniOps o w (w && wb) (w && wc)) (if w then none else linReg (lin g)) v
    .next ((s.fixed c (iLat f.s o) wr).done c)

end Sys2Proof.Machine
end

