-- ==== Sys2Proof/Machine/Spiral.lean ====
section
/-! DEFINITION. Spiral.lean: the front, promotions, pulls and pins of a quadrant's spiral, and the spiral instructions (07
R149-R166, 18 R373, R374). -/

namespace Sys2Proof.Machine

open Sys2Proof

/-! ### Motion (07 R152, R153, R374) -/

/-- Motions over by cycle t are forgotten, but for the last. -/
def Tile.trim (x : Tile) (t : Nat) : Tile :=
  { x with legs := (x.legs.filter fun l => t < l.1 + legLen l) }

/-- The tile still moves inward at cycle t. -/
def Tile.inbound (x : Tile) (t : Nat) : Bool := x.legs.any fun l => l.2.2 < l.2.1 && t < l.1 + legLen l

/-- A wave accepted in cycle t displaces the tile to position n: it leaves its position i in cycle t + i and lands at n in cycle t + n. A pull's
displacement is timed as a wave from the front is (DESIGN CHOICE, log 89). One still on its way inward keeps its path, and the slot where it stops
becomes n (DESIGN CHOICE, log 101). -/
def Tile.move (x : Tile) (n t : Nat) : Tile :=
  let y := x.trim t
  let d := x.pos.getD n
  if x.inbound t then { y with pos := some n, legs := [(t, x.at t, n)] }
  else { y with pos := some n, legs := if d = n then y.legs else y.legs ++ [(t + d, d, n)] }

/-- The tile settled at a position. -/
def occupant (tiles : List Tile) (i : Nat) : Option Tile := tiles.find? fun x => x.pos == some i

def replaceTile (tiles : List Tile) (x : Tile) : List Tile := tiles.map fun y => if y.addr = x.addr then x else y

/-- The wave of R152 from position i on: what is carried takes each unpinned position, up to the first hole; a tile carried
past the last position is answered. -/
def wave (pinned : Tile → Bool) (t : Nat) : Nat → Nat → Tile → List Tile → List Tile × Option Tile
  | 0, _, c, ts => (ts.filter (·.addr != c.addr), some c)
  | fuel + 1, i, c, ts =>
    match occupant ts i with
    | none => (replaceTile ts (c.move i t), none)
    | some x =>
      if pinned x then wave pinned t fuel (i + 1) c ts
      else wave pinned t fuel (i + 1) x (replaceTile ts (c.move i t))

/-- The first position from g on that no pinned tile holds. -/
def unpinnedFrom (pinned : Tile → Bool) (ts : List Tile) : Nat → Nat → Nat
  | 0, g => g
  | fuel + 1, g => match occupant ts g with
    | some x => if pinned x then unpinnedFrom pinned ts fuel (g + 1) else g
    | none => g

/-- A tile on its way inward to g, one slot a cycle from the cycle after t on; one being inserted stands there at once. Of a pull and of a promotion of
a tile that a pull moves the rules say so (07 R153, 18 R374); of any other promotion they give no path, and the tile moves as they do (DESIGN CHOICE,
log 101). -/
def Tile.sendTo (x : Tile) (g t : Nat) : Tile :=
  { x with pos := some g, legs := if x.pos.isSome && x.at t != g then [(t, x.at t, g)] else [] }

/-- A tile placed at g, its old position a hole, those from g upward displaced up to the first hole. -/
def placeAt (pinned : Tile → Bool) (t g : Nat) (x : Tile) (ts : List Tile) : List Tile × Option Tile :=
  let ts := replaceTile ts { x with pos := none }
  let ts' := replaceTile ts (x.sendTo g t)
  match occupant ts g with
  | none => (ts', none)
  | some y => wave pinned t (32767 - g) (g + 1) y ts'

/-- EVICT within PROMOTION_ACCEPT (07 R152): dirty bytes go to the memory controller, and the home takes back the copies it lists; an evicted
copy writes back to its home. Reservations that the home point holds on the tile's blocks stay: R193 does not say that the home tile's eviction is that
of the line which holds them (DESIGN CHOICE, log 106). -/
def State.evictTile (s : State) (q : Nat) (x : Tile) : State :=
  if x.copy then (s.sendBack (5000 + q) (q / 4) x.addr 1024 x.cls x.who x.dirtyCells).endCopyResv q x.addr
  else
    let none (_ : Nat) : Bool := false
    let s := (s.ctlWrite x.dirtyCells).collect none x.sharers.contains x.addr 1024
    (s.dropAll none x.sharers.contains x.addr 1024).cancelFills (fun _ => true) x.addr 1024

/-- A promotion accepted at the front (07 R152): a tile being inserted, or no longer held, is inserted; a pinned settled tile
does not move. -/
def State.promote (s : State) (q tile : Nat) (copy : Bool) : State :=
  let qd := s.quad q
  let t := (s.die (q / 4)).cycle
  let x? := match qd.tile? tile with
    | some x => some x
    | none => if copy then none else some (newTile tile false ((List.range 1024).map fun i => s.ctlByte (tile + i)))
  match x? with
  | none => s
  | some x =>
    if s.pinnedTile x && x.pos.isSome then s
    else
      let ts := if (qd.tile? tile).isSome then qd.tiles else qd.tiles ++ [x]
      let g := unpinnedFrom s.pinnedTile (replaceTile ts { x with pos := none }) 32768 0
      let (ts, out) := placeAt s.pinnedTile t g x ts
      let s := s.setQuad q { qd with tiles := ts }
      match out with
      | some y => (s.evictTile q y).bumpQuad q 0x11 1
      | none => s

/-! ### Accesses at the spiral (07 R154, R155) -/

/-- What stands in order of acceptance: cycle, rank, place. -/
def earlier (a b : Nat × Nat × Nat) : Bool := a.1 < b.1 || (a.1 == b.1 && (a.2.1 < b.2.1 || (a.2.1 == b.2.1 && a.2.2 < b.2.2)))
def Acc.key (a : Acc) : Nat × Nat × Nat := (a.cycle, a.rank, a.no)
def Pull.key (p : Pull) : Nat × Nat × Nat := (p.cycle, p.rank, p.no)

/-- Something at the quadrant was accepted earlier for a tile than what has the key k. -/
def Quad.waitsFor (q : Quad) (tile : Nat) (k : Nat × Nat × Nat) : Bool :=
  (q.accs.any fun a => tileOf a.req.pa == tile && earlier a.key k) || q.pulls.any fun p => tileOf p.req.pa == tile && earlier p.key k

/-- Access i of a quadrant is applied: it has reached its tile in this cycle, what was accepted before it for the tile is applied, and the front has not
closed the cycle. One that the host's line stops leaves for the snoop. -/
def State.applyAcc (s : State) (q i : Nat) : Option State :=
  let qd := s.quad q
  match qd.accs[i]? with
  | none => none
  | some a =>
    if !a.way.ready || s.acceptCycle q != (s.die (q / 4)).cycle || qd.waitsFor (tileOf a.req.pa) a.key || s.ownedReq a.req || s.atRepair a.req then none
    else
      let tiles := qd.tiles.map fun x => if x.addr = tileOf a.req.pa then { x with apC := a.cycle, apR := a.rank } else x
      let s := s.setQuad q { qd with accs := qd.accs.eraseIdx i, tiles }
      some (if s.snooped a.req then s.toSnoop a.req else s.applyNow q a.req)

/-- Where a pull of a settled tile to a target takes it: none where it has no effect (07 R164). -/
def State.pullTo (s : State) (q tile target : Nat) : Option (Tile × Nat) :=
  let qd := s.quad q
  match qd.tile? tile with
  | none => none
  | some x => match x.pos with
    | none => none
    | some at0 =>
      let g := unpinnedFrom s.pinnedTile qd.tiles 32768 target
      if s.pinnedTile x || at0 ≤ target || at0 ≤ g then none else some (x, g)

/-- Pull i of a quadrant is accepted: it has reached its tile in this cycle, in its order (07 R155, R164). -/
def State.applyPull (s : State) (q i : Nat) : Option State :=
  let qd := s.quad q
  match qd.pulls[i]? with
  | none => none
  | some p =>
    if !p.way.ready || s.acceptCycle q != (s.die (q / 4)).cycle || qd.waitsFor (tileOf p.req.pa) p.key then none
    else
      let t := (s.die (q / 4)).cycle
      let s := s.setQuad q { qd with pulls := qd.pulls.eraseIdx i }
      let s := match s.pullTo q (tileOf p.req.pa) p.target with
        | some (x, g) => s.setQuad q { s.quad q with tiles := (placeAt s.pinnedTile t g x (s.quad q).tiles).1 }
        | none => s
      some (s.applied p.req 0)

/-- SPIRAL_ACCESS_APPLY: access i of a quadrant. -/
def execSpiralAccessApply (q i : Nat) (s : State) : Out := .next ((s.applyAcc q i).getD s)

/-- PULL_APPLY: pull i of a quadrant. -/
def execPullApply (q i : Nat) (s : State) : Out := .next ((s.applyPull q i).getD s)

/-- The first of some attempts that succeeds. -/
def firstOf (f : Nat → Option State) : List Nat → Option State
  | [] => none
  | i :: is => match f i with
    | some s => some s
    | none => firstOf f is

/-- Everything of a quadrant that can be applied in this cycle is, in order (07 R154). -/
def State.drain (s : State) (q : Nat) : Nat → State
  | 0 => s
  | n + 1 =>
    let qd := s.quad q
    match (firstOf (s.applyAcc q) (List.range qd.accs.length)).or (firstOf (s.applyPull q) (List.range qd.pulls.length)) with
    | some s' => s'.drain q n
    | none => s

def State.drainQuad (s : State) (q : Nat) : State := s.drain q ((s.quad q).accs.length + (s.quad q).pulls.length)

/-! ### The shared front (07 R156) -/

/-- The oldest pending request of a requester. -/
def Quad.oldest (q : Quad) (who : Nat) : Option Promo := q.promos.find? (·.who == who)

/-- The accepted requests in rank order: requests for one tile form one group, and two groups are taken (07 R156). -/
def pickPromos : List Promo → List Nat → List Promo
  | [], _ => []
  | p :: ps, tiles =>
    if tiles.contains p.tile then p :: pickPromos ps tiles
    else if tiles.length < 2 then p :: pickPromos ps (tiles ++ [p.tile])
    else pickPromos ps tiles

/-- A promotion could not be made in full: it would insert a tile from a controller that is stopped for a lane repair, or, the spiral having no hole for
two more, evict one to such a controller, or a dirty copy while its die holds writes to the home back (08 R174, 13 R309). -/
def State.evictStopped (s : State) (q : Nat) : Bool :=
  let ts := (s.quad q).tiles
  ((s.quad q).promos.any fun p => !p.copy && s.repairing p.tile) ||
  (decide (32766 < ts.length) && ts.any fun x => if x.copy then !x.dirty.isEmpty && s.writeBlocked (q / 4) (homeDie x.addr)
    else (!x.dirty.isEmpty || !x.sharers.isEmpty) && s.stopped x.addr)

/-- The front of a quadrant accepts, once a cycle, after all that the cycle applies has been applied: the loser's promotion first. Only the requests
presented leave the pending ones (07 R152, R156). -/
def State.acceptPromos (s0 : State) (q : Nat) : State :=
  let s := s0.drainQuad q
  let qd := s.quad q
  let t := (s.die (q / 4)).cycle
  let order := (List.range 14).map fun k => (qd.front + k) % 14
  let taken := pickPromos (order.filterMap qd.oldest) []
  if qd.pAt = t + 1 || s.evictStopped q then s
  else match taken.getLast? with
    | none => s
    | some last =>
      let groups := (taken.map fun p => (p.tile, p.copy)).eraseDups
      let left := taken.foldl List.erase qd.promos
      let s := s.setQuad q { qd with promos := left, front := (last.who + 1) % 14, pOld := qd.front, pAt := t + 1,
                                     ctrs := vmap (fun c => State.bumpCtr 0x12 left.length (State.bumpCtr 0x10 groups.length c)) qd.ctrs }
      groups.reverse.foldl (fun s x => s.promote q x.1 x.2) s

/-- PROMOTION_ACCEPT: the front accepts for this cycle, whose last accesses are applied with it; at the latest it does as the cycle ends (DEDUCED, log
96). -/
def execPromotionAccept (q : Nat) (s : State) : Out := .next (s.acceptPromos q)

/-! ### Cycles -/

/-- One cycle for the accesses and pulls of a quadrant. -/
def Quad.tick (q : Quad) (t : Nat) : Quad :=
  { q with accs := q.accs.map fun a => { a with way := a.way.go (q.tile? (tileOf a.req.pa)) t },
           pulls := q.pulls.map fun p => { p with way := p.way.go (q.tile? (tileOf p.req.pa)) t } }

/-! ### Addresses of the spiral instructions (07 R161) -/

/-- What an address names for the class. -/
inductive SpAt where
  | prot
  | window
  | page (pa : Nat)
  | noPage
  deriving DecidableEq, Repr

def State.spAt (s : State) (g : Group) (lane : Nat) (ea : W64) : SpAt :=
  match apert ea with
  | .none => .prot
  | .team _ => .window
  | .clu k _ => match s.grpTeam? g with
    | some t => if s.inCluster t k then .window else .prot
    | none => .prot
  | .priv o => .page (privAddr g.priv lane o)
  | .trans =>
    match s.lookup (some g.core) g.die (s.grpCtx g) ea.toNat s.free with
    | .ok base _ e => let pa := pteFrame e + (ea.toNat - base); if populated pa then .page pa else .noPage
    | .fail .. => .noPage

/-- A query of a tile enters the group's queue: it sets out once the group's earlier accesses to the tile are applied (18 R373). -/
def State.enterQuery (s : State) (c : Issue) (q : Query) (lane : Nat) (ea : W64) (pa : Nat) : Nat × State :=
  let (u, s) := s.fresh
  let e : Entry := { uid := u, kind := .query q, lane, mask := c.act, pc := c.a, va := ea, loc := .mem pa 0, n := 4, data := 0, acq := 0, rel := 0,
                     far := false, stage := .queued, val := 0, extAt := [], acqOk := true }
  (u, s.modGrp c.g.id fun g => { g with obq := g.obq ++ [e] })

/-- The report of an address whose tile no spiral can hold: a window, no translation, or peer memory, which R162 does not name (07 R161, R162; DESIGN
CHOICE, log 88). -/
def noTile : W32 := 0x8FFFF

/-- The tile that a query of an address goes to. -/
def SpAt.tile? : SpAt → Option Nat
  | .page pa => if canHold pa then some pa else none
  | _ => none

/-- SPDIST (07 R162): each lane's query goes to its tile's home spiral, and the report is made there. -/
def execSpdist (h : Hdr) (d a : Nat) (bv : Bool) (xa : Pat) (n : Nat) (s : State) : Out :=
  withIssue (.spdist h d a bv xa n) s fun c s =>
    let ea := fun l => if bv then c.g.xpair a ⟨xa, xa.implied⟩ (c.g.s n) l else c.g.s a
    let ats := (lanesOf c.act).map fun l => (l, s.spAt c.g l (ea l))
    match ats.find? (·.2 == .prot) with
    | some (l, _) => .next (s.trapExec c Cause.prot l (ea l))
    | none =>
      let off := maskOf fun l => ats.any fun x => x.1 == l && x.2.tile?.isNone
      let (ids, s) := ats.foldl (fun (ids, s) x => match x.2.tile? with
        | some pa => let (u, s) := s.enterQuery c .dist x.1 (ea x.1) pa; (ids ++ [u], s)
        | none => (ids, s)) (([] : List Nat), s)
      .next ((s.locked c ids [.vlanes d off (mkLanes fun _ => noTile), .ld d 4]).done c)

/-- SPPIN, SPUNPIN and SPPULL name one tile, that of the lowest active lane where private (07 R161). A page of peer memory, which no spiral can
hold, is taken as one without a translation is (DESIGN CHOICE, log 88). -/
def spOnce (c : Issue) (s : State) (ea : W64) (body : Option Nat → Out) : Out :=
  match s.spAt c.g c.l0 ea with
  | .prot | .window => .next (s.trapExec c Cause.prot c.l0 ea)
  | a => body a.tile?

/-- SPPIN (07 R163): its result comes from the tile's home; without a tile it is false. -/
def execSppin (h : Hdr) (d a : Nat) (s : State) : Out :=
  withIssue (.sppin h d a) s fun c s =>
    spOnce c s (c.g.s a) fun pa? =>
      match pa? with
      | none => .next ((s.locked c [] [.pset d c.act 0]).done c)
      | some pa =>
        let (u, s) := s.enterQuery c .pin 128 (c.g.s a) pa
        .next ((s.locked c [u] [.pall d c.act]).done c)

/-- SPUNPIN (07 R163). -/
def execSpunpin (h : Hdr) (a : Nat) (s : State) : Out :=
  withIssue (.spunpin h a) s fun c s =>
    spOnce c s (c.g.s a) fun pa? =>
      match pa? with
      | none => .next (s.done c)
      | some pa => .next ((s.enterQuery c .unpin 128 (c.g.s a) pa).2.done c)

/-- SPPULL (07 R164): PULL_APPLY is its acceptance at the tile. -/
def execSppull (h : Hdr) (a : Nat) (t : Src) (s : State) : Out :=
  withIssue (.sppull h a t) s fun c s =>
    let target := match t with
      | .imm v => v.toNat
      | .sca r => (c.g.s r).toNat
      | _ => 0
    spOnce c s (c.g.s a) fun pa? =>
      match pa? with
      | none => .next (s.done c)
      | some pa => .next ((s.enterQuery c (.pull target) 128 (c.g.s a) pa).2.done c)

/-! ### Range operations (07 R165, R166) -/

/-- End of the translated aperture that holds an address. -/
def transEnd (a : Nat) : Nat := if a < 2 ^ 56 then 2 ^ 56 else windowBase

/-- Tiles of a translated range; pages without a valid translation are skipped. -/
def State.rangeTiles (s : State) (g : Group) (a n : Nat) : List Nat :=
  if n = 0 then []
  else
    let lo := a / 1024
    let hi := (a + n - 1) / 1024
    ((List.range (hi + 1 - lo)).filterMap fun k =>
      match s.spAt g 0 (.ofNat 64 ((lo + k) * 1024)) with
      | .page pa => some (tileOf pa)
      | _ => none).eraseDups

/-- A range operation enters the outbound queue and completes at issue; its data is the length of its range, by which a SHOOT counts it (14 R321). -/
def rangeOp (i : Instr) (op a b : Nat) (s : State) : Out :=
  withIssue i s fun c s =>
    let ea := c.g.s a
    let n := (c.g.s b).toNat
    let put (s : State) (tiles : List Nat) : Out :=
      let (u, s) := s.fresh
      let e : Entry := { uid := u, kind := .range op tiles, lane := 128, mask := c.act, pc := c.a, va := ea, loc := .nowhere, n := 0,
                         data := n, acq := 0, rel := 0, far := false, stage := .queued, val := 0, extAt := [], acqOk := true }
      .next ((s.modGrp c.g.id fun g => { g with obq := g.obq ++ [e] }).done c)
    match apert ea with
    | .trans =>
      if transEnd ea.toNat < ea.toNat + n then .next (s.trapExec c Cause.prot c.l0 ea)
      else put s (s.rangeTiles c.g ea.toNat n)
    | .priv o =>
      let size := ((s.grpGrid? c.g).map Grid.privSize).getD 0
      if n != 0 && size < o + n then .next (s.trapExec c Cause.prot c.l0 ea)
      else put s (((List.range n).map fun k => tileOf (privAddr c.g.priv c.l0 (o + k))).eraseDups)
    | _ => .next (s.trapExec c Cause.prot c.l0 ea)

/-- SPCLEAN (07 R165). -/
def execSpclean (h : Hdr) (a b : Nat) (s : State) : Out := rangeOp (.spclean h a b) 0 a b s
/-- SPINV (07 R165). -/
def execSpinv (h : Hdr) (a b : Nat) (s : State) : Out := rangeOp (.spinv h a b) 1 a b s
/-- SPFLUSH (07 R165). -/
def execSpflush (h : Hdr) (a b : Nat) (s : State) : Out := rangeOp (.spflush h a b) 2 a b s

end Sys2Proof.Machine
end

