-- ==== Sys2Proof/Machine/Record.lean ====
section
/-! DEFINITION. Record.lean: accesses that an instruction or an engine makes at a home point within its own step (log 22), user
queues, the completion ring, handles and completion records (10 R217, R218, R220-R223, R228). -/

namespace Sys2Proof.Machine

open Sys2Proof

/-! ### Accesses at a home point within a step -/

/-- An access from die d to n bytes at pa can be made now: nothing of its source or of its lane is still on the way there, what
its stamp asks for is applied (08 R173, R174), accesses and pulls accepted earlier at the tile are applied and none of a better place in front order
was applied in this cycle, which the front has not closed (07 R155, R156), no engine owns the bytes (08 R176), and the home answers: a peer's where its
link is up (15 R347). -/
def State.directOk (s : State) (src d pa n : Nat) (write : Bool) (job : Nat := 0) : Bool :=
  let h := homeDie pa
  if 4 ≤ h then !s.peerDown pa
  else
    !s.outranked { blankReq with src, srcDie := d, home := h, loc := .mem pa 0, n } &&
    s.acceptCycle (homeQuad pa) == (s.die h).cycle &&
    !s.dieDown h && !s.repairing pa &&
    !s.owned (.mem pa 0) n job &&
    !(s.quad (homeQuad pa)).busyAt (tileOf pa) &&
    (if h = d then !s.net.any fun r => r.home == h && r.srcDie == d && r.src == src && tileOf r.pa == tileOf pa
     else
       let t := (s.die d).dep
       (nth (s.die h).applyq d).isEmpty && (!s.net.any fun r => r.home == h && r.srcDie == d) && !(write && s.writeBlocked d h) &&
         (List.range 5).all fun x => depAt t x h ≤ depAt (s.die h).dep x h)

/-- The tables after such an access and its reply (08 R174). -/
def State.directTbl (s : State) (d pa : Nat) (write : Bool) : State :=
  let h := homeDie pa
  if h = d ∨ 4 ≤ h then s
  else
    let td := (s.die d).dep
    let td := if write then depSet td d h (depAt td d h + 1) else td
    let th := (s.die h).dep
    let th := if write then depMerge (depSet th d h (depAt td d h)) td h else th
    let s := s.setDie h { s.die h with dep := th }
    s.setDie d { s.die d with dep := depMerge td th d }

/-- Such an access touches its tile, unless a stack core makes it (07 R151). -/
def State.directTouch (s : State) (src d pa n : Nat) : State :=
  if !canHold pa || (3000 ≤ src && src < 4000) then s
  else
    let r := { blankReq with src, srcDie := d, home := homeDie pa, loc := .mem pa 0, n }
    (s.insertIfTouched (homeQuad pa) r pa).touch (homeQuad pa) r pa

/-- Reads n bytes at their home point; `quiet` reads, of descriptors and tables, touch nothing (10 R229). -/
def State.directRead (s : State) (src d pa n : Nat) (job : Nat := 0) (quiet : Bool := false) : Option (Nat × State) :=
  if s.directOk src d pa n false job then some (s.homeRead pa n, (if quiet then s else s.directTouch src d pa n).directTbl d pa false) else none

/-- Writes n bytes at their home point; reservations on the block end, and the host gives up the line (08 R193, 15 R342). -/
def State.directWrite (s : State) (src d pa n v : Nat) (job : Nat := 0) : Option State :=
  if !s.directOk src d pa n true job then none
  else
    let s := ((s.directTouch src d pa n).homeWrite (leCells pa n v)).directTbl d pa true
    some ((s.hostGone pa n).killResv (.mem pa 0) n 0 0 0 128 true)

/-- The physical address of a structure that the driver keeps resident; none raises PROT (10 R217). -/
def State.devPa (s : State) (ctx : Nat) (va : Nat) (k : AccKind) : Option Nat :=
  match s.permit (s.walk ctx va) va k with
  | .ok base _ e => some (pteFrame e + (va - base))
  | .fail .. => none

/-! ### User queues (10 R217, R218) -/

structure QHdr where
  pa   : Nat
  base : Nat
  wr   : Nat
  rd   : Nat
  lsz  : Nat
  cons : Nat
  die  : Nat
  quad : Nat
  deriving DecidableEq, Repr

/-- The header of queue q of a context, of its 64. -/
def State.qhdr (s : State) (ctx q : Nat) : Option QHdr :=
  if 64 ≤ q then none
  else (s.devPa ctx ((s.desc ctx).qtab + 64 * q) 1).map fun pa =>
    let w := s.homeRead pa 32
    ⟨pa, fld w 0 64, fld w 64 64, fld w 128 64, fld w 192 8, fld w 204 4, fld w 208 2, fld w 210 2⟩

/-- Neither lsz nor cons disables it. -/
def QHdr.enabled (h : QHdr) : Bool := 6 ≤ h.lsz && h.lsz ≤ 16 && h.cons ≤ 1

/-- Virtual address of slot w. -/
def QHdr.slot (h : QHdr) (w : Nat) : Nat := h.base + 64 * (w % 2 ^ h.lsz)

def QHdr.full (h : QHdr) : Bool := 2 ^ h.lsz ≤ (h.wr + 2 ^ 64 - h.rd) % 2 ^ 64

/-- The engine request of one packet, as drydown counts it (03 R74). -/
def pktId (ctx q w : Nat) : Nat := 2 * ((ctx * 64 + q) * 2 ^ 64 + w) + 1
/-- The engine request of one matrix request. -/
def reqId (uid : Nat) : Nat := 2 * uid

/-- A packet's consumer accepts it: the request is performed at every scope (08 R176). -/
def State.packetTaken (s : State) (id : Nat) : State :=
  (s.groups.flatMap fun g => (g.obq.filter fun e => e.kind == .engine id && e.stage == .left).map fun e => (g.id, e.uid)).foldl
    (fun s x => s.perform x.1 x.2 0) s

/-- An engine request is finished for every group that counts it. -/
def State.engineDone (s : State) (id : Nat) : State :=
  { s with groups := s.groups.map fun g => { g with engines := g.engines.filter (· != id) } }

/-! ### Handles (10 R220-R223) -/

def hSeq (h : W64) : Nat := h.toNat / 2 ^ 12 % 2 ^ 32
def hIdx (h : W64) : Nat := h.toNat % 2 ^ 12
def hTag (h : W64) : Nat := h.toNat / 2 ^ 48

/-- Sequence number a is newer than b: a signed difference modulo 2^32 - 1. -/
def seqNewer (a b : Nat) : Bool :=
  let m := 2 ^ 32 - 1
  let d := (a + m - b % m) % m
  d != 0 && d ≤ (m - 1) / 2

/-- Word 0 of a ring entry's address. -/
def State.ringPa (s : State) (ctx idx : Nat) (k : AccKind) : Option Nat := s.devPa ctx ((s.desc ctx).ring + 32 * idx) k

/-- What a handle's record is (10 R222, R223). -/
inductive Rec where
  | noPage
  | bad
  | pending
  | expired
  | valid (pa : Nat)
  deriving DecidableEq, Repr

/-- A non-zero handle's record. -/
def State.record (s : State) (ctx : Nat) (h : W64) : Rec :=
  match s.ringPa ctx (hIdx h) 0 with
  | none => .noPage
  | some pa =>
    let w := s.homeRead pa 8
    let seq := fld w 32 32
    if hTag h != (s.desc ctx).tag || fld h.toNat 44 4 != 0 || hSeq h = 0 || seqNewer (hSeq h) seq then .bad
    else if seqNewer seq (hSeq h) then .expired
    else if fld w 0 8 = 0 then .pending else .valid pa

/-- The record is valid or the handle has expired. -/
def Rec.isOver : Rec → Bool
  | .expired | .valid _ => true
  | _ => false

/-- A record read at issue needs its home to answer and what the reader's die has seen there. -/
def State.recordOk (s : State) (src d ctx : Nat) (h : W64) : Bool :=
  match s.ringPa ctx (hIdx h) 0 with
  | none => true
  | some pa => s.directOk src d pa 32 false

def State.recordSeen (s : State) (src d ctx : Nat) (h : W64) : State :=
  match s.ringPa ctx (hIdx h) 0 with
  | none => s
  | some pa => (s.directTouch src d pa 32).directTbl d pa false

/-- What an attempt to allocate or claim gives: no translation, not possible yet, refused, or done. -/
inductive Try where
  | prot
  | wait
  | no
  | ok (h : W64) (s : State)

/-- The handle that allocation number n makes. -/
def newHandle (tag n : Nat) : W64 := .ofNat 64 (2 ^ 48 * tag + 2 ^ 12 * (n / 4096 % (2 ^ 32 - 1) + 1) + n % 4096)

/-- The entry at n mod 4096 is free: it never held a record, or its record is valid. -/
def State.ringFree (s : State) (ctx pa : Nat) : Bool := !(s.ctxD ctx).ringUsed || s.homeRead pa 1 != 0

/-- Allocates a handle alone (10 R220). -/
def State.alloc (s : State) (src d ctx : Nat) : Try :=
  let c := s.ctxD ctx
  match s.ringPa ctx (c.allocN % 4096) 1 with
  | none => .prot
  | some pa =>
    if !s.directOk src d pa 8 true then .wait
    else if !s.ringFree ctx pa then .no
    else
      let h := newHandle (s.desc ctx).tag c.allocN
      match s.directWrite src d pa 8 (2 ^ 32 * hSeq h) with
      | none => .wait
      | some s => .ok h (s.setCtx { s.ctxD ctx with allocN := (c.allocN + 1) % 2 ^ 64, ringUsed := c.ringUsed || c.allocN % 4096 == 4095 })

/-- Claims the next slot of an enabled queue (10 R218); the handle answered is the slot index. -/
def State.claim (s : State) (src d : Nat) (q : QHdr) : Try :=
  if q.full then .no
  else match s.directWrite src d (q.pa + 8) 8 (q.wr + 1) with
    | none => .wait
    | some s => .ok (.ofNat 64 q.wr) s

/-- Allocation and claim as one step (10 R228); answers the handle, the slot index being the header's wr. -/
def State.allocClaim (s : State) (src d ctx : Nat) (q : QHdr) : Try :=
  match s.ringPa ctx ((s.ctxD ctx).allocN % 4096) 1 with
  | none => .prot
  | some pa =>
    if !s.directOk src d pa 8 true || !s.directOk src d (q.pa + 8) 8 true then .wait
    else if !s.ringFree ctx pa || q.full then .no
    else match s.claim src d q with
      | .ok _ s => s.alloc src d ctx
      | r => r

/-! ### Completion records (10 R221) -/

/-- prod: type 0 copy engine, 1 matrix engine, 2 dispatcher, 3 stack task. -/
def prodOf (type die quad unit : Nat) : Nat := 2 ^ 12 * type + 2 ^ 10 * die + 2 ^ 8 * quad + unit

structure RecVal where
  status : Nat
  fcode  : Nat
  prod   : Nat
  aux    : Nat
  count  : Nat
  ffa    : W64

/-- Writes the record of a handle, body first and word 0 as a release, from die d; a handle that names no pending record is
dropped. None where it cannot be written yet. -/
def State.putRecord (s : State) (src d ctx : Nat) (h : W64) (v : RecVal) : Option State :=
  if h = 0 then some s
  else match s.record ctx h, s.ringPa ctx (hIdx h) 1 with
    | .pending, some pa =>
      let w := v.status + 2 ^ 8 * v.fcode + 2 ^ 16 * v.prod + 2 ^ 32 * hSeq h + 2 ^ 64 * (v.aux % 2 ^ 64) +
        2 ^ 128 * (v.count % 2 ^ 64) + 2 ^ 192 * v.ffa.toNat
      (s.directWrite src d pa 32 w).map fun s => let c := s.ctxD ctx; s.setCtx { c with cancels := c.cancels.filter (· != h) }
    | _, _ => some s

end Sys2Proof.Machine
end

