-- ==== Sys2Proof/Machine/Flags.lean ====
section
/-! DEFINITION. Flags.lean: how floating instructions collect FPF and commit it with their result (05 R104), and their
common frame (05 R105, R106). -/

namespace Sys2Proof.Machine

open Sys2Proof

/-- The flags of some lanes together. -/
def flOr (xs : List FRes) : Fl := xs.foldl (fun a r => a ||| r.2) 0

/-- The flags of the active lanes; a U form has those of its one computation (05 R104). -/
def laneFlags (c : Issue) (f : Nat → FRes) : Fl :=
  if c.h.u then (f c.l0).2 else flOr ((lanesOf c.act).map f)

/-- The draw of rho for lane l of this instruction (05 R102): fresh for each lane. -/
def rhoAt (s : State) (l : Nat) : Nat := Config.freeNat (s.free + l) % 65536
/-- The draws of one instruction are used up. -/
def State.drew (s : State) : State := { s with free := s.free + 128 }

/-- A floating instruction with a vector result (05 R105-R107). -/
def aluFp (i : Instr) (f : FTy) (o : Ops) (lat : Nat) (fn : Args → FRes) (s : State) : Out :=
  withIssue i s fun c s =>
    let g := c.g
    let w := f.regs == 2
    let r := fun l => fn (g.args o w w w l)
    let wr := emitVec c w o.d (g.uniOps o w w w) none (fun l => .ofNat 64 (r l).1)
    .next ((s.fixed c lat (wr ++ [.fpf (laneFlags c r)])).done c)

end Sys2Proof.Machine
end

