-- ==== Sys2Proof/Machine/Memory.lean ====
section
/-! DEFINITION. Memory.lean: the memory class, atomics, LR, SC and FENCE at issue (06 R124-R148, 08 R186-R192). Each active
lane completes, waits or is out of range; completed lanes' accesses enter the outbound queue (08 R170). Full/empty
conditions of loads are tested at issue, with what the group's own queue will still do to the granule (log 20). -/

namespace Sys2Proof.Machine

open Sys2Proof

/-! ### Addresses (06 R136) -/

/-- An effective address: a window offset of LDS, STS and ATOMS, or a 64-bit address. -/
inductive Adr where
  | off (o : W32)
  | ea (a : W64)
  deriving DecidableEq, Repr

/-- The address as TRAPC, fault records and SPOOBA name it (06 R131, R136). -/
def Adr.va : Adr → W64
  | .off o => .ofNat 64 (windowBase + o.toNat)
  | .ea a => a

/-- Operands that form addresses. -/
structure AdrOps where
  win : Bool
  a   : Nat
  xa  : Pat
  b   : Nat
  xb  : Pat
  bv  : Bool
  ix  : Nat
  nx  : Bool
  sh  : Nat
  off : Int

def AdrOps.adr (o : AdrOps) (g : Group) (l : Nat) : Adr :=
  let idx : W32 := if o.ix = 0 then 0 else g.xread o.b ⟨o.xb, o.xb.implied⟩ 0 l
  let sh := if o.ix = 1 then o.sh else 0
  if o.win then
    let base : W32 := if o.bv then g.xread o.a ⟨o.xa, o.xa.implied⟩ 0 l else lo32 (g.s o.a)
    .off (base + (idx <<< sh) + .ofInt 32 o.off)
  else
    let base := if o.bv then g.xpair o.a ⟨o.xa, o.xa.implied⟩ 0 l else g.s o.a
    let i : W64 := if o.nx then idx.zeroExtend 64 else idx.signExtend 64
    .ea (base + (i <<< sh) + .ofInt 64 o.off)

def log2Size (sz : Nat) : Nat :=
  match sz with
  | 0 | 1 => 0 | 2 | 3 => 1 | 4 => 2 | 5 => 3 | _ => 4

def memAdr (o : MemOp) (win : Bool) (sh : Nat) : AdrOps :=
  ⟨win, o.a, o.xa, o.b, o.xb, o.bv, o.ix, o.nx, sh, o.off.toInt⟩

def atomAdr (o : AtomOp) (win : Bool) : AdrOps :=
  ⟨win, o.a, o.xa, o.b, o.xb, o.bv, o.ix, o.nx, if o.w64 then 3 else 2, o.off.toInt⟩

/-! ### Where a lane's access goes -/

/-- What becomes of one lane's access: an address fault (06 R125), out of range (R131), a granule or bytes of a team's
window, pieces of physical memory with their class, or a failed translation (R144). -/
inductive Tgt where
  | prot
  | oob
  | pad (team off : Nat)
  | mem (pieces : List (Nat × Nat)) (cls : Nat)
  | fault (w : Walk)
  deriving DecidableEq, Repr

/-- A team window offset: in range, or not (06 R131). -/
def Team.tgt (t : Team) (o n : Nat) : Tgt := if o + n ≤ t.size then .pad t.id o else .oob

/-- Pieces of a private access: 4 bytes each beyond 4 (06 R128). -/
def privPieces (base l o n : Nat) : List (Nat × Nat) :=
  if n ≤ 4 then [(privAddr base l o, n)] else (List.range (n / 4)).map fun k => (privAddr base l (o + 4 * k), 4)

/-- The target of a lane's n-byte access. `aligned` is whether R125's alignment rule applies. -/
def State.tgt (s : State) (g : Group) (k : AccKind) (aligned : Bool) (l : Nat) (a : Adr) (n : Nat) : Tgt :=
  if aligned && a.va.toNat % n != 0 then .prot
  else match a with
    | .off o => match s.grpTeam? g with
      | some t => t.tgt o.toNat n
      | none => .prot
    | .ea ea =>
      match apert ea, s.grpTeam? g with
      | .none, _ | _, none => .prot
      | .team o, some t => t.tgt o n
      | .clu c o, some t => match s.rank? t c with
        | some u => u.tgt o n
        | none => .prot
      | .priv o, some _ =>
        if ((s.grpGrid? g).map Grid.privSize).getD 0 < o + n then .prot else .mem (privPieces g.priv l o n) 0
      | .trans, some _ =>
        let ctx := s.grpCtx g
        match s.permit (s.lookup (some g.core) g.die ctx ea.toNat (s.free + l)) ea.toNat k (s.inWindow ctx ea.toNat) with
        | .ok base size e =>
          let cls := pteClass e + (if s.inWindow ctx ea.toNat then 4 else 0)
          if base + size < ea.toNat + n then .fault (.fail 0 (base + size) size)
          else .mem [(pteFrame e + (ea.toNat - base), n)] cls
        | w => .fault w

/-- The targets of the active lanes. -/
abbrev Tgts := List (Nat × Adr × Tgt)

def State.tgts (s : State) (c : Issue) (k : AccKind) (aligned : Bool) (o : AdrOps) (n : Nat) : Tgts :=
  (lanesOf c.act).map fun l => let a := o.adr c.g l; (l, a, s.tgt c.g k aligned l a n)

/-- R125: the lowest failing lane; `fe` asks for windows (R139). -/
def badLane (ts : Tgts) (fe : Bool) : Option (Nat × Adr) :=
  (ts.find? fun t => match t.2.2 with
    | .prot => true
    | .mem .. | .fault _ => fe
    | _ => false).map fun t => (t.1, t.2.1)

/-- Valid translations used go into the translation caches (14 R320). -/
def State.cacheAll (s : State) (g : Group) (ts : Tgts) : State :=
  let ctx := s.grpCtx g
  ((ts.filterMap fun t => match t.2.1, t.2.2 with
    | .ea a, .mem .. => if apert a == .trans then some (s.walk ctx a.toNat) else none
    | _, _ => none).eraseDups).foldl (fun s w => s.cacheTlb (some g.core) g.die ctx w) s

/-! ### Fault records (06 R144) -/

def Tgt.walk? : Tgt → Option Walk
  | .fault w => some w
  | _ => none

/-- One record a page, in ascending order of the lowest waiting lane (17 R370); answers the record of each page. With `all`, one access stands
for the whole group, and every active lane waits for it (06 R140). -/
def State.makeFaults (s : State) (c : Issue) (k : AccKind) (ts : Tgts) (all : Bool := false) : List (Walk × Nat) × State :=
  let pages := (ts.filterMap fun t => t.2.2.walk?).eraseDups
  pages.foldl (fun (acc, s) w =>
    let (u, s) := s.fresh
    let mine := ts.filter fun t => t.2.2.walk? == some w
    let (base, size, cause) := match w with
      | .fail ca b z => (b, z, ca)
      | .ok b z _ => (b, z, 0)
    let g := c.g
    let va : W64 := ((mine.head?).map (·.2.1.va)).getD 0
    let f : FaultRec :=
      { uid := u, seq := none, va := va, pc := c.a, grid := s.gridId g, lanes := if all then (lanesOf c.act).length else mine.length, slot := g.slot,
        core := g.core % 12, quad := g.core / 12 % 4, die := g.die, cause := cause, acc := k, page := base, psize := size,
        who := 0, grp := g.id, checked := false }
    let ctx := s.ctxD (s.grpCtx g)
    (acc ++ [(w, u)], s.setCtx { ctx with faults := ctx.faults ++ [f] })) ([], s)

/-! ### SPOOB and DONEM (06 R131, R143) -/

/-- The lowest out-of-range lane latches. -/
def Group.latchOob (g : Group) (ts : Tgts) : Group :=
  match ts.find? fun t => t.2.2 == .oob with
  | none => g
  | some t => if g.spoob then g else { g with spoob := true, spooba := t.2.1.va }

def Group.markDone (g : Group) (done wait : Mask) : Group := { g with donem := (g.donem ||| done) &&& ~~~wait }

def maskIn (ls : List Nat) : Mask := maskOf ls.contains

/-! ### Full/empty conditions (06 R139) -/

/-- The window granule of a target. -/
def Tgt.gran : Tgt → Option (Nat × Nat)
  | .pad t o => some (t, o / 16)
  | _ => none

def State.granFull (s : State) (g : Nat × Nat) : Bool := ((s.team? g.1).map fun t => t.full.contains g.2).getD false

/-- A granule as an access of the group would find it: what the last of its own full/empty accesses that have not reached the bank leaves, or else
the bit itself. -/
def State.granSeen (s : State) (g : Group) (k : Nat × Nat) : Bool :=
  match g.obq.reverse.find? fun e => (match e.kind, e.loc with
    | .fe (some _), .pad t o | .feload true, .pad t o => t == k.1 && o / 16 == k.2 && (e.stage == .queued || e.stage == .left)
    | _, _ => false) with
  | some e => e.kind == .fe (some true)
  | none => s.granFull k

/-- Lanes of a `.fw` (fc false) or `.fc` load that wait: their granule is empty, or a lower lane of the load clears it. -/
def State.feWaits (s : State) (c : Group) (fc : Bool) (ts : Tgts) : List (Nat × Nat × Nat) :=
  (ts.zip (List.range ts.length)).filterMap fun (t, i) =>
    match t.2.2.gran with
    | none => none
    | some g =>
      if !s.granSeen c g || (fc && (ts.take i).any fun u => u.2.2.gran == some g) then some (t.1, g) else none

def State.setGran (s : State) (g : Nat × Nat) (b : Bool) : State :=
  match s.team? g.1 with
  | some t => s.setTeam (t.setFull (g.2 * 16) b)
  | none => s

/-! ### Entering the queue -/

/-- An entry for one piece of one lane's access. -/
def mkEntry (c : Issue) (uid : Nat) (k : EKind) (l : Nat) (va : W64) (loc : Loc) (n data acq rel : Nat) (far : Bool) : Entry :=
  { uid, kind := k, lane := l, mask := c.act, pc := c.a, va, loc, n, data, acq, rel, far, stage := .queued, val := 0, extAt := [],
    acqOk := acq == 0 }

/-- Passes that accesses to windows take: the most granules in one bank of one core (06 R130). -/
def State.padPasses (s : State) (ls : List Loc) : Nat :=
  let gs := (ls.filterMap fun l => match l with
    | .pad t o => some (((s.team? t).map (·.core)).getD 0, t, o / 16)
    | _ => none).eraseDups
  gs.foldl (fun m g => max m ((gs.filter fun x => x.1 == g.1 && x.2.2 % 64 == g.2.2 % 64).length)) 0

/-- Loads and stores of private memory are made in pieces of 4 bytes (06 R128). -/
def EKind.splits : EKind → Bool
  | .load | .store => true
  | _ => false

/-- The entries of the completing lanes, in ascending lane order; answers their identities. `whole` marks those that complete together. -/
def State.enqueue (s : State) (c : Issue) (ts : Tgts) (k : Nat → EKind) (n acq rel : Nat) (far : Bool) (data : Nat → Nat) (whole : Bool := false) :
    List Nat × State :=
  let pieces := ts.flatMap fun t => match t.2.2 with
    | .pad tm o => [(t.1, t.2.1.va, Loc.pad tm o, n, data t.1)]
    | .mem ps cls =>
      if (k t.1).splits then
        (ps.zip (List.range ps.length)).map fun (p, i) => (t.1, t.2.1.va, Loc.mem p.1 cls, p.2, data t.1 / 2 ^ (8 * 4 * i) % 2 ^ (8 * p.2))
      else (ps.take 1).map fun p => (t.1, t.2.1.va, Loc.mem p.1 cls, n, data t.1)
    | _ => []
  let ids := (List.range pieces.length).map (s.nextId + ·)
  let es := (pieces.zip ids).map fun (p, u) =>
    { mkEntry c u (k p.1) p.1 p.2.1 p.2.2.1 p.2.2.2.1 p.2.2.2.2 acq rel far with inst := s.nextId, whole }
  let s := s.bumpCore c.g.core 0x06 (s.padPasses (pieces.map (·.2.2.1)) - 1)
  (ids, { s with nextId := s.nextId + pieces.length }.modGrp c.g.id fun g => { g with obq := g.obq ++ es })

/-- A die that answers for its homes: loads, atomics, LR and SC to it take HOMEDOWN (06 R147, 15 R350). -/
def State.homeDown (s : State) (t : Tgt) : Bool :=
  match t with
  | .mem ps _ => ps.any fun p => s.dieDown (homeDie p.1)
  | _ => false

/-- The wait of each lane that does not complete. -/
def waitOf (faults : List (Walk × Nat)) (fe : List (Nat × Nat × Nat)) (ts : Tgts) (l : Nat) : Option Wait :=
  match ts.find? (·.1 == l) with
  | none => none
  | some t =>
    match t.2.2.walk? with
    | some w => (faults.find? (·.1 == w)).map fun x => .fault x.2
    | none => (fe.find? (·.1 == l)).map fun x => .fe x.2.1 x.2.2

/-- Finishes an instruction whose lanes in `down` meet a home that is down: they stay, and the trap follows. -/
def State.finishMem (s : State) (c : Issue) (ts : Tgts) (wait : Nat → Option Wait) (upd : Group → Group) : State :=
  let down := ts.filter fun t => s.homeDown t.2.2 && (wait t.1).isNone
  let waiting := maskOf fun l => c.act.getLsbD l && (wait l).isSome
  let downM := maskIn (down.map (·.1))
  let s := s.modGrp c.g.id fun g => (upd g).markDone (c.act &&& ~~~waiting &&& ~~~downM) (waiting ||| downM)
  let s := s.finish c (fun l => if downM.getLsbD l then some c.a else none) wait 8
  match down.head? with
  | none => s
  | some t => s.raiseTrap c.g.id (c.trapSt Cause.homeDown c.act 0xFF t.2.1.va false 0)

/-- The instruction reads its destination through a non-identity pattern, as a base or an index (06 R146). -/
def crossedDst (o : AdrOps) (d w : Nat) : Bool :=
  let hit (r n : Nat) : Bool := r < d + w && d < r + n
  (o.bv && o.xa != .id && hit o.a (if o.win then 1 else 2)) || (o.ix != 0 && o.xb != .id && hit o.b 1)

/-- An access that nothing earlier holds back, by default an atomic, on n bytes of a window (09 R195, log 20). -/
def State.padFree (s : State) (g : Group) (loc : Loc) (n acq rel : Nat) (kind : EKind := .atom 0 false 0) : Bool :=
  let e : Entry := { uid := 0, kind, lane := 128, mask := 0, pc := 0, va := 0, loc, n, data := 0, acq, rel, far := false,
                     stage := .queued, val := 0, extAt := [], acqOk := true }
  !s.heldBack g g.obq.length e false && !s.owned loc n 0

/-- Nothing earlier holds back a full/empty load of some lanes, and no engine owns their granules. -/
def State.feFree (s : State) (g : Group) (ord : Nat) (fc : Bool) (ts : Tgts) : Bool :=
  ts.all fun t => match t.2.2 with
    | .pad tm off => s.padFree g (.pad tm (off / 16 * 16)) 16 ord 0 (.feload fc)
    | _ => true

/-- The entries of a full/empty load whose lanes complete: they reach their banks at once where nothing holds them back, else they leave the queue
later as any access does (06 R139, 08 R170). -/
def State.feReach (s : State) (s0 : State) (c : Issue) (ord : Nat) (fc : Bool) (go : Tgts) (ids : List Nat) : State :=
  if !s0.feFree c.g ord fc go then s
  else ids.foldl (fun s u => match (s.grp? c.g.id).bind (·.ent? u) with
    | some e => s.atBank c.g e
    | none => s) s

/-- No lane completes: the group takes HOMEDOWN with every active lane at the instruction (06 R146, R147). -/
def State.allDown (s : State) (c : Issue) (va : W64) : State :=
  let s := (s.modGrp c.g.id fun g => g.markDone 0 c.act).finish c (fun _ => some c.a) (fun _ => none) 8
  s.raiseTrap c.g.id (c.trapSt Cause.homeDown c.act 0xFF va false 0)

/-- The address of the lowest lane whose home is down, where the lanes complete together (06 R146). -/
def State.downTogether (s : State) (crossed : Bool) (ts : Tgts) : Option W64 :=
  if crossed then (ts.find? fun t => s.homeDown t.2.2).map (·.2.1.va) else none

/-- Loads of vectors (06 R137, R139, R143, R146). -/
def loadVec (i : Instr) (o : MemOp) (win : Bool) (s : State) : Out :=
  withIssue i s fun c s0 =>
    let n := szBytes o.sz
    let ao := memAdr o win (log2Size o.sz)
    let ts := s0.tgts c 0 true ao n
    match badLane ts (o.fe != 0) with
    | some (l, a) => .next (s0.trapExec c Cause.prot l a.va)
    | none =>
      let s := s0.drew
      let fe := if o.fe = 0 then [] else s.feWaits c.g (o.fe = 2) ts
      let (faults, s) := s.makeFaults c 0 ts
      let crossed := crossedDst ao o.d (szRegs o.sz)
      let s := s.cacheAll c.g ts
      if crossed && (!faults.isEmpty || !fe.isEmpty) then
        .next (s.finishMem c [] (fun _ => some (.joint (faults.map (·.2)) (fe.map (·.2)))) id)
      else if let some va := s.downTogether crossed ts then .next (s.allDown c va)
      else
        let wait := waitOf faults fe ts
        let go := ts.filter fun t => (wait t.1).isNone && !s.homeDown t.2.2
        let (ids, s) := s.enqueue c go (fun _ => if o.fe = 0 then .load else .feload (o.fe == 2)) n o.ord 0 o.far (fun _ => 0) crossed
        let s := if o.fe = 0 then s else s.feReach s0 c o.ord (o.fe == 2) go ids
        let zero := maskIn ((go.filter fun t => t.2.2 == .oob).map (·.1))
        let wr : List Wr := .ld o.d o.sz :: (if zero = 0 then [] else (List.range (szRegs o.sz)).map fun k => .vlanes (o.d + k) zero (mkLanes fun _ => 0))
        let s := if go.isEmpty then s else s.locked c ids wr
        .next (s.finishMem c ts wait (·.latchOob go))

/-- Low n bytes of a lane's store data (06 R138). -/
def storeData (g : Group) (d sz l : Nat) : Nat :=
  joinWords ((List.range (szRegs sz)).map fun k => (g.xread (d + k) ⟨.id, 0⟩ 0 l).toNat) % 2 ^ (8 * szBytes sz)
where
  joinWords : List Nat → Nat
    | [] => 0
    | w :: ws => w + 2 ^ 32 * joinWords ws

/-- Stores of vectors (06 R138). -/
def storeVec (i : Instr) (o : MemOp) (win : Bool) (s : State) : Out :=
  withIssue i s fun c s =>
    let n := szBytes o.sz
    let ts := s.tgts c 1 true (memAdr o win (log2Size o.sz)) n
    match badLane ts false with
    | some (l, a) => .next (s.trapExec c Cause.prot l a.va)
    | none =>
      let s := s.drew
      let (faults, s) := s.makeFaults c 1 ts
      let s := s.cacheAll c.g ts
      let wait := waitOf faults [] ts
      let go := ts.filter fun t => (wait t.1).isNone
      let (_, s) := s.enqueue c go (fun _ => .store) n 0 o.ord o.far (storeData c.g o.d o.sz)
      let upd (g : Group) : Group := g.latchOob go
      let waiting := maskOf fun l => c.act.getLsbD l && (wait l).isSome
      let s := s.modGrp c.g.id fun g => (upd g).markDone (c.act &&& ~~~waiting) waiting
      .next (s.finish c (fun _ => none) wait 8)

/-- LD (06 R137). -/
def execLd (h : Hdr) (o : MemOp) (s : State) : Out := loadVec (.ld h o) o false s
/-- LDS (06 R137). -/
def execLds (h : Hdr) (o : MemOp) (s : State) : Out := loadVec (.lds h o) o true s
/-- ST (06 R138). -/
def execSt (h : Hdr) (o : MemOp) (s : State) : Out := storeVec (.st h o) o false s
/-- STS (06 R138). -/
def execSts (h : Hdr) (o : MemOp) (s : State) : Out := storeVec (.sts h o) o true s

/-- The one access of LDU and STU, by the lowest active lane (06 R140). -/
def State.oneTgt (s : State) (c : Issue) (k : AccKind) (o : MemOp) (n : Nat) : Tgts :=
  let a : Adr := .ea (c.g.s o.a + .ofInt 64 o.off.toInt)
  [(c.l0, a, s.tgt c.g k true c.l0 a n)]

/-- LDU (06 R140): one access; a wait holds every active lane. -/
def execLdu (h : Hdr) (o : MemOp) (s : State) : Out :=
  withIssue (.ldu h o) s fun c s0 =>
    let n := szBytes o.sz
    let ts := s0.oneTgt c 0 o n
    match badLane ts (o.fe != 0) with
    | some (l, a) => .next (s0.trapExec c Cause.prot l a.va)
    | none =>
      let s := s0.drew
      let fe := if o.fe = 0 then [] else s.feWaits c.g false ts
      let (faults, s) := s.makeFaults c 0 ts true
      let s := s.cacheAll c.g ts
      if !faults.isEmpty || !fe.isEmpty then
        .next (s.finishMem c [] (fun _ => some (.joint (faults.map (·.2)) (fe.map (·.2)))) id)
      else if let some va := s.downTogether true ts then .next (s.allDown c va)
      else
        let (ids, s) := s.enqueue c ts (fun _ => if o.fe = 0 then .load else .feload (o.fe == 2)) n o.ord 0 o.far (fun _ => 0) true
        let s := if o.fe = 0 then s else s.feReach s0 c o.ord (o.fe == 2) ts ids
        .next ((s.locked c ids [.ldu o.d o.sz o.bv]).finishMem c [] (fun _ => none) (·.latchOob ts))

/-- STU (06 R140). -/
def execStu (h : Hdr) (o : MemOp) (s : State) : Out :=
  withIssue (.stu h o) s fun c s =>
    let n := szBytes o.sz
    let ts := s.oneTgt c 1 o n
    match badLane ts false with
    | some (l, a) => .next (s.trapExec c Cause.prot l a.va)
    | none =>
      let s := s.drew
      let (faults, s) := s.makeFaults c 1 ts true
      let s := s.cacheAll c.g ts
      if !faults.isEmpty then .next (s.finishMem c [] (fun _ => some (.joint (faults.map (·.2)) [])) id)
      else
        let x := if o.bv then (c.g.s o.d).toNat % 2 ^ (8 * n) else storeData c.g o.d o.sz c.l0
        let (_, s) := s.enqueue c ts (fun _ => .store) n 0 o.ord o.far (fun _ => x) true
        .next (s.finishMem c [] (fun _ => none) (·.latchOob ts))

/-! ### FESET, FETEST, PF (06 R141, R142) -/

/-- FESET and FETEST act at the banks as entries of the queue do; the value is whether the granule was full. -/
def State.enqueueFe (s : State) (c : Issue) (ts : Tgts) (set : Option Bool) : List Nat × State :=
  s.enqueue c ts (fun _ => .fe set) 1 0 0 false (fun _ => 0)

/-- FETEST (06 R141): out of range answers empty. -/
def execFetest (h : Hdr) (o : MemOp) (s : State) : Out :=
  withIssue (.fetest h o) s fun c s =>
    let ts := s.tgts c 0 false (memAdr o false 4) 1
    match badLane ts true with
    | some (l, a) => .next (s.trapExec c Cause.prot l a.va)
    | none =>
      let (ids, s) := s.enqueueFe c ts none
      let oob := maskIn ((ts.filter fun t => t.2.2 == .oob).map (·.1))
      .next ((s.locked c ids [.pset o.d oob 0, .pbits o.d]).finishMem c [] (fun _ => none) (·.latchOob ts))

/-- PF's request for the line of a lane: near, into the L1; else to its home's spiral alone (06 R142). -/
def State.prefetch (s : State) (c : Issue) (near : Bool) (l : Nat) (va : W64) (pa cls : Nat) : State :=
  let (u, s) := s.fresh
  let (r, s) := s.fresh
  let e := { mkEntry c u .pf l va (.mem pa cls) 1 0 0 0 false with stage := if near then .filling else .left, val := r }
  (s.modGrp c.g.id fun g => { g with obq := g.obq ++ [e] }).send { entryReq c.g e pa cls r (if near then 1 else 0) false with kind := .load }

/-- PF (06 R142): R125's address faults only; lines that translate are brought near, and nothing else happens. Private memory is no window address to
it, and its line is brought near (DESIGN CHOICE, log 103). -/
def execPf (h : Hdr) (o : MemOp) (s : State) : Out :=
  withIssue (.pf h o) s fun c s =>
    let ts := s.tgts c 0 false (memAdr o false 0) 1
    match badLane ts false with
    | some (l, a) => .next (s.trapExec c Cause.prot l a.va)
    | none =>
      let s := s.drew
      let s := ts.foldl (fun s t => match t.2.2 with
        | .mem ((pa, _) :: _) cls =>
          if s.dieDown (homeDie pa) then s
          else
            let now := s.classNow c.g t.2.1.va cls
            s.prefetch c (o.sz == 0 && now != 4 && s.mayCache c.g t.2.1.va pa now false) t.1 t.2.1.va pa cls
        | _ => s) s
      .next (s.done c)

/-! ### Atomics, LR, SC (08 R186-R192) -/

def atomN (o : AtomOp) : Nat := if o.w64 then 8 else 4

/-- A lane's operand register, a pair for 8 bytes. -/
def laneVal (g : Group) (w64 : Bool) (r l : Nat) : Nat :=
  (if w64 then g.xpair r ⟨.id, 0⟩ 0 l else (g.xread r ⟨.id, 0⟩ 0 l).zeroExtend 64).toNat

/-- An atomic of each active lane (08 R189, R190). -/
def atomVec (i : Instr) (o : AtomOp) (win : Bool) (s : State) : Out :=
  withIssue i s fun c s0 =>
    let ts := s0.tgts c 2 true (atomAdr o win) (atomN o)
    match badLane ts false with
    | some (l, a) => .next (s0.trapExec c Cause.prot l a.va)
    | none =>
      let s := s0.drew
      let (faults, s) := s.makeFaults c 2 ts
      let s := s.cacheAll c.g ts
      let crossed := crossedDst (atomAdr o win) o.d o.w && !o.nr
      if crossed && !faults.isEmpty then
        .next (s.finishMem c [] (fun _ => some (.joint (faults.map (·.2)) [])) id)
      else if let some va := s.downTogether crossed ts then .next (s.allDown c va)
      else
        let wait := waitOf faults [] ts
        let go := ts.filter fun t => (wait t.1).isNone && !s.homeDown t.2.2
        let acq := if o.kind % 2 = 1 then o.scope else 0
        let rel := if 2 ≤ o.kind then o.scope else 0
        let e := fun l => if o.op = 7 then laneVal c.g o.w64 o.e l else 0
        let (ids, s) := s.enqueue c go (fun l => .atom o.op o.sgn (e l)) (atomN o) acq rel false (laneVal c.g o.w64 o.c) crossed
        let zero := maskIn ((go.filter fun t => t.2.2 == .oob).map (·.1))
        let direct : List Wr := if zero = 0 then [] else (List.range o.w).map fun k => .vlanes (o.d + k) zero (mkLanes fun _ => 0)
        let s := if o.nr || go.isEmpty then s else s.locked c ids (.ld o.d (if o.w64 then 5 else 4) :: direct)
        .next (s.finishMem c ts wait (·.latchOob go))

/-- ATOM (08 R189). -/
def execAtom (h : Hdr) (o : AtomOp) (s : State) : Out := atomVec (.atom h o) o false s
/-- ATOMS (08 R190). -/
def execAtoms (h : Hdr) (o : AtomOp) (s : State) : Out := atomVec (.atoms h o) o true s

/-- LR (08 R191): the lane's old reservation stands until the LR is performed, which an LR out of range is at once. -/
def execLr (h : Hdr) (o : AtomOp) (s : State) : Out :=
  withIssue (.lr h o) s fun c s =>
    let ao := atomAdr o false
    let ts := s.tgts c 0 true ao (atomN o)
    match badLane ts false with
    | some (l, a) => .next (s.trapExec c Cause.prot l a.va)
    | none =>
      let s := s.drew
      let (faults, s) := s.makeFaults c 0 ts
      let s := s.cacheAll c.g ts
      let crossed := crossedDst ao o.d o.w
      if crossed && !faults.isEmpty then
        .next (s.finishMem c [] (fun _ => some (.joint (faults.map (·.2)) [])) id)
      else if let some va := s.downTogether crossed ts then .next (s.allDown c va)
      else
        let wait := waitOf faults [] ts
        let go := ts.filter fun t => (wait t.1).isNone && !s.homeDown t.2.2
        let s := (go.filter fun t => t.2.2 == .oob).foldl (fun s t => s.endResv c.g.core c.g.id t.1) s
        let (ids, s) := s.enqueue c go (fun _ => .lr) (atomN o) (if o.kind = 1 then o.scope else 0) 0 false (fun _ => 0) crossed
        let zero := maskIn ((go.filter fun t => t.2.2 == .oob).map (·.1))
        let regs := if o.w64 then 2 else 1
        let direct : List Wr := if zero = 0 then [] else (List.range regs).map fun k => .vlanes (o.d + k) zero (mkLanes fun _ => 0)
        let s := if go.isEmpty then s else s.locked c ids (.ld o.d (if o.w64 then 5 else 4) :: direct)
        .next (s.finishMem c ts wait (·.latchOob go))

/-- The block that a lane's reservation names, as a virtual address. -/
def State.resvVa? (s : State) (core g lane : Nat) : Option Nat :=
  ((s.core core).resv.find? fun r => r.grp == g && r.lane == lane).map (·.va)

/-- SC (08 R192): a lane without a reservation on the block fails at once, without a fault record; issue waits for the
group's earlier LRs to be performed. The block is told at issue by its virtual address, so that an SC through another address of the same bytes fails
(DESIGN CHOICE, log 102). -/
def execSc (h : Hdr) (o : AtomOp) (s : State) : Out :=
  withIssue (.sc h o) s fun c s0 =>
    let ao := atomAdr o false
    let ts0 := s0.tgts c 2 true ao (atomN o)
    match badLane ts0 false with
    | some (l, a) => .next (s0.trapExec c Cause.prot l a.va)
    | none =>
      if c.g.obq.any (fun e => e.kind == .lr && e.stage != .done) then .next s0
      else
        let holds (t : Nat × Adr × Tgt) : Bool := s0.resvVa? c.g.core c.g.id t.1 == some (t.2.1.va.toNat / 16 * 16)
        let (ts, lost) := ts0.partition holds
        let s := s0.drew
        let (faults, s) := s.makeFaults c 1 ts
        let s := s.cacheAll c.g ts
        let wait := waitOf faults [] ts
        let go := ts.filter fun t => (wait t.1).isNone && !s.homeDown t.2.2 && t.2.2 != .oob
        let oob := ts.filter fun t => t.2.2 == .oob
        let s := (lost ++ oob).foldl (fun s t => s.endResv c.g.core c.g.id t.1) s
        let (ids, s) := s.enqueue c go (fun _ => .sc) (atomN o) 0 (if o.kind = 2 then o.scope else 0) false (laneVal c.g o.w64 o.c)
        let s := s.locked c ids [.pset o.d (maskIn ((lost ++ oob).map (·.1))) 0, .pbits o.d]
        .next (s.finishMem c ts wait (·.latchOob ts0))

/-- FENCE (08 R188): one marker for the whole group, whatever lanes are active. -/
def execFence (h : Hdr) (kind scope : Nat) (s : State) : Out :=
  withIssue (.fence h kind scope) s fun c s =>
    let (u, s) := s.fresh
    let e := mkEntry c u (.fence kind scope) 128 0 .nowhere 0 0 (if kind = 2 then 0 else scope) 0 false
    .next ((s.modGrp c.g.id fun g => { g with obq := g.obq ++ [e] }).done c)

end Sys2Proof.Machine
end

