-- ==== Sys2Proof/Machine/Sync.lean ====
section
/-! DEFINITION. Sync.lean: barrier, lock and channel objects at their banks (09 R194-R207, R211-R215), and QNT's ring (05
R116-R121). -/

namespace Sys2Proof.Machine

open Sys2Proof

/-! ### Objects as 128-bit numbers -/

/-- Replaces bits lo+w-1..lo of a number. -/
def setFld (x lo w v : Nat) : Nat := x % 2 ^ lo + 2 ^ lo * (v % 2 ^ w) + 2 ^ (lo + w) * (x / 2 ^ (lo + w))

def objKind (x : Nat) : Nat := fld x 38 2

/-- The reserved bits that instructions write as zero: 127:112 of a barrier or lock, R211's gaps of a channel. -/
def objClean (x : Nat) : Nat :=
  match objKind x with
  | 2 => setFld (setFld (setFld x 32 6 0) 64 16 0) 88 8 0
  | 1 => setFld (setFld x 32 6 0) 112 16 0
  | _ => setFld x 112 16 0

/-- An object write at its bank; it ends reservations of the block (08 R193). -/
def State.objWrite (s : State) (team off x grp : Nat) : State :=
  (s.padWrite team off 16 (objClean x)).killResv (.pad team off) 16 0 0 grp 128 true

/-- Lanes that wait in an object instruction complete it: they become ready behind it. -/
def Group.release (g : Group) (id : Nat) (next : W32) : Group :=
  let hit := maskOf fun l => match nth g.lanes l with
    | .waiting (.bank u) => u == id
    | _ => false
  { g with lanes := mkLanes fun l => if hit.getLsbD l then .ready else nth g.lanes l,
           pcv := mkLanes fun l => if hit.getLsbD l then next else nth g.pcv l,
           woken := g.woken ||| hit }

/-- What a check of an object instruction gives: completion with its writes and whether it acts as an acquire, an overrun
trap after commit, a wait with the operation as it then stands, or a trap. -/
inductive ObjRes where
  | done (s : State) (wrs : List Wr) (acq spill : Bool)
  | wait (s : State) (op : ObjOp)
  | trap (s : State) (cause : Nat)

/-- The holder identity of a group (09 R197). -/
def State.holderId (s : State) (g : Group) : Nat := 32 * (((s.grpTeam? g).map (·.crank)).getD 0) + g.gid

/-- The lock's range list, as read at the grant (09 R198, R205): entries out of the window read as zero. -/
def State.rangeList (s : State) (team x : Nat) : List (Nat × Nat × Bool) :=
  (List.range (fld x 56 8)).filterMap fun i =>
    let o := 16 * (fld x 40 16 + i)
    let e := match s.team? team with
      | some t => if o + 16 ≤ t.size then t.rd o 16 else 0
      | none => 0
    if fld e 97 31 ≠ 0 ∨ fld e 57 7 ≠ 0 ∨ fld e 64 32 = 0 then none
    else
      let b := fld e 0 57
      some (if bit b 56 then b + 2 ^ 64 - 2 ^ 57 else b, fld e 64 32, bit e 96)

/-- Identity of an object in a core's list of held locks. -/
def objId (team off : Nat) : Nat := team * 2 ^ 24 + off

/-- A lock is granted to a group (09 R204, R205): beyond 16 held locks its ranges give no copies. -/
def State.grant (s : State) (team off x : Nat) (g : Group) (waiters : Nat) : State :=
  let x := setFld (setFld (setFld x 0 16 (s.holderId g + 1)) 64 32 (fld x 64 32 + 1)) 16 16 (min 65535 waiters)
  let s := s.objWrite team off x g.id
  let c := s.core g.core
  let ranges := if (c.held.filter (·.live)).length < 16 then s.rangeList team x else []
  let old := c.held.filter fun h => !(h.grp == g.id && h.off == objId team off)
  s.setCore g.core { c with held := old ++ [⟨g.id, g.team, objId team off, ranges, true⟩] }

/-- The physical intervals of a virtual range on class G pages, page by page (09 R198). -/
def State.physOf (s : State) (ctx base len : Nat) : List (Nat × Nat) :=
  let lo := base / 65536
  ((List.range ((base + len - 1) / 65536 + 1 - lo)).filterMap fun k =>
    let p := (lo + k) * 65536
    let a := max p base
    match s.walk ctx a with
    | .ok b _ e => if pteClass e = 3 then some (pteFrame e + (a - b), min (p + 65536) (base + len) - a) else none
    | .fail .. => none)

/-- The physical intervals of a group's ranges. -/
def State.rangePhys (s : State) (g : Group) (rs : List (Nat × Nat × Bool)) : List (Nat × Nat) := rs.flatMap fun r => s.physOf (s.grpCtx g) r.1 r.2.1

/-- The bytes of the ranges that copies of the team held dirty, on the cores of its die and in every spiral, are applied at their home points (09
R206). -/
def State.rangesClean (s : State) (g : Group) (rs : List (Nat × Nat × Bool)) : Bool := s.runsClean (fun c => dieOfCore c == g.die) (s.rangePhys g rs)

/-- Such bytes set out for their home points. -/
def State.cleanRanges (s : State) (g : Group) (rs : List (Nat × Nat × Bool)) : State := s.cleanRuns (fun c => dieOfCore c == g.die) (s.rangePhys g rs)

/-- The copies of the ranges, clean by then, are dropped, on every core of the die and in every spiral (09 R206). -/
def State.dropRanges (s : State) (g : Group) (rs : List (Nat × Nat × Bool)) : State :=
  let mine (c : Nat) : Bool := dieOfCore c == g.die
  (s.rangePhys g rs).foldl (fun s p => s.dropAll mine (fun _ => true) p.1 p.2) s

/-- The ranges that a group holds under a lock. -/
def State.heldOf (s : State) (g : Group) (team off : Nat) : List (Nat × Nat × Bool) :=
  ((s.core g.core).held.filter fun h => h.team == g.team && h.off == objId team off).flatMap (·.ranges)

/-- All ranges of the locks that a group holds. -/
def State.heldAll (s : State) (g : Group) : List (Nat × Nat × Bool) := ((s.core g.core).held.filter (·.grp == g.id)).flatMap (·.ranges)

/-- The end of LKREL's step 2, and step 3 (09 R206); the grant follows when the bank is examined. -/
def State.unlock (s : State) (g : Group) (team off x : Nat) : State :=
  let s := s.dropRanges g (s.heldOf g team off)
  let c := s.core g.core
  let s := s.setCore g.core { c with held := c.held.filter fun h => !(h.grp == g.id && h.off == objId team off) }
  s.objWrite team off (setFld (setFld x 0 16 0) 96 16 (s.holderId g + 1)) g.id

/-- A team's window bytes from an offset on, and whether all its granules stand full or empty. -/
def Team.gransAll (t : Team) (off n : Nat) (b : Bool) : Bool := (List.range n).all fun k => t.fullAt (off + 16 * k) == b

/-- The 512-byte message of a vector register, lane 0 lowest. -/
def packLanes (f : Nat → W32) : Nat := (List.range 128).foldr (fun l acc => (f l).toNat + 2 ^ 32 * acc) 0

/-- The check of an object instruction at its bank (09 R194, R200-R207, R212, R213). `others` is how many other groups wait in
LKACQ on the object. -/
def State.objTry (s : State) (team : Team) (w : Wt) (g : Group) (others : Nat) : ObjRes :=
  let x := team.rd w.off 16
  let kindOk (k : Nat) : Bool := objKind x == k
  let now := s.now g
  match w.op with
  | .barinit exp lock trap =>
    let y := if lock then 2 ^ 38 else exp + 2 ^ 16 * exp + 2 ^ 37 * trap.toNat
    let s := s.objWrite team.id w.off y g.id
    let s := s.setGran (team.id, w.off / 16) true
    .done { s with cores := vmap (fun (c : Core) =>
      { c with held := c.held.map fun (h : Held) => if h.off = objId team.id w.off then { h with live := false } else h }) s.cores } [] true false
  | op =>
    if !team.fullAt w.off then .wait s op
    else match op with
    | .barinit .. => .wait s op
    | .bararv d n =>
      if !kindOk 0 then .trap s Cause.illegal
      else
        let remain := fld x 16 16
        let phase := fld x 32 4
        if remain < n then
          .done (s.objWrite team.id w.off (setFld x 36 1 1) g.id) [.sset d (.ofNat 64 (phase + 2 ^ 5))] true (bit x 37)
        else
          let y := setFld (setFld (setFld x 16 16 (remain - n)) 64 32 (fld x 64 32 + n)) 96 16 g.gid
          let last := remain == n
          let y := if last then setFld (setFld y 32 4 (phase + 1)) 16 16 (fld x 0 16) else y
          .done (s.objWrite team.id w.off y g.id) [.sset d (.ofNat 64 (phase + 2 ^ 4 * last.toNat))] true false
    | .barwt d ph budget dead =>
      if !kindOk 0 then .trap s Cause.illegal
      else if fld x 32 4 != ph then .done s [.pset d w.mask w.mask] true false
      else if g.res == .saved then .wait s op
      else
        let dl := dead.getD (now + budget)
        if budget = 0 || (budget != 2 ^ 64 - 1 && dl < now) then .done s [.pset d w.mask 0] false false
        else .wait s (.barwt d ph budget (some dl))
    | .barq d clr =>
      let s := if clr then s.objWrite team.id w.off (setFld x 36 1 0) g.id else s
      .done s [.sset d (.ofNat 64 x), .sset (d + 1) (.ofNat 64 (x / 2 ^ 64))] true false
    | .lkacq asked =>
      if !kindOk 1 then .trap s Cause.illegal
      else if fld x 0 16 = 0 then .done (s.grant team.id w.off x g others) [] true false
      else if fld x 0 16 = s.holderId g + 1 then .trap s Cause.prot
      else if asked then .wait s op
      else .wait (s.objWrite team.id w.off (setFld x 16 16 (min 65535 (others + 1))) g.id) (.lkacq true)
    | .lktry d =>
      if !kindOk 1 then .trap s Cause.illegal
      else if fld x 0 16 = 0 then .done (s.grant team.id w.off x g others) [.pset d w.mask w.mask] true false
      else .done s [.pset d w.mask 0] false false
    | .lkrel =>
      if !kindOk 1 then .trap s Cause.illegal
      else if !s.rangesClean g (s.heldOf g team.id w.off) then .wait (s.cleanRanges g (s.heldOf g team.id w.off)) op
      else if fld x 0 16 = s.holderId g + 1 then .done (s.unlock g team.id w.off x) [] true false
      else .trap (s.dropRanges g (s.heldOf g team.id w.off)) Cause.prot
    | .grset list =>
      if !kindOk 1 then .trap s Cause.illegal
      else if fld x 0 16 != 0 then .trap s Cause.prot
      else .done (s.objWrite team.id w.off (setFld (setFld x 40 16 (list % 2 ^ 16)) 56 8 (list / 2 ^ 16)) g.id) [] true false
    | .chsend data =>
      if !kindOk 2 then .trap s Cause.illegal
      else if ((s.grpTeam? g).map (·.crank)) != some (fld x 80 4) then .trap s Cause.prot
      else
        let cap := fld x 56 8 + 1
        let send := fld x 0 16
        if (send + 2 ^ 16 - fld x 16 16) % 2 ^ 16 = cap then .wait s op
        else
          let base := 16 * fld x 40 16 + 512 * (send % cap)
          if team.size < base + 512 then .trap s Cause.prot
          else
            let s := s.objWrite team.id w.off (setFld x 0 16 (send + 1)) g.id
            let es := (List.range 32).map fun k =>
              ({ uid := s.nextId + k, kind := .chan, lane := 128, mask := w.mask, pc := 0, va := 0, loc := .pad team.id (base + 16 * k),
                 n := 16, data := data / 2 ^ (128 * k) % 2 ^ 128, acq := 0, rel := 0, far := false, stage := .queued, val := 0,
                 extAt := [], acqOk := true } : Entry)
            .done ({ s with nextId := s.nextId + 32 }.modGrp g.id fun g => { g with obq := g.obq ++ es }) [] true false
    | .chrecv d slot =>
      if !kindOk 2 then .trap s Cause.illegal
      else if ((s.grpTeam? g).map (·.crank)) != some (fld x 84 4) then .trap s Cause.prot
      else
        let cap := fld x 56 8 + 1
        let recv := fld x 16 16
        let claim : Option (State × Nat) := match slot with
          | some j => some (s, j)
          | none =>
            if (fld x 0 16 + 2 ^ 16 - recv) % 2 ^ 16 = 0 then none
            else some (s.objWrite team.id w.off (setFld (setFld x 16 16 (recv + 1)) 96 32 (fld x 96 32 + 1)) g.id, recv % cap)
        match claim with
        | none => .wait s op
        | some (s, j) =>
          let base := 16 * fld x 40 16 + 512 * j
          if team.gransAll base 32 true then
            let v := team.rd base 512
            let s := (List.range 32).foldl (fun s k => s.setGran (team.id, base / 16 + k) false) s
            .done s [.vlanes d (BitVec.allOnes 128) (mkLanes fun l => .ofNat 32 (v / 2 ^ (32 * l)))] true false
          else .wait s (.chrecv d (some j))

/-- Groups that wait in LKACQ on an object. -/
def Team.askers (t : Team) (off me : Nat) : Nat :=
  (t.bankq.filter fun w => w.off == off && w.id != me && (match w.op with
    | .lkacq a => a
    | _ => false)).length

/-- An object instruction as an entry of its group's queue. -/
def Wt.entry (w : Wt) (u team : Nat) (k : Option Wt) (acq rel : Nat) (stage : Stage) : Entry :=
  { uid := u, kind := .obj k, lane := 128, mask := w.mask, pc := 0, va := 0, loc := .pad team w.off, n := 16, data := 0,
    acq, rel, far := false, stage, val := 0, extAt := [], acqOk := false }

/-- An object access is performed at its bank: an acquire's actions follow (08 R183). -/
def State.objPerformed (s : State) (w : Wt) (team : Nat) (acq : Bool) : State :=
  let (u, s) := s.fresh
  let e := w.entry u team none (if acq then w.acq else 0) 0 .done
  (s.modGrp w.grp fun g => { g with obq := g.obq ++ [e] }).perform w.grp u 0

/-- The same for one that stands in its group's queue. -/
def State.objReached (s : State) (w : Wt) (team : Nat) (acq : Bool) : State :=
  let e := w.entry w.id team none (if acq then w.acq else 0) 0 .done
  (s.modGrp w.grp fun g => g.modEnt w.id fun _ => e).perform w.grp w.id 0

/-- A waiting object instruction traps at its bank, `after` its results where it has committed them: its lanes stand at it, ready (09 R201,
19 R376). -/
def State.bankTrap (s : State) (w : Wt) (cause : Nat) (after : Bool) : State :=
  match s.grp? w.grp with
  | none => s
  | some g =>
    let m := maskOf fun l => match nth g.lanes l with
      | .waiting (.bank u) => u == w.id
      | _ => false
    let pc := ((lowest m).map (nth g.pcv ·)).getD 0
    (s.setGrp { g with lanes := mkLanes fun l => if m.getLsbD l then .ready else nth g.lanes l, woken := g.woken ||| m }).raiseTrap w.grp
      { cause, pc, code := 0, lane := 0xFF, lanes := w.mask, va := 0, after, size := 8, delivered := false, seq := none }

/-- The lanes of an object instruction that its bank has completed: its results, and they go on, or trap after them. -/
def State.objAfter (s : State) (w : Wt) (wrs : List Wr) (spill : Bool) : State :=
  let s := if wrs.isEmpty then s else s.addPend w.grp ⟨none, [], wrs⟩
  if spill then s.bankTrap w Cause.barovr true else s.modGrp w.grp (·.release w.id w.next)

/-- One pass over a team's waiting instructions, in order of arrival. -/
def bankPass (s : State) (teamId : Nat) : List Wt → State
  | [] => s
  | w :: rest =>
    match s.team? teamId, s.grp? w.grp with
    | some t, some g =>
      if !(t.bankq.any (·.id == w.id)) then bankPass s teamId rest
      else
        let gone (s : State) : State := match s.team? teamId with
          | some t => s.setTeam { t with bankq := t.bankq.filter (·.id != w.id) }
          | none => s
        match s.objTry t w g (t.askers w.off w.id) with
        | .done s' wrs acq spill =>
          bankPass (((gone s').objPerformed w teamId acq).objAfter w wrs spill) teamId rest
        | .wait s' op =>
          let s := match s'.team? teamId with
            | some t => s'.setTeam { t with bankq := t.bankq.map fun x => if x.id = w.id then { x with op } else x }
            | none => s'
          bankPass s teamId rest
        | .trap s' cause => bankPass ((gone s').bankTrap w cause false) teamId rest
    | _, _ => bankPass s teamId rest

/-- The bank re-examines its waiters (09 R200, R202, R204): passes until nothing more can change. -/
def bankRun (s : State) (teamId : Nat) : Nat → State
  | 0 => s
  | n + 1 =>
    match s.team? teamId with
    | none => s
    | some t =>
      if t.bankq.isEmpty then s
      else
        let s' := bankPass s teamId t.bankq
        match s'.team? teamId with
        | some t' => if t'.bankq.length < t.bankq.length then bankRun s' teamId n else s'
        | none => s'

def State.bank (s : State) (teamId : Nat) : State := bankRun s teamId (((s.team? teamId).map (·.bankq.length)).getD 0 + 1)

/-! ### Object instructions at issue (09 R194, R195, R199) -/

/-- The team and offset an object address names, or a fault (09 R194). -/
def State.objAt (s : State) (g : Group) (a : W64) : Option (Nat × Nat) :=
  if a.toNat % 16 ≠ 0 then none
  else match s.grpTeam? g, apert a with
    | some t, .team o => if o + 16 ≤ t.size then some (t.id, o) else none
    | some t, .clu k o => match s.rank? t k with
      | some u => if o + 16 ≤ u.size then some (u.id, o) else none
      | none => none
    | _, _ => none

/-- The lanes of an object instruction wait for its bank. -/
def State.waitBank (s : State) (c : Issue) (u : Nat) : State := s.finish c (fun _ => none) (fun _ => some (.bank u)) 8

/-- An object instruction at issue: its address, then the bank, which it reaches at once where nothing holds it back (08 R171). Otherwise it
stands in its group's queue, and its lanes wait until the bank has answered (08 R170, 09 R194). -/
def objIssue (c : Issue) (s : State) (a : Nat) (acq rel : Nat) (op : Issue → ObjOp) : Out :=
  match s.objAt c.g (c.g.s a) with
  | none => .next (s.trapExec c Cause.prot 0xFF (c.g.s a))
  | some (tm, off) =>
    let (u, s) := s.fresh
    let w : Wt := ⟨u, c.g.id, off, op c, acq, rel, c.act, nextPc c.a c.size⟩
    if !s.padFree c.g (.pad tm off) 16 acq rel then
      let e := { w.entry u tm (some w) acq rel .queued with pc := c.a, va := c.g.s a }
      .next ((s.modGrp c.g.id fun g => { g with obq := g.obq ++ [e] }).waitBank c u)
    else
      match s.team? tm, s.grp? c.g.id with
      | some t, some g =>
        match s.objTry t w g (t.askers off u) with
        | .done s' wrs acq' spill =>
          let s := s'.objPerformed w tm acq'
          let s := if wrs.isEmpty then s else s.locked c [] wrs
          if spill then
            let s := s.modGrp c.g.id fun g => g.issued (s.now g) c.h.stall
            .next ((s.bank tm).raiseTrap c.g.id (c.trapSt Cause.barovr c.act 0xFF 0 true 0))
          else .next ((s.done c).bank tm)
        | .wait s' op =>
          let s := match s'.team? tm with
            | some t => s'.setTeam { t with bankq := t.bankq ++ [{ w with op }] }
            | none => s'
          .next (s.waitBank c u)
        | .trap s' cause => .next (s'.trapExec c cause 0xFF 0)
      | _, _ => .next s

/-- An object instruction in a group's queue reaches its bank, once nothing before it holds it back (08 R171, 09 R195). -/
def State.leaveObj (s : State) (g : Group) (i : Nat) (e : Entry) (w : Wt) (tm : Nat) : State :=
  if s.heldBack g i e false || s.owned e.loc e.n 0 then s
  else
    let gone (s : State) : State := s.modGrp g.id fun g => { g with obq := g.obq.filter (·.uid != w.id) }
    match s.team? tm with
    | none => gone s
    | some t => match s.objTry t w g (t.askers w.off w.id) with
      | .done s' wrs acq spill => (s'.objReached w tm acq).objAfter w wrs spill
      | .trap s' cause => (gone s').bankTrap w cause false
      | .wait s' op => match s'.team? tm with
        | some t => (gone s').setTeam { t with bankq := t.bankq ++ [{ w with op }] }
        | none => gone s'

/-- An object instruction. -/
def objOp (i : Instr) (a : Nat) (acq rel : Nat) (op : Issue → ObjOp) (s : State) : Out :=
  withIssue i s fun c s => objIssue c s a acq rel op

/-- BARINIT (09 R200). -/
def execBarinit (h : Hdr) (a b : Nat) (lock trap : Bool) (s : State) : Out :=
  withIssue (.barinit h a b lock trap) s fun c s =>
    let exp := (c.g.s b).toNat % 2 ^ 16
    if !lock && exp = 0 then .next (s.trapExec c Cause.prot 0xFF 0)
    else objIssue c s a 0 0 fun _ => .barinit exp lock trap

/-- BARARV (09 R201): a release. -/
def execBararv (h : Hdr) (d a n : Nat) (lanes : Bool) (scope : Nat) (s : State) : Out :=
  objOp (.bararv h d a n lanes scope) a 0 scope (fun c => .bararv d (if lanes then (lanesOf c.act).length else n)) s

/-- BARWT (09 R202): an acquire where it ends true. -/
def execBarwt (h : Hdr) (d a b cr scope : Nat) (s : State) : Out :=
  objOp (.barwt h d a b cr scope) a scope 0 (fun c => .barwt d ((c.g.s b).toNat % 16) (c.g.s cr).toNat none) s

/-- BARQ (09 R203). -/
def execBarq (h : Hdr) (d a : Nat) (clr : Bool) (s : State) : Out := objOp (.barq h d a clr) a 0 0 (fun _ => .barq d clr) s

/-- LKACQ (09 R204). -/
def execLkacq (h : Hdr) (a scope : Nat) (s : State) : Out := objOp (.lkacq h a scope) a scope 0 (fun _ => .lkacq false) s
/-- LKTRY (09 R204). -/
def execLktry (h : Hdr) (d a scope : Nat) (s : State) : Out := objOp (.lktry h d a scope) a scope 0 (fun _ => .lktry d) s

/-- LKREL (09 R206): a release; it waits at the bank until the dirty bytes of its ranges are applied at their home points. -/
def execLkrel (h : Hdr) (a scope : Nat) (s : State) : Out := objOp (.lkrel h a scope) a 0 scope (fun _ => .lkrel) s

/-- GRSET (09 R207). -/
def execGrset (h : Hdr) (a b : Nat) (s : State) : Out :=
  objOp (.grset h a b) a 0 0 (fun c => .grset ((c.g.s b).toNat % 2 ^ 24)) s

/-- CHSEND (09 R212). -/
def execChsend (h : Hdr) (a cr scope : Nat) (s : State) : Out :=
  objOp (.chsend h a cr scope) a 0 scope (fun c => .chsend (packLanes fun l => c.g.xread cr ⟨.id, 0⟩ 0 l)) s

/-- CHRECV (09 R213). -/
def execChrecv (h : Hdr) (d a scope : Nat) (s : State) : Out :=
  objOp (.chrecv h d a scope) a scope 0 (fun _ => .chrecv d none) s

/-- CHANNEL_SLOT_WRITE: granule entry i of a group's messages is written once it is empty, and set full (09 R212). -/
def execChannelSlotWrite (gid i : Nat) (s : State) : Out :=
  match s.grp? gid with
  | none => .next s
  | some g =>
    match (g.obq.filter fun e => e.kind == .chan && e.stage == .queued)[i]? with
    | none => .next s
    | some e =>
      let at' := (g.obq.findIdx? (·.uid == e.uid)).getD 0
      match e.loc with
      | .pad tm o =>
        if s.heldBack g at' e false || s.granFull (tm, o / 16) || s.owned e.loc 16 0 then .next s
        else
          let s := (s.padWrite tm o 16 e.data).killResv (.pad tm o) 16 0 0 gid 128 true
          .next ((((s.setGran (tm, o / 16) true).perform gid e.uid 0).bank tm).prune gid)
      | _ => .next s

/-- The banks of some teams are examined again. -/
def State.rebank (s : State) (hit : Team → Bool) : State := ((s.teams.filter hit).map (·.id)).foldl State.bank s

/-- BARWT_TIMEOUT: the budgets of a group's waits that are spent while the phase has not changed end them, in whichever windows they wait (09 R202, 19
R375). The banks look in every cycle too. -/
def execBarwtTimeout (gid : Nat) (s : State) : Out :=
  .next (s.rebank fun t => t.bankq.any fun w => w.grp == gid && (match w.op with
    | .barwt .. => true
    | _ => false))

/-- A wait whose check may change from one cycle to the next: a budget, or bytes on their way to their home points (09 R202, R206). -/
def Wt.watched (w : Wt) : Bool :=
  match w.op with
  | .barwt .. | .lkrel => true
  | _ => false

/-! ### FESET (06 R141) -/

/-- FESET (06 R141): the bits change at the banks as the accesses leave the queue. -/
def execFeset (h : Hdr) (o : MemOp) (s : State) : Out :=
  withIssue (.feset h o) s fun c s =>
    let ts := s.tgts c 0 false (memAdr o false 4) 1
    match badLane ts true with
    | some (l, a) => .next (s.trapExec c Cause.prot l a.va)
    | none => .next (((s.enqueueFe c ts (some (o.sz == 1))).2).finishMem c [] (fun _ => none) (·.latchOob ts))

/-! ### QNT (05 R116-R121) -/

/-- A ring byte; out of range it reads zero (05 R121). -/
def Team.ringByte (t : Team) (o k : Nat) : Nat := if o + k + 1 ≤ t.size then t.rd (o + k) 1 else 0

/-- QNT (05 R119-R121): one atomic access of the scratchpad, at issue once nothing earlier holds it back (log 20). -/
def execQnt (h : Hdr) (push : Bool) (rm : Nat) (bf : Bool) (out d a : Nat) (xa : Pat) (b cr : Nat) (s : State) : Out :=
  withIssue (.qnt h push rm bf out d a xa b cr) s fun c s0 =>
    let ad := c.g.s b
    let spot := match s0.grpTeam? c.g, apert ad with
      | some t, .team o => some (t, o)
      | some t, .clu k o => (s0.rank? t k).map fun u => (u, o)
      | _, _ => none
    match if ad.toNat % 16 = 0 then spot else none with
    | none => .next (s0.trapExec c Cause.prot 0xFF ad)
    | some (t, o) =>
      if !s0.padFree c.g (.pad t.id o) 48 0 0 then .next s0
      else
        let entry (i : Nat) : Nat := t.ringByte o (2 * i) + 256 * t.ringByte o (2 * i + 1)
        let ring := (List.range 16).map entry
        let head := t.ringByte o 32 % 16
        let scale := qScale out ring
        let sc := fv scale .bf16
        let F := if bf then Fmt.bf16 else .fp32
        let x := fun l => fv ((c.g.xread a ⟨xa, xa.implied⟩ 0 l).toNat % 2 ^ F.bits) F
        let mode := fun l => Rm.ofCode (if rm = 2 then 4 else rm) (rhoAt s0 l)
        let band := c.g.s cr
        let cmax := bandMax (lo32 band).toNat ((lanesOf c.act).map x)
        let blocks := (List.range 16).map fun k =>
          let ls := (List.range 8).map (8 * k + ·)
          qBlock (8 * k + (c.g.id * 2 ^ 16)) (ls.map mode) (ls.map fun l => if c.act.getLsbD l then x l else .fin false 0 0) sc
        let codes := fun l => qCode out (mode l) (x l) sc
        let word (l : Nat) : W32 :=
          if l < 16 then .ofNat 32 ((((blocks[l]?).map (·.2.1)).getD []).foldr (fun q acc => q + 16 * acc) 0)
          else if l < 20 then .ofNat 32 ((List.range 4).foldr (fun i acc => ((blocks[4 * (l - 16) + i]?).map (·.1)).getD 0 + 256 * acc) 0)
          else 0
        let wr : Wr := if out = 2 then .vset d (.gen (mkLanes word)) else .vlanes d c.act (mkLanes fun l => if c.act.getLsbD l then .ofNat 32 (codes l).1 else 0)
        let fl : Fl := if out = 2 then blocks.foldl (fun f x => f ||| x.2.2) 0 else flOr ((lanesOf c.act).map codes)
        let s := if rm = 2 then s0.drew else s0
        let put1 (s : State) (k v : Nat) : State :=
          if o + k + 1 ≤ t.size then (s.padWrite t.id (o + k) 1 (v % 256)).killResv (.pad t.id (o + k)) 1 0 0 c.g.id 128 true else s
        let m := roundUpBf16 cmax
        let s := if push then
          put1 (put1 (put1 (put1 s (2 * head) m) (2 * head + 1) (m / 256)) 32 ((head + 1) % 16)) 33 0 else s
        let keep := if push then 0 else (round cmax .fp32 .rn).1
        let s := if t.size < o + 34 then s.modGrp c.g.id fun g => if g.spoob then g else { g with spoob := true, spooba := ad } else s
        .next ((s.locked c [] [wr, .sset cr (.ofNat 64 (2 ^ 48 * roundUpBf16 sc + keep)), .fpf fl]).done c)

end Sys2Proof.Machine
end

