-- ==== Sys2Proof/Machine/Control.lean ====
section
/-! DEFINITION. Control.lean: transfers and YIELD (03 R67-R71, R75), NOP (02 R45). -/

namespace Sys2Proof.Machine

open Sys2Proof

/-- NOP (02 R45): the lanes fall through. -/
def execNop (h : Hdr) (s : State) : Out := withIssue (.nop h) s fun c s => .next (s.done c)

/-- End of the code segment of a group's kernel. -/
def State.codeEnd (s : State) (g : Group) : Nat := ((s.grpGrid? g).map Grid.csize).getD 0

/-- The cause that a transfer to target t raises (03 R68, R69); targets are integers, since a BRA may sum below 0. -/
def badTarget (codeEnd : Nat) (t : Int) : Option Nat :=
  if t < 0 then some Cause.prot
  else if t % 4 ≠ 0 ∨ t % 32 = 28 then some Cause.fetchAlign
  else if codeEnd ≤ t.toNat then some Cause.prot
  else none

/-- A transfer of the active lanes (03 R68): the first failing lane in ascending order decides the cause and no lane moves;
otherwise `link` is committed and each active lane goes to its target. -/
def transfer (c : Issue) (s : State) (tgt : Nat → Int) (refill : Nat) (link : List Wr) : State :=
  match (lanesOf c.act).findSome? fun l => badTarget (s.codeEnd c.g) (tgt l) with
  | some cause => s.trapExec c cause 0xFF 0
  | none =>
    let s := if link.isEmpty then s else s.locked c [] link
    s.finish c (fun l => some (BitVec.ofNat 32 (tgt l).toNat)) (fun _ => none) refill

/-- The target of BRA and CALL (03 R69). -/
def relTarget (a imm : W32) : Int := a.toNat + imm.toInt

/-- The target a lane reads (03 R70). -/
def srcTarget (g : Group) (a : Src) (n l : Nat) : Int := (lo32 (g.opnd false n a l)).toNat

/-- BRA (03 R69). -/
def execBra (h : Hdr) (imm : W32) (s : State) : Out :=
  withIssue (.bra h imm) s fun c s => .next (transfer c s (fun _ => relTarget c.a imm) 8 [])

/-- BRX (03 R70). -/
def execBrx (h : Hdr) (a : Src) (n : Nat) (s : State) : Out :=
  withIssue (.brx h a n) s fun c s => .next (transfer c s (srcTarget c.g a n) 8 [])

/-- Pushes onto the return predictor of four entries; the oldest drops (03 R70). -/
def State.pushRet (s : State) (gid : Nat) (x : W32) : State :=
  match s.grp? gid with
  | none => s
  | some g => s.setGrp { g with retp := (x :: g.retp).take 4 }

/-- The link of CALL and CALLX: uniform when every lane that has not exited is active, else general (03 R71). -/
def linkWr (c : Issue) (d : Nat) : List Wr :=
  emitVec c false d true none fun _ => (nextPc c.a c.size).zeroExtend 64

/-- A call: the predictor takes the link once the target checks pass. -/
def callTo (c : Issue) (s : State) (d : Nat) (tgt : Nat → Int) : State :=
  let s' := transfer c s tgt 8 (linkWr c d)
  match s'.grp? c.g.id with
  | some g => if g.trap.isSome then s' else s'.pushRet c.g.id (nextPc c.a c.size)
  | none => s'

/-- CALL (03 R71). -/
def execCall (h : Hdr) (d : Nat) (imm : W32) (s : State) : Out :=
  withIssue (.call h d imm) s fun c s => .next (callTo c s d fun _ => relTarget c.a imm)

/-- CALLX (03 R71): the target is read before the link is written. -/
def execCallx (h : Hdr) (d : Nat) (a : Src) (n : Nat) (s : State) : Out :=
  withIssue (.callx h d a n) s fun c s => .next (callTo c s d (srcTarget c.g a n))

/-- RET (03 R70): BRX with the predictor's refill of 2 cycles when every active lane goes where it says. -/
def execRet (h : Hdr) (a : Src) (n : Nat) (s : State) : Out :=
  withIssue (.ret h a n) s fun c s =>
    let tgt := srcTarget c.g a n
    let refill := match c.g.retp with
      | x :: _ => if (lanesOf c.act).all fun l => tgt l == x.toNat then 2 else 8
      | [] => 8
    let s' := transfer c s tgt refill []
    .next (match s'.grp? c.g.id with
      | some g => if g.trap.isSome then s' else s'.setGrp { g with retp := g.retp.drop 1 }
      | none => s')

/-- The issue slot of a group ends its greedy run (03 R61, R75). -/
def State.endRun (s : State) (g : Group) : State :=
  let c := s.core g.core
  let k := g.slot % 4
  s.setCore g.core { c with slots := put c.slots k { nth c.slots k with cur := none, run := 0 } }

/-- YIELD (03 R75): `.rot` asks for a rotation where a ready lane stands above; a request during a rotation is dropped. -/
def execYield (h : Hdr) (rot : Bool) (s : State) : Out :=
  withIssue (.yield h rot) s fun c s =>
    let up := c.g.above c.a != 0
    let s := s.done c
    .next (match s.grp? c.g.id with
      | none => s
      | some g =>
        if !rot then s.endRun g
        else if up then (s.setGrp { g with rotReq := g.rotReq || c.g.rot.isNone }).endRun g
        else s)

end Sys2Proof.Machine
end

