-- ==== Sys2Proof/Machine/Ending.lean ====
section
/-! DEFINITION. Ending.lean: EXIT, TAIL, how a group and its team end, and the drydown tracker (03 R72-R74, 06 R129, 09 R205,
R215, 11 R236). -/

namespace Sys2Proof.Machine

open Sys2Proof

/-! ### Lanes that exit (03 R72, 06 R129) -/

/-- The lane whose private memory holds an address of a group's region. -/
def privLane (base a : Nat) : Nat := (a - base) % 512 / 4

/-- Dirty private bytes of exited lanes are never written back; a line goes once its 32 lanes have exited. -/
def State.dropPriv (s : State) (g : Group) : State :=
  let size := ((s.grpGrid? g).map Grid.privSize).getD 0 * 128
  if size = 0 then s
  else
    let gone (a : Nat) : Bool := (nth g.lanes (privLane g.priv a)).isExited
    let mine (a : Nat) : Bool := g.priv ≤ a && a < g.priv + size
    let c := s.core g.core
    let keep (l : Line) : Option Line :=
      if !mine l.addr then some l
      else if (List.range 32).all (fun k => gone (l.addr + 4 * k)) then none
      else some { l with dirty := l.dirty.filter fun a => !gone a }
    s.setCore g.core { c with l1 := c.l1.filterMap keep }

/-- Slices whose 16 lanes have all exited (02 R41). -/
def Group.freedNow (g : Group) : BitVec 8 :=
  (List.range 8).foldl (fun m i =>
    if (List.range 16).all (fun k => (nth g.lanes (16 * i + k)).isExited) then m ||| BitVec.twoPow 8 i else m) 0

/-- The lanes of a mask exit. -/
def State.exitLanes (s : State) (gid : Nat) (m : Mask) : State :=
  match s.grp? gid with
  | none => s
  | some g =>
    let g := { g with lanes := mkLanes fun l => if m.getLsbD l then .exited else nth g.lanes l }
    let g := { g with freed := g.freedNow }
    let c := s.core g.core
    let s := s.setCore g.core { c with resv := c.resv.filter fun r => !(r.grp == gid && m.getLsbD r.lane) }
    (s.setGrp g).dropPriv g

/-! ### Waits withdrawn (03 R73, 09 R214, R215) -/

/-- An object instruction that has not reached its bank. -/
def EKind.unreached : EKind → Bool
  | .obj (some _) => true
  | _ => false

/-- A group's object waits end without effect; locks it waited for count their waiters anew. -/
def State.withdraw (s : State) (gid : Nat) : State :=
  let s := s.modGrp gid fun g => { g with obq := g.obq.filter fun e => !e.kind.unreached }
  s.teams.foldl (fun s t =>
    let (mine, rest) := t.bankq.partition fun w => w.grp == gid
    if mine.isEmpty then s
    else
      let s := s.setTeam { t with bankq := rest }
      mine.foldl (fun s w => match w.op, s.team? t.id with
        | .lkacq true, some t => s.objWrite t.id w.off (setFld (t.rd w.off 16) 16 16 (min 65535 (t.askers w.off w.id))) gid
        | _, _ => s) s) s

/-! ### The end of a team (11 R236, 12 R269) -/

/-- A team whose groups have all ended gives up its leases and its places in lease queues. -/
def State.teamEnd (s : State) (t : Team) (bad : Bool) : State :=
  let t := { t with left := t.left - 1, bad := t.bad || bad }
  let s := s.setTeam t
  if t.left != 0 then s
  else
    let leave (e : Engine) : Engine := { e with leaving := e.leaving || e.lease == some t.id, waits := e.waits.filter (· != t.id) }
    { (s.setTeam { t with saved := false, area := none }) with engines := vmap leave s.engines, saved := s.saved.filter (·.team != t.id) }

/-! ### Drydown (03 R74) -/

/-- A held lock of an ended group goes as LKREL at `.dev` would release it, its ranges being clean: where the object is a lock that the group holds, its
granule full; otherwise the copies of its ranges alone go (09 R205, R206). -/
def State.releaseLock (s : State) (g : Group) (h : Held) : State :=
  let tm := h.off / 2 ^ 24
  let off := h.off % 2 ^ 24
  let s' := s.dropRanges g h.ranges
  let s' := s'.setCore g.core { s'.core g.core with held := (s'.core g.core).held.filter fun x => !(x.grp == h.grp && x.off == h.off) }
  match s.team? tm with
  | some t =>
    let x := t.rd off 16
    if h.live && t.fullAt off && objKind x == 1 && fld x 0 16 == s.holderId g + 1 then (s.unlock g tm off x).bank tm else s'
  | none => s'

/-- The group's held locks are released. -/
def State.releaseLocks (s : State) (g : Group) : State :=
  ((s.core g.core).held.filter (·.grp == g.id)).foldl (fun s h => s.releaseLock g h) s

/-- What the drydown tracker counts of a group's queue: stores, atomics, SCs, range operations, and the writes of claimed messages (03 R74, 09
R214). -/
def EKind.tracked : EKind → Bool
  | .store | .atom .. | .sc | .range .. | .chan => true
  | _ => false

/-- The tracker counts an ended group: stores not yet performed at `.dev`, engine requests without a record, locks not yet released (03 R74, 09
R205). -/
def State.counted (s : State) (g : Group) : Bool :=
  g.obq.any (fun e => e.kind.tracked && !s.performedAt g e 4) || !g.engines.isEmpty || (s.core g.core).held.any (·.grp == g.id)

/-- What else of an ended group's queue takes its effect still: FESET, items, a pull, and what acts as an acquire, for which a request that the group
signed waits (06 R141, 12 R274, 07 R164, 22 R386). The tracker does not count it. -/
def Entry.outlives (e : Entry) : Bool :=
  match e.kind with
  | .fe (some _) | .item _ | .query (.pull _) => e.stage != .done
  | _ => e.acq != 0 && !(e.stage == .done && e.acqOk)

/-- Where a saved group stands that holds no resident slot. -/
def noSlot : Nat := 96

/-- A slot of a core is given up in this cycle; it is free in the next one (03 R73). -/
def State.leaveSlot (s : State) (core slot : Nat) : State :=
  if noSlot ≤ slot then s else
  let c := s.core core
  let now := (s.die (dieOfCore core)).cycle
  s.setCore core { c with leaving := (slot, now) :: c.leaving.filter (·.2 == now) }

/-- The tracker of a core has 32 entries. -/
def State.trackerFull (s : State) (core : Nat) : Bool :=
  32 ≤ (s.groups.filter fun g => g.core == core && g.res == .draining && !g.untracked && s.counted g).length

/-- The group that has waited longest for a tracker entry of a core takes the one that is free. -/
def State.takeEntry (s : State) (core : Nat) : State :=
  if s.trackerFull core then s
  else match s.groups.find? fun g => g.core == core && g.untracked with
    | none => s
    | some g => (s.setGrp { g with untracked := false }).leaveSlot core g.slot

/-- An ended group whose work is done goes: its tracker entry frees, or the slot it still held. -/
def State.dropGroup (s : State) (g : Group) : State :=
  let s' := { s with groups := s.groups.filter (·.id != g.id) }
  if g.untracked then s'.leaveSlot g.core g.slot else s'.takeEntry g.core

/-- An ended group goes on draining: once its stores are performed its locks are released, the dirty bytes of their ranges first; its tracker entry
frees when the count is zero, and it goes when nothing of it is left. -/
def State.drydown (s : State) (gid : Nat) : State :=
  match s.grp? gid with
  | none => s
  | some g =>
    if g.res != .draining then s
    else
      let s := s.prune gid
      match s.grp? gid with
      | none => s
      | some g =>
        if !g.obq.all (fun e => !e.kind.tracked || s.performedAt g e 4) then s
        else if !s.rangesClean g (s.heldAll g) then s.cleanRanges g (s.heldAll g)
        else
          let s := s.releaseLocks g
          if g.engines.isEmpty && !g.obq.any Entry.outlives then s.dropGroup g else s.takeEntry g.core

/-- A group ends (03 R73): `good` where it ended by EXIT or TAIL. One ended by force while the tracker is full waits for an entry, a resident one in
its slot (log 56). -/
def State.endGroup (s : State) (gid : Nat) (good : Bool) : State :=
  match s.grp? gid with
  | none => s
  | some g0 =>
    let full := s.trackerFull g0.core
    let s := (s.exitLanes gid (BitVec.allOnes 128)).withdraw gid
    let s := s.modGrp gid fun g =>
      { g with res := .draining, untracked := full, ended := some good, hnds := .replicate 16 0, pend := [], rot := none, preempt := none,
               gangAbort := false, trap := none, later := [], idle := true, img := none, adv := [],
               slot := if g.res == .saved then noSlot else g.slot }
    let s := if g0.res == .resident && !full then s.leaveSlot g0.core g0.slot else s
    let c := s.core g0.core
    let s := s.setCore g0.core { c with resv := c.resv.filter (·.grp != gid), pins := c.pins.filter (·.2 != gid),
                                        slots := vmap (fun (x : Slot) => if x.cur = some gid then { x with cur := none, run := 0 } else x) c.slots }
    let quit (d : Die) : Die := { d with curd := { d.curd with waits := d.curd.waits.filter (·.grp != gid) } }
    let s := { s with dies := vmap quit s.dies }
    let s := match s.team? g0.team with
      | some t => s.teamEnd t (!good)
      | none => s
    s.drydown gid

/-! ### EXIT and TAIL (03 R72, R73) -/

/-- Some lane waits for a fault record that is not resolved: its access has not passed translation (DEDUCED, log 25). -/
def State.untranslated (s : State) (g : Group) : Bool :=
  let outstanding (r : Nat) : Bool := (s.ctxD (s.grpCtx g)).faults.any (·.uid == r)
  (lanesOf g.live).any fun l => match nth g.lanes l with
    | .waiting (.fault r) => outstanding r
    | .waiting (.joint recs _) => recs.any outstanding
    | _ => false

/-- TAIL: held back while an access has not passed translation and while the tracker is full. -/
def execTail (h : Hdr) (s : State) : Out :=
  withIssue (.tail h) s fun c s =>
    if s.untranslated c.g || s.trackerFull c.g.core then .next s else .next (((s.modGrp c.g.id (·.issued (s.now c.g) 0)).bumpCore c.g.core 0x02 1).endGroup c.g.id true)

/-- EXIT: the last lane's ends the group. -/
def execExit (h : Hdr) (s : State) : Out :=
  withIssue (.exit h) s fun c s =>
    let last := (c.g.live &&& ~~~c.act) == 0
    if last && s.trackerFull c.g.core then .next s
    else if last then .next (((s.modGrp c.g.id (·.issued (s.now c.g) 0)).bumpCore c.g.core 0x02 1).endGroup c.g.id true)
    else .next ((s.exitLanes c.g.id c.act).done { c with lns := c.lns &&& ~~~c.act })

/-- DRYDOWN_FREE: an ended group's work is done. -/
def execDrydownFree (gid : Nat) (s : State) : Out := .next (s.drydown gid)

end Sys2Proof.Machine
end

