-- ==== Sys2Proof/Machine/Turn.lean ====
section
/-! DEFINITION. Turn.lean: what an issue slot does before an instruction executes: ends of waits, parking, rotation, the choice
of a group, fetch and decoding (02 R24-R26, R40-R42, 03 R50, R53-R63, log 1). -/

namespace Sys2Proof.Machine

open Sys2Proof

/-! ### Fetch (02 R24-R26, 14 R320) -/

/-- What a fetch gives. -/
inductive Fetch where
  | trap (cause : Nat)
  | ok (i : Instr)
  deriving DecidableEq, Repr

/-- The 32-byte block of code at a virtual address as a fetch takes it, none where it is not mapped for fetch: the bytes in memory, or
by a free choice a block that the core's instruction cache still holds. -/
def State.codeBlock (s : State) (core ctx va : Nat) : Option (List Byte) :=
  match s.permit (s.lookup (some core) (dieOfCore core) ctx va s.free) va 0 with
  | .ok base _ e =>
    if !pteX e then none
    else
      let pa := pteFrame e + (va - base)
      let fresh := (List.range 32).map fun i => s.homeByte (pa + i)
      match (s.core core).icache.find? fun x => x.1 == ctx && x.2.1 == va with
      | none => some fresh
      | some (_, _, old) => if old == fresh || Config.freeNat (s.free + 1) % 2 = 0 then some fresh else some old
  | .fail .. => none

/-- A core's instruction cache of 128 KiB holds 4096 blocks; the one held longest leaves (01 R12, log 19). -/
def Core.keepBlock (c : Core) (ctx va : Nat) (blk : List Byte) : Core :=
  { c with icache := ((ctx, va, blk) :: c.icache.filter fun x => !(x.1 == ctx && x.2.1 == va)).take 4096 }

/-- Block n of a kernel's code cannot be read now: its walk, or the block itself, waits for a channel stopped for a lane repair (13 R309). -/
def State.blockHeld (s : State) (k : Grid) (n : Nat) : Bool :=
  let va := k.code + 32 * n
  s.chans.toList.any (·.repair) && (s.walkStops k.ctx va || (match s.walk k.ctx va with
    | .ok base _ e => s.repairing (pteFrame e + (va - base))
    | .fail .. => false))

/-- Block n of a group's kernel enters its buffer: its bytes are those of this moment (02 R26). The core keeps the block and its
translation. -/
def State.bufferBlock (s : State) (gid n : Nat) : State :=
  match s.grp? gid with
  | none => s
  | some g =>
    if g.iblk.any (·.1 == n) then s
    else match s.grpGrid? g with
      | none => s
      | some k =>
        let va := k.code + 32 * n
        if k.csize ≤ 32 * n || s.blockHeld k n then s
        else match s.codeBlock g.core k.ctx va with
          | none => s
          | some blk =>
            let s := (s.setGrp { g with iblk := g.iblk ++ [(n, blk)] }).setCore g.core ((s.core g.core).keepBlock k.ctx va blk)
            ({ s with free := s.free + 2 }).cacheTlb (some g.core) g.die k.ctx (s.walk k.ctx va)

def bytesNat : List Byte → Nat
  | [] => 0
  | b :: bs => b.toNat + 256 * bytesNat bs

/-- The instruction at an offset of a block, or the trap of the first failing check of 02 R40. -/
def fetchAt (blk : List Byte) (o : Nat) : Fetch :=
  let w := bytesNat (blk.drop o)
  match sizeOf w with
  | none => .trap Cause.illegal
  | some n =>
    if 32 < o + n then .trap Cause.fetchAlign
    else match decodeCore (w % 2 ^ (8 * n)) with
      | .ok i => .ok i
      | .error _ => .trap Cause.illegal

/-- Fetch for a group at an address: from its buffer, which holds the block unless it cannot be fetched. -/
def State.fetch (s : State) (g : Group) (a : W32) : Fetch :=
  let x := a.toNat
  if x % 4 ≠ 0 ∨ x % 32 = 28 then .trap Cause.fetchAlign
  else match s.grpGrid? g with
    | none => .trap Cause.prot
    | some k =>
      if k.csize ≤ x then .trap Cause.prot
      else match g.iblk.find? (·.1 == x / 32) with
        | some (_, blk) => fetchAt blk (x % 32)
        | none => match s.codeBlock g.core k.ctx (k.code + x / 32 * 32) with
          | none => .trap Cause.prot
          | some blk => fetchAt blk (x % 32)

/-! ### Ends of waits (03 R50) -/

/-- A team's requests of an engine without a record, those attached and not fired among them while the team runs (11 R257,
R258). -/
def State.teamReqs (s : State) (team eng : Nat) : Bool :=
  (s.eng eng).table.any (·.team == team) ||
  (match s.team? team with
   | some t => t.left != 0 && t.core / 4 == eng && t.cvs.toList.any (·.bound.isSome)
   | none => false)

/-- A waiting lane becomes ready: at its own PC (some none), or behind its instruction. -/
def State.wake (s : State) (g : Group) (w : Wait) : Option (Option W32) :=
  let now := s.now g
  let solved (r : Nat) : Bool := !((s.ctxD (s.grpCtx g)).faults.any (·.uid == r))
  match w with
  | .fault r => if solved r then some none else none
  | .fe t k => if s.granFull (t, k) then some none else none
  | .joint rs fs => if rs.all solved && fs.all s.granFull then some none else none
  | .handle h => if (s.record (s.grpCtx g) h).isOver then some none else none
  | .sleep t nx _ => if t ≤ now then some (some nx) else none
  | .cvsign cv _ => match s.grpTeam? g with
    | some t => if (nth t.cvs cv).signed.getLsbD g.gid then none else some none
    | none => none
  | .lease e =>
    let x := s.eng e
    if (x.lease == some g.team && !x.leaving) || (x.lease.isNone && x.waits.head? == some g.team) then some none else none
  | .table e => if (s.eng e).table.length < 32 then some none else none
  | .drain es => if es.all fun e => !s.teamReqs g.team e then some none else none
  | .rel es nx => if es.all fun e => (s.eng e).lease != some g.team || !(s.eng e).leaving then some (some nx) else none
  | .curd d => match (s.die d).curd.owner with
    | none => some none
    | some k => if (s.grpGrid? g).map (·.id) == some k then some none else none
  | .bank _ | .cvgen .. | .take _ => none

/-- Ends the waits of a group whose cause is over. -/
def State.wakeLanes (s : State) (g : Group) : Group :=
  let r := mkLanes fun l => match nth g.lanes l with
    | .waiting w => s.wake g w
    | _ => none
  { g with lanes := mkLanes fun l => if (nth r l).isSome then .ready else nth g.lanes l,
           pcv := mkLanes fun l => (((nth r l).bind id).getD (nth g.pcv l)),
           woken := g.woken ||| maskOf fun l => (nth r l).isSome }

/-! ### Parking (03 R63) -/

/-- The instruction at an address is a safe point. -/
def State.safeAt (s : State) (g : Group) (a : W32) : Bool :=
  match s.fetch g a with
  | .ok i => (hdrOf i).sp
  | .trap _ => false

/-- Under a request, the ready lanes that stand at safe points park. -/
def State.parkLanes (s : State) (g : Group) : Group :=
  if !g.yielding then g
  else
    let stands := ((lanesOf g.readyMask).map (nth g.pcv ·)).eraseDups.filter (s.safeAt g)
    g.park (maskOf fun l => stands.contains (nth g.pcv l))

/-- Pre-emption can be taken as far as lanes and results go. -/
def Group.settled (g : Group) : Bool := g.readyMask == 0 && g.pend.isEmpty

/-! ### Rotation (03 R55, R56) -/

/-- A rotation without ready lanes of its set ends. -/
def Group.endRot (g : Group) : Group :=
  match g.rot with
  | some m => if (g.readyMask &&& m) == 0 then { g with rot := none, fair := 0, rotReq := false } else g
  | none => g

/-- The group as its next issue finds it: a rotation begins once one is asked for and a ready lane stands above. -/
def Group.rotate (g : Group) : Group :=
  if g.rot.isSome then g
  else match g.issueAddr with
    | none => g
    | some a =>
      let up := g.above a
      if up = 0 then { g with rotReq := false }
      else if !(g.rotReq || 2 ^ g.friv ≤ g.fair) then g
      else match g.minPc up with
        | none => g
        | some t => { g with rot := some (g.lanesAt t), rotReq := false }

/-! ### Readying a group -/

/-- The buffer of a group whose next issue is at `a` (03 R60): a change of address outside it costs 8 cycles. -/
def State.bufferFor (s : State) (g : Group) (a : W32) : State :=
  let far := !inBuf g.ibuf a
  let s := s.setGrp (g.bufferFrom a (if far then max g.nextIssue (s.now g) + 8 else g.nextIssue))
  let s := (s.bufferBlock g.id (a.toNat / 32)).bufferBlock g.id (a.toNat / 32 + 1)
  if far then s.bumpCore g.core 0x04 1 else s

/-- Brings a group up to date at an issue turn of its slot: due results, a trap to deliver, ended waits, parking, the end of a
rotation without ready lanes, the buffer for its next issue. -/
def State.prepare (s : State) (gid : Nat) : State :=
  match s.grp? gid with
  | none => s
  | some g0 =>
    if g0.res != .resident then s
    else
      let s := (s.setGrp (g0.flush (s.now g0))).deliverTrap gid
      match s.grp? gid with
      | none => s
      | some g =>
        let g := s.parkLanes (s.wakeLanes g)
        if g.trap.isSome then s.setGrp g
        else
          let r := g.endRot
          let ended := g.rot.isSome && r.rot.isNone
          let s := if ended then s.clearResv g else s
          let r := if ended then r.dropLr else r
          match r.rotate.issueAddr with
          | none => s.setGrp r
          | some a => s.bufferFor r a

/-- An FP64 operation, which occupies its pipe for two cycles (03 R61): FCVT from or to `.f64` and FROUND are taken as such
(DESIGN CHOICE, log 80). -/
def isFp64 : Instr → Bool
  | .fadd _ f _ | .fsub _ f _ | .fmul _ f _ | .ffma _ f _ | .fmin _ f _ | .fmax _ f _ | .frcp _ f _ | .frsq _ f _ | .fsqrt _ f _
  | .fexp2 _ f _ | .flog2 _ f _ | .fsin _ f _ | .fcos _ f _ | .ftanh _ f _ | .fround _ f _ => f.f == .f64
  | .fcmp _ _ f _ => f == .f64
  | .fcvt _ _ _ _ _ c => c.st == 1 || c.dt == 1
  | _ => false

/-- The addresses that an instruction translates as it issues. -/
def Issue.translates (c : Issue) : Instr → List W64
  | .ld _ o | .st _ o | .ldu _ o | .stu _ o | .feset _ o | .fetest _ o | .pf _ o =>
    (lanesOf c.act).map fun l => ((memAdr o false (log2Size o.sz)).adr c.g l).va
  | .atom _ o | .lr _ o | .sc _ o => (lanesOf c.act).map fun l => ((atomAdr o false).adr c.g l).va
  | .spdist _ _ a bv xa n => (lanesOf c.act).map fun l => if bv then c.g.xpair a ⟨xa, xa.implied⟩ (c.g.s n) l else c.g.s a
  | .sppin _ _ a | .spunpin _ a | .sppull _ a _ => [c.g.s a]
  | .spclean _ a b | .spinv _ a b | .spflush _ a b =>
    (List.range ((c.g.s b).toNat / 65536 + 2)).map fun k => c.g.s a + .ofNat 64 (65536 * k)
  | _ => []

/-- The fetch of a group at an address, or a page walk of its instruction there, waits for a channel stopped for a lane repair (13 R309). -/
def State.stoppedAt (s : State) (g : Group) (a : W32) : Bool :=
  s.chans.toList.any (·.repair) && (match s.grpGrid? g with
    | none => false
    | some k => (!(g.iblk.any (·.1 == a.toNat / 32)) && s.blockHeld k (a.toNat / 32)) || (match s.fetch g a with
      | .trap _ => false
      | .ok i =>
        let lns := g.lanesAt a
        let c : Issue := { g, a, lns, act := g.active i lns, size := i.size, h := hdrOf i }
        (c.translates i).any fun v => apert v == .trans && s.walkStops k.ctx v.toNat))

/-- A group can issue in this cycle, as far as can be seen before its instruction executes. The vector-pipe instructions that wait for the second cycle
of an FP64 operation are taken to be those of a fixed latency: 03 R61 names no list, and QNT, AMAX and the movement of lanes are not held (DESIGN CHOICE,
log 107). -/
def State.canIssue (s : State) (busy : Nat) (g : Group) : Bool :=
  let now := s.now g
  g.res == .resident && g.trap.isNone && !g.hidden && g.nextIssue ≤ now &&
  (match g.rotate.issueAddr with
   | none => false
   | some a => !s.stoppedAt g a && match s.fetch g a with
     | .trap _ => true
     | .ok i => !(g.interlocked i) && !((latency i).isSome && now < busy))

/-- Older first: launch order of the grid, team index, group index (03 R61). -/
def State.older (s : State) (a b : Group) : Bool :=
  let key (g : Group) : Nat × Nat × Nat :=
    (((s.grpGrid? g).map (·.id)).getD 0, ((s.grpTeam? g).map (·.teamid)).getD 0, g.gid)
  let x := key a
  let y := key b
  x.1 < y.1 || (x.1 == y.1 && (x.2.1 < y.2.1 || (x.2.1 == y.2.1 && x.2.2 ≤ y.2.2)))

/-- The groups that an issue slot can take, in its order of choice: greedy, then oldest; after a run of 256 the group just served
comes last (03 R61). -/
def State.order (s : State) (core k : Nat) : List Group :=
  let sl := nth (s.core core).slots k
  let gs := sortBy s.older (s.groups.filter fun g => g.core == core && g.slot % 4 == k && s.canIssue sl.busy g)
  let (mine, rest) := gs.partition fun g => sl.cur == some g.id
  if sl.run < 256 then mine ++ rest else rest ++ mine

/-- A fetch trap of a group at its issue address. -/
def State.fetchTrap (s : State) (g : Group) (a : W32) (cause : Nat) : State :=
  let s := s.setGrp (g.issued (s.now g) 0)
  s.raiseTrap g.id { cause, pc := a, code := 0, lane := 0xFF, lanes := g.lanesAt a, va := 0, after := false, size := 4,
                     delivered := false, seq := none }

/-! ### Register storage (02 R41, R42) -/

/-- A result to come makes the register general. -/
def Wr.general (r : Nat) : Wr → Bool
  | .vset d (.gen _) | .vlanes d _ _ | .vbig d _ => d == r
  | .ld d sz => d ≤ r && r < d + szRegs sz
  | _ => false

/-- Granules of register SRAM that a group uses, four names a granule, a slice at a time, results to come counted (02 R41). -/
def Group.granules (g : Group) : Nat :=
  let gen (r : Nat) : Bool := (g.v r).isGen || g.pend.any fun p => p.wrs.any (Wr.general r)
  ((List.range 64).filter fun k => (List.range 4).any fun i => gen (4 * k + i)).length *
    ((List.range 8).filter fun i => !g.freed.getLsbD i).length

/-- Granules in use on a core of 8192: those of the resident groups that are not moved out. -/
def State.granulesUsed (s : State) (core : Nat) : Nat :=
  (s.groups.filter fun g => g.core == core && g.res == .resident && !g.hidden).foldl (fun n g => n + g.granules) 0

/-- How many granules too many an instruction that led from s to s' takes on a core. Sixteen groups in general form fit. -/
def State.shortage (s s' : State) (core : Nat) : Nat :=
  if (s'.groups.filter fun g => g.core == core && g.res == .resident && !g.hidden).length ≤ 16 then 0
  else if s'.granulesUsed core ≤ s.granulesUsed core then 0
  else s'.granulesUsed core - 8192

/-- Pressure: while the resident groups of a core hold too many granules, the registers of the one longest without issuing, other than the
requester, leave (02 R42). -/
def State.pressOut (s : State) (core gid : Nat) : Nat → State
  | 0 => s
  | n + 1 =>
    let here := s.groups.filter fun g => g.core == core && g.res == .resident && !g.hidden
    if here.length ≤ 16 || s.granulesUsed core ≤ 8192 then s
    else match (here.filter (·.id != gid)).foldl (fun (o : Option Group) g => match o with
        | none => some g
        | some x => if g.lastIssue < x.lastIssue then some g else some x) none with
      | none => s
      | some g => ((s.setGrp { g with hidden := true }).bumpCore core 0x03 1).pressOut core gid n

/-! ### The turn of an issue slot (03 R56, R61) -/

/-- The state in which a group of slot k issues: a rotation that is due begins, with its effects on reservations. -/
def State.rotated (s : State) (g : Group) : State :=
  let r := { g.rotate with room := 0 }
  if r.rot.isSome && g.rot.isNone then ((s.setGrp r.dropLr).clearResv g).bumpCore g.core 0x05 1 else s.setGrp r

/-- The slot's run with one more issue of a group. -/
def Slot.served (sl : Slot) (gid now busy : Nat) : Slot :=
  { cur := some gid, run := if sl.cur == some gid && sl.run < 256 then sl.run + 1 else 1, last := now + 1, busy }

/-- Group g of slot k issues instruction i: the state in which it executes. -/
def State.issuing (s : State) (core k : Nat) (g : Group) (i : Instr) : State :=
  let s := s.rotated g
  let c := s.core core
  let sl := nth c.slots k
  let now := (s.die (dieOfCore core)).cycle
  { s.setCore core { c with slots := put c.slots k (sl.served g.id now (if isFp64 i then now + 2 else sl.busy)) } with cur := .group g.id }

/-- Group g of slot k meets a fetch trap at its issue address. -/
def State.fetchTrapped (s : State) (core k : Nat) (g : Group) (a : W32) (cause : Nat) : State :=
  let s := s.rotated g
  let c := s.core core
  let sl := nth c.slots k
  let now := (s.die (dieOfCore core)).cycle
  let s := s.setCore core { c with slots := put c.slots k (sl.served g.id now sl.busy) }
  match s.grp? g.id with
  | some x => s.fetchTrap x a cause
  | none => s

/-- What an attempt of a group to issue in cycle t came to: it issued, trapped or ended; otherwise something it waits for held it. -/
def State.tookCycle (s : State) (gid t : Nat) : Bool :=
  match s.grp? gid with
  | none => true
  | some g => g.res != .resident || g.trap.isSome || t < g.nextIssue

/-- The slot tries its groups in order, until one issues; `run` executes an instruction. One whose instruction is held back, or finds no
granules, leaves the cycle to the next. -/
def State.tryIssue (run : Instr → State → Out) (s : State) (core k : Nat) : List Group → Out
  | [] =>
    let c := s.core core
    .next (s.setCore core { c with slots := put c.slots k { nth c.slots k with cur := none, run := 0 } })
  | g :: gs =>
    let now := (s.die (dieOfCore core)).cycle
    match g.rotate.issueAddr with
    | none => s.tryIssue run core k gs
    | some a => match s.fetch g a with
      | .trap cause => .next (s.fetchTrapped core k g a cause)
      | .ok i => match run i (s.issuing core k g i) with
        | .next s' =>
          if !s'.tookCycle g.id now then s.tryIssue run core k gs
          else if s.shortage s' core = 0 then .next s'
          else (s.setGrp { g with room := s.shortage s' core }).tryIssue run core k gs
        | out => out

/-- The slot's groups brought up to date. -/
def State.prepared (s : State) (core k : Nat) : State :=
  ((s.groups.filter fun g => g.core == core && g.slot % 4 == k).map (·.id)).foldl State.prepare s

/-- An issue turn of slot k of a core: at most one instruction a cycle. -/
def State.issueTurn (run : Instr → State → Out) (s : State) (core k : Nat) : Out :=
  let s := s.prepared core k
  if (s.die (dieOfCore core)).cycle < (nth (s.core core).slots k).last then .next s
  else s.tryIssue run core k (s.order core k)

end Sys2Proof.Machine
end

