-- ==== Sys2Proof/Machine/Async.lean ====
section
/-! DEFINITION. Async.lean: engine packets and future handles at issue (10 R225-R228, R231-R235), and QUEUE_LEAVE with the packet
writes it makes (08 R171). -/

namespace Sys2Proof.Machine

open Sys2Proof

/-! ### QUEUE_LEAVE -/

/-- A packet write leaves as a release at `.sys`: the body, and with it the kind word, reach the slot (10 R218, R227). The request is performed
when its consumer accepts it (08 R176). -/
def State.packetLeave (s : State) (g : Group) (i : Nat) (e : Entry) (pa : Nat) : State :=
  if s.heldBack g i e false then s
  else match s.directWrite g.core g.die pa 64 e.data with
    | none => s
    | some s => s.modGrp g.id fun g => g.modEnt e.uid fun e => { e with stage := .left }

/-- QUEUE_LEAVE: entry i of a group leaves as soon as nothing before it holds it back. -/
def execQueueLeave (gid i : Nat) (copy : Bool) (s : State) : Out :=
  match s.grp? gid with
  | none => .next s
  | some g =>
    .next ((match g.obq[i]? with
      | some e => match e.kind, e.loc with
        | .engine _, .mem pa _ => if e.stage == Stage.queued then s.packetLeave g i e pa else s.leave g i copy
        | .load, _ | .feload _, _ => s.leave g i copy
        | .obj (some w), .pad t _ => if e.stage == Stage.queued then (s.leaveObj g i e w t).bank t else s.leave g i copy
        | _, .pad t _ => (s.leave g i copy).bank t
        | _, _ => s.leave g i copy
      | none => s).prune gid)

/-! ### Packets (10 R219) -/

structure Pkt where
  kind  : Nat
  chain : Bool
  par   : Nat
  team  : Nat
  hdl   : W64
  dst   : W64
  src   : W64
  dsc   : W64
  x1    : W64
  x2    : W64
  deriving DecidableEq, Repr

def Pkt.word (p : Pkt) : Nat :=
  p.kind + 2 ^ 8 * p.chain.toNat + 2 ^ 16 * p.par + 2 ^ 48 * p.team + 2 ^ 64 * p.hdl.toNat + 2 ^ 128 * p.dst.toNat +
    2 ^ 192 * p.src.toNat + 2 ^ 256 * p.dsc.toNat + 2 ^ 320 * p.x1.toNat + 2 ^ 384 * p.x2.toNat

def Pkt.of (w : Nat) : Pkt :=
  ⟨fld w 0 8, bit w 8, fld w 16 24, fld w 48 16, .ofNat 64 (fld w 64 64), .ofNat 64 (fld w 128 64), .ofNat 64 (fld w 192 64),
   .ofNat 64 (fld w 256 64), .ofNat 64 (fld w 320 64), .ofNat 64 (fld w 384 64)⟩

/-! ### Issue of an engine request -/

/-- A scratchpad operand: in the team or a cluster window, and a multiple of `al`. -/
def State.winOk (s : State) (g : Group) (a : W64) (al : Nat) : Bool :=
  a.toNat % al == 0 && (match apert a, s.grpTeam? g with
    | .team _, some _ => true
    | .clu k _, some t => s.inCluster t k
    | _, _ => false)

/-- The bits of the active lanes in p[PD]. -/
def pdWr (c : Issue) (pd : Nat) (b : Bool) : Wr := .pset pd c.act (if b then c.act else 0)

/-- Queue, allocation and claim, and the packet's entry (10 R227, R228, R270): `mk` makes the packet from the handle and the team's
tag; `rc` says whether a handle is allocated; `cons` is the consumer asked for, none where any will do. -/
def submit (c : Issue) (s : State) (q : Nat) (cons : Option Nat) (d : Nat) (rc : Bool) (pd : Nat) (mk : W64 → Nat → Nat) : Out :=
  let g := c.g
  let ctx := s.grpCtx g
  match s.qhdr ctx q with
  | none => .next (s.trapExec c Cause.prot 0xFF 0)
  | some h =>
    if !h.enabled || (cons.isSome && cons != some h.cons) then .next (s.trapExec c Cause.prot 0xFF 0)
    else match s.devPa ctx (h.slot h.wr) 1 with
      | none => .next (s.trapExec c Cause.prot 0xFF 0)
      | some pa =>
        match if rc then s.allocClaim g.core g.die ctx h else s.claim g.core g.die h with
        | .prot => .next (s.trapExec c Cause.prot 0xFF 0)
        | .wait => .next s
        | .no => .next ((s.locked c [] [pdWr c pd false]).done c)
        | .ok x s =>
          let tag := ((s.grpTeam? g).map (·.ctag)).getD 0
          let w := mk (if rc then x else 0) tag
          let (u, s) := s.fresh
          let e := mkEntry c u (.engine (pktId ctx q h.wr)) 128 0 (.mem pa 2) 64 w 0 5 false
          let s := s.modGrp g.id fun g => { g with obq := g.obq ++ [e], engines := g.engines ++ [pktId ctx q h.wr] }
          .next ((s.locked c [] ((if rc then [.hset d x] else []) ++ [pdWr c pd true])).done c)

/-- Queue q of a context is enabled for a consumer (10 R217, 12 R270). -/
def State.queueFor (s : State) (ctx q cons : Nat) : Bool := ((s.qhdr ctx q).map fun h => h.enabled && h.cons == cons).getD false

/-- XCOPY (10 R227, R229). -/
def execXcopy (h : Hdr) (o : XOp) (s : State) : Out :=
  withIssue (.xcopy h o) s fun c s =>
    let g := c.g
    if !s.winOk g (g.s o.c) 16 then .next (s.trapExec c Cause.prot 0xFF (g.s o.c))
    else submit c s o.q (some 1) o.d true o.f.pd fun hd tag =>
      Pkt.word ⟨2, o.f.ord, o.f.esz, tag, hd, g.s o.a, g.s o.b, g.s o.c, 0, 0⟩

/-- XFILL (10 R230). -/
def execXfill (h : Hdr) (o : XOp) (s : State) : Out :=
  withIssue (.xfill h o) s fun c s =>
    let g := c.g
    if !s.winOk g (g.s o.c) 16 then .next (s.trapExec c Cause.prot 0xFF (g.s o.c))
    else submit c s o.q (some 1) o.d true o.f.pd fun hd tag =>
      Pkt.word ⟨3, o.f.ord, o.f.esz, tag, hd, g.s o.a, 0, g.s o.c, g.s o.b, if o.f.esz = 4 then g.s (o.b + 1) else 0⟩

/-- XGATH (10 R230): row stride and index count are read at issue. -/
def execXgath (h : Hdr) (o : XOp) (s : State) : Out :=
  withIssue (.xgath h o) s fun c s =>
    let g := c.g
    if !s.winOk g (g.s o.b) 16 then .next (s.trapExec c Cause.prot 0xFF (g.s o.b))
    else submit c s o.q (some 1) o.d true o.f.pd fun hd tag =>
      Pkt.word ⟨4, o.f.ord, o.f.rb, tag, hd, g.s o.a, g.s o.c, g.s o.b, g.s o.f.sr, g.s o.f.sn⟩

/-- XCOLL (10 R230). -/
def execXcoll (h : Hdr) (o : XOp) (s : State) : Out :=
  withIssue (.xcoll h o) s fun c s =>
    let g := c.g
    if !s.winOk g (g.s o.c) 16 then .next (s.trapExec c Cause.prot 0xFF (g.s o.c))
    else submit c s o.q (some 1) o.d true o.f.pd fun hd tag =>
      Pkt.word ⟨5, o.f.ord, o.f.k + 2 ^ 4 * o.f.cop + 2 ^ 6 * o.f.cfmt, tag, hd, g.s o.a, 0, g.s o.c, 0, g.s o.b⟩

/-- The window offset that an address of the team or cluster window names. -/
def State.winAt (s : State) (g : Group) (a : W64) : Option (Team × Nat) :=
  match apert a, s.grpTeam? g with
  | .team o, some t => some (t, o)
  | .clu k o, some t => (s.rank? t k).map fun u => (u, o)
  | _, _ => none

/-- A packet read from the window at issue as a scratchpad load (10 R231, 20 R378): out of range it reads zero and latches. -/
def State.winPkt (s : State) (g : Group) (t : Team) (o : Nat) (a : W64) : Nat × State :=
  if o + 64 ≤ t.size then (t.rd o 64, s)
  else (0, s.modGrp g.id fun g => if g.spoob then g else { g with spoob := true, spooba := a })

/-- QPUT (10 R231). -/
def execQput (h : Hdr) (d a q : Nat) (rc : Bool) (pd : Nat) (s : State) : Out :=
  withIssue (.qput h d a q rc pd) s fun c s =>
    let ad := c.g.s a
    match if ad.toNat % 64 = 0 then s.winAt c.g ad else none with
    | none => .next (s.trapExec c Cause.prot 0xFF ad)
    | some (t, o) =>
      if !s.padFree c.g (.pad t.id o) 64 0 0 .load then .next s
      else
        let (w, s) := s.winPkt c.g t o ad
        submit c s q none d rc pd fun hd tag =>
          let w := setFld w 48 16 tag
          if rc then setFld w 64 64 hd.toNat else w

/-! ### Handles (10 R232-R235) -/

/-- A non-zero handle that is malformed, or whose ring page is missing, traps. With `waits`, one whose home cannot answer yet holds the instruction
back; FTEST and FCANCEL never wait and read what the home holds (10 R232, R234). -/
def handleRead (c : Issue) (s : State) (x : W64) (waits : Bool) (k : Rec → State → Out) : Out :=
  let ctx := s.grpCtx c.g
  if waits && !s.recordOk c.g.core c.g.die ctx x then .next s
  else match s.record ctx x with
    | .noPage => .next (s.trapExec c Cause.prot 0xFF 0)
    | .bad => .next (s.trapExec c Cause.handle 0xFF 0)
    | r => k r (s.recordSeen c.g.core c.g.die ctx x)

/-- FTEST (10 R232). -/
def execFtest (h : Hdr) (d a : Nat) (s : State) : Out :=
  withIssue (.ftest h d a) s fun c s =>
    let x := c.g.h a
    if x = 0 then .next ((s.locked c [] [pdWr c d true]).done c)
    else handleRead c s x false fun r s => .next ((s.locked c [] [pdWr c d r.isOver]).done c)

/-- A blocking read (10 R223): lanes wait while the record is pending. -/
def blockRead (c : Issue) (s : State) (x : W64) (k : Rec → State → Out) : Out :=
  if x = 0 then .next (s.trapExec c Cause.handle 0xFF 0)
  else handleRead c s x true fun r s =>
    if r.isOver then k r s else .next (s.finish c (fun _ => none) (fun _ => some (.handle x)) 8)

/-- FWAIT (10 R233). -/
def execFwait (h : Hdr) (d a w : Nat) (s : State) : Out :=
  withIssue (.fwait h d a w) s fun c s =>
    blockRead c s (c.g.h a) fun r s =>
      let v : W64 := match r with
        | .valid pa => .ofNat 64 (s.homeRead (pa + 8 * w) 8)
        | _ => if w = 0 then 0xFF else 0
      .next ((s.locked c [] [.sset d v]).done c)

/-- FEXP (10 R235). -/
def execFexp (h : Hdr) (d a : Nat) (s : State) : Out :=
  withIssue (.fexp h d a) s fun c s => .next ((s.locked c [] [.sset d (c.g.h a)]).done c)

/-- FIMP (10 R235). -/
def execFimp (h : Hdr) (d a : Nat) (s : State) : Out :=
  withIssue (.fimp h d a) s fun c s =>
    let x := c.g.s a
    if x = 0 then .next ((s.locked c [] [.hset d x]).done c)
    else handleRead c s x true fun _ s => .next ((s.locked c [] [.hset d x]).done c)

/-- The engine has accepted the job, or ended it (08 R176). -/
def Job.accepted (j : Job) : Bool := j.status != 0 || (j.started && j.lines.all (·.loc != .nowhere))

/-- A job stops: no further writes, its unsent lines leave ownership (10 R234). -/
def Job.stop (j : Job) (status fcode : Nat) (ffa : W64) : Job :=
  if j.status != 0 then j
  else { j with status, fcode, ffa, started := true, lines := j.lines.filter (·.sent), wait := none }

/-- A cancel reaches a copy engine's job. -/
def State.cancelJob (s : State) (ctx : Nat) (x : W64) : State :=
  let stop (e : CopyEng) : CopyEng := { e with jobs := e.jobs.map fun (j : Job) =>
    if j.ctx = ctx && (Pkt.of j.pkt).hdl = x then j.stop 2 0 0 else j }
  { s with copyEngs := vmap stop s.copyEngs }

/-- The register operands and fields of a request that has them. -/
def MReq.op (r : MReq) : MOp :=
  match r.instr with
  | .mwld _ o | .mma _ o | .macrd _ o | .macwr _ o => o
  | _ => ⟨0, 0, 0, 0, 0, ⟨1, 0, 0, false, false, 0, 0, 0, 0, false, false, 0, 0, false, false, 0⟩⟩

/-- A request that ended before its engine began it, or is to end so, has left the table; only its record is outstanding (11 R259). -/
def MReq.inTable (r : MReq) : Bool := r.started || (!r.done && r.status == 0)

/-- The weight sets that a request writes (11 R241). -/
def MReq.sets (r : MReq) : List Nat :=
  match r.instr with
  | .mwld _ o => if o.f.acc then List.range 7 else [o.set]
  | _ => []

/-- The sets of a request that ended with an error status (11 R248). -/
def Engine.failSets (x : Engine) (r : MReq) (status : Nat) : Engine :=
  { x with sets := r.sets.foldl (fun v i => put v i { nth v i with status }) x.sets }

/-- A request that no engine performs goes to its engine's table as ended, for its record (09 R209, 11 R259). -/
def State.discardReq (s : State) (r : MReq) (status : Nat) : State :=
  let e := s.eng r.eng
  s.setEng r.eng { e with table := e.table ++ [{ r with done := true, status, wait := none }] }

/-- A cancel reaches a matrix request (11 R259): a detached one goes to its engine's table as ended, for its record; one that has not started ends
there, an MWLD in its order, since what follows it finds its sets failed (11 R248); one that has started goes on. -/
def State.cancelReq (s : State) (ctx : Nat) (x : W64) : State :=
  let hit (r : MReq) : Bool := r.ctx == ctx && r.hdl == x
  let stop (r : MReq) : MReq := { r with done := r.sets.isEmpty, status := 2, wait := none, own := [] }
  let detached := s.teams.flatMap fun t => (t.cvs.toList.filterMap (·.bound)).filter hit
  let free (cv : Cv) : Cv := if (cv.bound.map hit).getD false then { cv with bound := none } else cv
  let unbind (t : Team) : Team := { t with cvs := vmap free t.cvs }
  let table (e : Engine) : Engine := { e with table := e.table.map fun (r : MReq) => if hit r && !r.started && !r.done && r.status == 0 then stop r else r }
  let s := { s with teams := s.teams.map unbind, engines := vmap table s.engines }
  detached.foldl (fun s r => s.discardReq r 2) s

/-- A cancel reaches a launch whose first team is not placed (12 R269). -/
def State.cancelGrid (s : State) (ctx : Nat) (x : W64) : State :=
  { s with grids := s.grids.map fun (k : Grid) =>
      if k.ctx = ctx && fld (ofWords k.pkt) 64 64 = x.toNat && k.next = 0 && k.ending.isNone then { k with ending := some (2, 0) } else k }

/-- A request of the handle has been taken by a consumer. -/
def State.takenBy (s : State) (ctx : Nat) (x : W64) : Bool :=
  s.copyEngs.toList.any (fun e => e.jobs.any fun j => j.ctx == ctx && (Pkt.of j.pkt).hdl == x) ||
  s.engines.toList.any (fun e => e.table.any fun r => r.ctx == ctx && r.hdl == x) ||
  s.teams.any (fun t => t.cvs.toList.any fun cv => (cv.bound.map fun r => r.ctx == ctx && r.hdl == x).getD false) ||
  s.grids.any (fun k => k.ctx == ctx && fld (ofWords k.pkt) 64 64 == x.toNat)

/-- FCANCEL (10 R234): never waits. -/
def execFcancel (h : Hdr) (a : Nat) (s : State) : Out :=
  withIssue (.fcancel h a) s fun c s =>
    let x := c.g.h a
    if x = 0 then .next (s.done c)
    else handleRead c s x false fun r s =>
      if r.isOver then .next (s.done c)
      else
        let ctx := s.grpCtx c.g
        let k := s.ctxD ctx
        if s.takenBy ctx x then .next ((((s.cancelJob ctx x).cancelGrid ctx x).cancelReq ctx x).done c)
        else .next ((s.setCtx { k with cancels := if k.cancels.contains x then k.cancels else k.cancels ++ [x] }).done c)

end Sys2Proof.Machine
end

