-- ==== Sys2Proof/Machine/Copy.lean ====
section
/-! DEFINITION. Copy.lean: the copy engines: taking packets, ownership, line writes and completion (10 R216-R224, R229, R230, R234,
08 R176, 14 R336). -/

namespace Sys2Proof.Machine

open Sys2Proof

/-! ### Addresses of an engine (10 R219, R221, R224, 14 R336, R338) -/

/-- What an address names for an engine: memory, a window, an error status with its code, or a failed translation. -/
inductive EAt where
  | mem (pa cls : Nat)
  | pad (team off : Nat)
  | err (status fcode : Nat)
  | miss (w : Walk)
  /-- Not yet: the walk waits for a stopped channel (13 R309). -/
  | wait
  deriving DecidableEq, Repr

/-- The team that a tag names (10 R219). -/
def State.tagTeam? (s : State) (tag : Nat) : Option Team := if tag = 0 then none else s.teams.find? (·.ctag == tag)

/-- The causes of R388 for an engine's access; a copy engine may write units in fill state. A request to memory behind an absent die, column or LPDDR-6
channel is refused (15 R344; log 91). -/
def State.ePermit (s : State) (w : Walk) (va : Nat) (write copy : Bool) : EAt :=
  match w with
  | .fail .. => .miss w
  | .ok base _ e =>
    let pa := pteFrame e + (va - base)
    let r := if copy && write && tierOf pa == .lp then s.permit w va 0 else s.permit w va (if write then 1 else 0)
    match r with
    | .fail .. => .miss r
    | .ok .. =>
      if s.absentMem pa then .err 4 6
      else if s.dieDown (homeDie pa) then .err 5 0
      else if copy && write && tierOf pa == .lp && !s.filling pa then .err 3 2
      else .mem pa (pteClass e)

/-- Where an engine's address lies. -/
def State.eAt (s : State) (die ctx tag : Nat) (va : W64) (write copy : Bool) : EAt :=
  match apert va with
  | .none | .priv _ => .err 4 6
  | .team o => match s.tagTeam? tag with
    | some t => .pad t.id o
    | none => .err 4 5
  | .clu k o => match s.tagTeam? tag with
    | some t => match s.rank? t k with
      | some u => .pad u.id o
      | none => .err 4 6
    | none => .err 4 5
  | .trans => if s.walkStops ctx va.toNat then .wait else s.ePermit (s.lookup none die ctx va.toNat s.free) va.toNat write copy

/-- What an engine's step gives: a value, a failed translation, an end of the request, or not yet. -/
inductive ER (α : Type) where
  | ok (a : α) (s : State)
  | miss (va : W64) (w : Walk) (write : Bool) (s : State)
  | err (status fcode : Nat) (va : W64)
  | wait

/-- An engine as it makes accesses: source number, die, quadrant, context, team tag, whether it is a copy engine, and the request whose own
destination delays none of its accesses (08 R176). -/
structure Eng where
  src  : Nat
  die  : Nat
  quad : Nat
  ctx  : Nat
  tag  : Nat
  copy : Bool
  job  : Nat := 0

/-- The column whose memory serves an engine: a matrix engine's own (14 R334). -/
def Eng.col (e : Eng) : Option Nat := if 2000 ≤ e.src && e.src < 2048 then some ((e.src - 2000) % 12) else none

/-- The class of an engine's read lets a requester-side copy of its quadrant serve it: P, R, or G under a lock that its team holds (08 R180). -/
def State.eNear (s : State) (e : Eng) (va : W64) (cls : Nat) : Bool :=
  cls ≤ 1 || (cls == 3 && ((s.tagTeam? e.tag).map fun t => s.lockHeld t.core t.id va).getD false)

/-- Reads n bytes that lie in one page or window, at the holding point of their class: a requester-side copy of the engine's quadrant where the class
lets it, else the home point (08 R172, R180, 10 R229, 11 R241); bytes of a window beyond its size read 0 (06 R131). -/
def State.eRead (s : State) (e : Eng) (va : W64) (n : Nat) (touch : Bool) : ER Nat :=
  match s.eAt e.die e.ctx e.tag va false e.copy with
  | .err st fc => .err st fc va
  | .wait => .wait
  | .miss w => .miss va w false s
  | .pad t o =>
    if s.owned (.pad t o) n e.job then .wait
    else match s.team? t with
    | some u => .ok (if o + n ≤ u.size then u.rd o n else 0) s
    | none => .ok 0 s
  | .mem pa cls =>
    let q := 4 * e.die + e.quad
    let near := if e.src < 3000 && s.eNear e va cls && !s.owned (.mem pa 0) n e.job then (s.quad q).copy? pa else none
    match match near with
      | some t => some (leGet t.byte pa n, if touch then s.touch q { blankReq with src := e.src } pa else s)
      | none => s.directRead e.src e.die pa n e.job (!touch) with
    | none => .wait
    | some (v, s) =>
      let s := (({ s with free := s.free + 1 }).noteAccess e.die e.col pa).cacheTlb none e.die e.ctx (s.walk e.ctx va.toNat)
      .ok v s

/-- Reads several addresses in turn. -/
def State.eReads (s : State) (e : Eng) (n : Nat) (touch : Bool) : List W64 → List Nat → ER (List Nat)
  | [], acc => .ok acc s
  | a :: as, acc =>
    match s.eRead e a n touch with
    | .ok v s => s.eReads e n touch as (acc ++ [v])
    | .miss va w wr s => .miss va w wr s
    | .err st fc va => .err st fc va
    | .wait => .wait

/-- The fault record of an engine (10 R224, 11 R259). -/
def engineFault (s : State) (ctx who id : Nat) (grid va : W64) (w : Walk) (write : Bool) (unit quad die : Nat) : Nat × State :=
  let (u, s) := s.fresh
  let (base, size, cause) := match w with
    | .fail c b z => (b, z, c)
    | .ok b z _ => (b, z, 0)
  let f : FaultRec := { uid := u, seq := none, va, pc := 0, grid, lanes := 0, slot := 127, core := unit, quad, die, cause,
                        acc := write.toNat, page := base, psize := size, who, grp := id, checked := false }
  let c := s.ctxD ctx
  (u, s.setCtx { c with faults := c.faults ++ [f] })

/-! ### Defects and layouts (10 R219, R229, R230) -/

def pktIdle (w : Nat) : Bool := fld w 448 64 == 0 && fld w 40 8 == 0 && fld w 9 7 == 0

/-- A reserved bit or value is set. -/
def pktBad (w : Nat) : Bool :=
  let p := Pkt.of w
  !pktIdle w ||
  (match p.kind with
   | 2 => p.par / 8 != 0 || 4 < p.par % 8 || p.x1 != 0 || p.x2 != 0
   | 3 => p.par / 8 != 0 || 4 < p.par % 8 || p.src != 0
   | 4 => p.par / 2 ^ 16 != 0 || p.par = 0
   | 5 => p.par / 2 ^ 8 != 0 || fld p.par 0 4 = 0 || 8 ≤ fld p.par 0 4 || fld p.par 4 2 = 3 || p.src != 0 || p.x1 != 0
   | _ => true)

/-- Digits of k in mixed radix, dimension 0 fastest, times the strides. -/
def offsetOf : List Nat → List Int → Nat → Int
  | z :: zs, d :: ds, k => ((k % z : Nat) : Int) * d + offsetOf zs ds (k / z)
  | _, _, _ => 0

/-- Lowest and highest byte that a half names. -/
def spanOf (base : Int) (sizes : List Nat) (strides : List Int) (e : Nat) : Int × Int :=
  (sizes.zip strides).foldl (fun (lo, hi) (z, d) =>
    let r := ((z - 1 : Nat) : Int) * d
    (lo + min r 0, hi + max r 0)) (base, base + e - 1)

/-- The sizes and signed strides of a half of a descriptor, from its 14 words. -/
def halfOf (ws : List Nat) : List Nat × List Int :=
  let at' (i : Nat) : Nat := (ws[i]?).getD 0
  ((List.range 7).map fun i => at' (2 * i), (List.range 7).map fun i => (BitVec.ofNat 64 (at' (2 * i + 1))).toInt)

/-- A destination element before lines are formed: its address, size, sources and value. -/
structure Dest where
  va   : W64
  n    : Nat
  srcs : List W64
  val  : Nat
  deriving DecidableEq, Repr

/-- The elements a packet names, or the status code of the first check that fails. -/
inductive Plan where
  | bad (fcode : Nat)
  | ok (ds : List Dest) (total : Nat)
  deriving DecidableEq, Repr

def addI (a : W64) (x : Int) : W64 := a + .ofInt 64 x

/-- Two byte ranges meet. -/
def meets (a b : Int × Int) : Bool := a.1 ≤ b.2 && b.1 ≤ a.2

/-- XCOPY and XFILL (10 R229, R230): `ws` is the descriptor. -/
def planCopy (p : Pkt) (ws : List Nat) : Plan :=
  let e := 2 ^ (p.par % 8)
  let copy := p.kind == 2
  let (sz, sd) := halfOf ws
  let (dz, dd) := if copy then halfOf (ws.drop 14) else (sz, sd)
  let n := sz.foldl (· * ·) 1
  let m := dz.foldl (· * ·) 1
  let al (b : W64) (ds : List Int) : Bool := b.toNat % e == 0 && ds.all fun d => d % e == 0
  if copy && n != m then .bad 2
  else if !al p.dst dd || (copy && !al p.src sd) then .bad 3
  else if m = 0 then .ok [] 0
  else if copy && meets (spanOf p.dst.toNat dz dd e) (spanOf p.src.toNat sz sd e) then .bad 4
  else
    .ok ((List.range m).map fun k =>
      ⟨addI p.dst (offsetOf dz dd k), e, if copy then [addI p.src (offsetOf sz sd k)] else [],
       (p.x1.toNat + 2 ^ 64 * p.x2.toNat) % 2 ^ (8 * e)⟩) (m * e)

/-- XGATH (10 R230): `ix` are the indices. -/
def planGather (p : Pkt) (ix : List Nat) : Plan :=
  let rb := p.par
  let stride := p.x1.toInt
  if p.dst.toNat % 16 ≠ 0 ∨ p.src.toNat % 16 ≠ 0 ∨ stride % 16 ≠ 0 then .bad 3
  else
    let rows := (ix.zip (List.range ix.length)).map fun (i, k) =>
      (addI p.dst (16 * k * rb : Nat), addI p.src ((BitVec.ofNat 32 i).toInt * stride))
    let sp (a : W64) : Int × Int := ((a.toNat : Int), (a.toNat + 16 * rb : Nat) - 1)
    if rows.any fun r => rows.any fun t => meets (sp r.1) (sp t.2) then .bad 4
    else .ok (rows.flatMap fun r => (List.range rb).map fun j => ⟨addI r.1 (16 * j : Nat), 16, [addI r.2 (16 * j : Nat)], 0⟩) (16 * rb * ix.length)

def collSize (p : Pkt) : Nat := if fld p.par 6 2 = 0 ∨ fld p.par 6 2 = 3 then 4 else 2

/-- XCOLL (10 R230): `tab` are the source addresses. -/
def planColl (p : Pkt) (tab : List Nat) : Plan :=
  let e := collSize p
  let n := p.x2.toNat
  let bases := tab.map (BitVec.ofNat 64)
  let sp (a : W64) : Int × Int := ((a.toNat : Int), (a.toNat + e * n : Nat) - 1)
  if p.dst.toNat % e ≠ 0 ∨ bases.any (fun b => b.toNat % e != 0) then .bad 3
  else if n != 0 && bases.any (fun b => meets (sp p.dst) (sp b)) then .bad 4
  else .ok ((List.range n).map fun i => ⟨addI p.dst (e * i : Nat), e, bases.map fun b => addI b (e * i : Nat), 0⟩) (e * n)

/-- One step of XCOLL's combination in CFMT (10 R230). -/
def collStep (cop cfmt a b : Nat) : Nat :=
  if cfmt = 3 then
    let x := BitVec.ofNat 32 a
    let y := BitVec.ofNat 32 b
    match cop with
    | 0 => (x + y).toNat
    | 1 => if x.slt y then a else b
    | _ => if x.slt y then b else a
  else
    let F : Fmt := if cfmt = 0 then .fp32 else if cfmt = 1 then .bf16 else .fp16
    match cop with
    | 0 => (fnFadd F .rn false a b).1
    | 1 => fnMinMax F false a b
    | _ => fnMinMax F true a b

/-- The value of a destination element from its sources' values. -/
def elemVal (p : Pkt) (x : Elem) (vs : List Nat) : Nat :=
  match vs with
  | [] => x.val
  | v :: rest => if p.kind = 5 then rest.foldl (collStep (fld p.par 4 2) (fld p.par 6 2)) v else v

/-! ### Lines (08 R176) -/

/-- Line and offset of an address: 128 bytes of translated memory, 16 of a window. -/
def lineVa (va : W64) : W64 :=
  match apert va with
  | .trans => .ofNat 64 (va.toNat / 128 * 128)
  | _ => .ofNat 64 (va.toNat / 16 * 16)

/-- Adds an element to its line. -/
def addElem (ls : List DLine) (d : Dest) : List DLine :=
  let b := lineVa d.va
  let x : Elem := ⟨(d.va - b).toNat, d.n, d.srcs, d.val⟩
  if ls.any fun (l : DLine) => l.va == b then ls.map fun (l : DLine) => if l.va = b then { l with els := l.els ++ [x] } else l
  else ls ++ [⟨.nowhere, b, [x], false⟩]

def formLines (ds : List Dest) : List DLine := ds.foldl addElem []

/-- The L1 lines and copies of a line of memory, written back by then, are dropped (08 R176). -/
def State.dropExtent (s : State) (pa : Nat) : State := s.dropAll (fun _ => true) (fun _ => true) (lineOf pa) 128

/-- The lines of a destination, as runs of bytes. -/
def extentRuns (ls : List Loc) : List (Nat × Nat) :=
  (ls.filterMap fun l => match l with
    | .mem pa _ => some (lineOf pa)
    | _ => none).eraseDups.map fun a => (a, 128)

/-- A store to a line stands in the apply queue of its home die: performed at `.die`, it comes before what is accepted now. -/
def State.storeTaken (s : State) (pa n : Nat) : Bool :=
  s.dies.toList.any fun d => d.applyq.toList.any (·.any fun r => r.write && !r.isBack && (match r.loc with
    | .mem a _ => a < pa + n && pa < a + max r.n 1
    | _ => false))

/-! ### Jobs -/

def cpeDie (cpe : Nat) : Nat := cpe / 8
def cpeQuad (cpe : Nat) : Nat := cpe % 8 / 2

def Job.eng (j : Job) (cpe : Nat) : Eng := ⟨1000 + cpe, cpeDie cpe, cpeQuad cpe, j.ctx, (Pkt.of j.pkt).team, true, j.uid⟩

def State.modJob (s : State) (cpe uid : Nat) (f : Job → Job) : State :=
  let c := s.cpe cpe
  s.setCpe cpe { c with jobs := c.jobs.map fun (j : Job) => if j.uid = uid then f j else j }
def State.job? (s : State) (cpe uid : Nat) : Option Job := (s.cpe cpe).jobs.find? (·.uid == uid)

/-- A failed translation holds the job (10 R224). -/
def State.jobMiss (s : State) (cpe : Nat) (j : Job) (va : W64) (w : Walk) (write : Bool) : State :=
  let (u, s) := engineFault s j.ctx 1 j.uid j.grid va w write (cpe % 8) (cpeQuad cpe) (cpeDie cpe)
  s.modJob cpe j.uid fun j => { j with wait := some u }

/-- Where a job's destination lines lie: all of them, or what keeps the job from being accepted. -/
inductive Places where
  | ok (ls : List DLine)
  | wait
  | err (status fcode : Nat) (va : W64)
  | miss (va : W64) (w : Walk)

def State.findLines (s : State) (cpe : Nat) (j : Job) : List DLine → List DLine → Places
  | [], acc => .ok acc
  | l :: ls, acc =>
    match s.eAt (cpeDie cpe) j.ctx (Pkt.of j.pkt).team l.va true true with
    | .mem pa cls =>
      if s.owned (.mem pa 0) 128 j.uid || s.storeTaken pa 128 || s.repairing pa then .wait else s.findLines cpe j ls (acc ++ [{ l with loc := .mem pa cls }])
    | .pad t o => if s.owned (.pad t (o / 16 * 16)) 16 j.uid then .wait else s.findLines cpe j ls (acc ++ [{ l with loc := .pad t o }])
    | .err st fc => .err st fc (if st = 4 then 0 else l.va)
    | .wait => .wait
    | .miss w => .miss l.va w

/-- The packet of an accepted job is performed (08 R176). -/
def State.acceptJob (s : State) (cpe uid : Nat) : State :=
  match s.job? cpe uid with
  | some j => if j.accepted then s.packetTaken (pktId j.ctx j.q j.slot) else s
  | none => s

/-- Acceptance (08 R176, 10 R216): the destination is translated whole and enters the ownership table, and its copies, whose dirty bytes are written
back first, are dropped; a line that another request owns, or a store on its way to one, delays it. -/
def State.placeLines (s : State) (cpe : Nat) (j : Job) (ls : List DLine) : State :=
  match s.findLines cpe j ls [] with
  | .wait => s
  | .err st fc va => s.modJob cpe j.uid (·.stop st fc va)
  | .miss va w => s.jobMiss cpe j va w true
  | .ok ls =>
    let ps := extentRuns (ls.map (·.loc))
    if !s.runsClean (fun _ => true) ps then s.cleanRuns (fun _ => true) ps
    else
      let s := ps.foldl (fun s p => s.dropExtent p.1) { s with free := s.free + 1 }
      s.modJob cpe j.uid fun j => { j with lines := ls }

/-- Addresses of a table of n entries. -/
def tableAt (base : W64) (size n : Nat) : List W64 := (List.range n).map fun i => base + .ofNat 64 (size * i)

/-- The first address among some that no engine may use: its status code (10 R221). -/
def State.badBase (s : State) (tag : Nat) (vas : List W64) : Option Nat :=
  vas.findSome? fun va => match apert va with
    | .none | .priv _ => some 6
    | .team _ => if (s.tagTeam? tag).isNone then some 5 else none
    | .clu k _ => match s.tagTeam? tag with
      | some t => if s.inCluster t k then none else some 6
      | none => some 5
    | .trans => none

/-- The descriptor or table of a packet: its entries' addresses, and the bytes of each. -/
def Pkt.table (p : Pkt) : List W64 × Nat :=
  match p.kind with
  | 2 => (tableAt p.dsc 8 28, 8)
  | 3 => (tableAt p.dsc 8 14, 8)
  | 4 => (tableAt p.dsc 4 p.x2.toNat, 4)
  | _ => (tableAt p.dsc 8 (fld p.par 0 4 + 1), 8)

/-- The addresses that a job has still to read. -/
def Job.sources (j : Job) : List W64 :=
  if !j.started then (Pkt.of j.pkt).table.1
  else if !j.accepted then []
  else (j.lines.filter fun (l : DLine) => !l.sent).flatMap fun (l : DLine) => l.els.flatMap fun x => x.srcs

/-- Starts a job: reads its descriptor or table, checks, and comes to own the destination. -/
def State.startJob (s : State) (cpe : Nat) (j : Job) : State :=
  let p := Pkt.of j.pkt
  let halt (fc : Nat) : State := s.modJob cpe j.uid (·.stop 4 fc 0)
  let bases := [p.dst, p.dsc] ++ (if p.kind = 2 ∨ p.kind = 4 then [p.src] else [])
  match s.badBase p.team bases with
  | some fc => halt fc
  | none =>
    let tab := p.table
    if p.dsc.toNat % tab.2 ≠ 0 then halt 3
    else match s.eReads (j.eng cpe) tab.2 false tab.1 [] with
      | .wait => s
      | .err st fc va => s.modJob cpe j.uid (·.stop st fc (if st = 4 then 0 else va))
      | .miss va w wr s => s.jobMiss cpe j va w wr
      | .ok ws s =>
        let plan := match p.kind with
          | 2 | 3 => planCopy p ws
          | 4 => planGather p ws
          | _ => planColl p ws
        match plan with
        | .bad fc => halt fc
        | .ok ds total =>
          match s.badBase p.team (ds.flatMap fun d => d.va :: d.srcs) with
          | some fc => halt fc
          | none =>
            let ls := formLines ds
            (s.modJob cpe j.uid fun j => { j with started := true, lines := ls, total }).placeLines cpe j ls

/-! ### Taking packets (10 R218, R219, 14 R315) -/

/-- The head packet of a queue, if its slot is written: slot address, index, header, packet. -/
def State.head? (s : State) (ctx q : Nat) : Option (Nat × QHdr × Nat) :=
  if !s.descOk ctx then none
  else (s.qhdr ctx q).bind fun h =>
    if !h.enabled then none
    else (s.devPa ctx (h.slot h.rd) 1).bind fun pa =>
      let w := s.homeRead pa 64
      if fld w 0 8 = 0 then none else some (pa, h, w)

/-- Writes the kind as 0 and advances rd; none where the homes cannot answer yet. -/
def State.takeSlot (s : State) (src d pa : Nat) (h : QHdr) : Option State :=
  (s.directWrite src d pa 1 0).bind fun s => s.directWrite src d (h.pa + 16) 8 (h.rd + 1)

/-- Units that the part holds (15 R344). -/
def State.corePresent (s : State) (core : Nat) : Bool := (nth s.md.capdie (core / 48)).getLsbD 84 && (nth s.md.capdie (core / 48)).getLsbD (core % 48)
def State.matPresent (s : State) (e : Nat) : Bool := (nth s.md.capdie (e / 12)).getLsbD 84 && (nth s.md.capdie (e / 12)).getLsbD (48 + e % 12)
def State.cpePresent (s : State) (e : Nat) : Bool := (nth s.md.capdie (e / 8)).getLsbD 84 && (nth s.md.capdie (e / 8)).getLsbD (64 + e % 8)

/-- The check of a context's descriptor when a packet is about to be taken or a record written: a malformed one makes one error
record until it has been found well formed again (14 R315, 15 R346). -/
def State.checkDesc (s : State) (ctx : Nat) : State :=
  let c := s.ctxD ctx
  if s.md.ctxcnt.toNat ≤ ctx then s
  else if (s.desc ctx).wellFormed then (if c.badDesc then s.setCtx { c with badDesc := false } else s)
  else if c.badDesc then s
  else (s.setCtx { c with badDesc := true }).errorRec (s.md.ctxbase.toNat + 64 * ctx) 0 ctx 7 0 5

/-- Every external write accepted so far is applied: the acquire of a kind word (10 R218, 08 R183). -/
def State.extQuiet (s : State) : Bool := (List.range 4).all fun h => (s.die h).extAcc ≤ (s.die h).extApplied h

/-- A copy engine may take the head packet of a queue now: packets of one queue are accepted in slot order (10 R216). -/
def State.copyHead? (s : State) (cpe ctx q : Nat) : Option (Nat × QHdr × Nat) :=
  if (s.die (cpeDie cpe)).phase != .run then none
  else (s.head? ctx q).filter fun (_, h, w) =>
    h.cons == 1 && h.die == cpeDie cpe && h.quad == cpeQuad cpe && (s.cpe cpe).jobs.length < 16 && s.extQuiet &&
    !(s.copyEngs.toList.any fun e => e.jobs.any fun j => j.ctx == ctx && j.q == q && !j.accepted) &&
    !((Pkt.of w).chain && s.copyEngs.toList.any fun e => e.jobs.any fun j => j.ctx == ctx && j.q == q)

/-- No copy engine of the quadrant that a queue names is present (15 R344). -/
def State.absentEngines (s : State) (cpe : Nat) : Bool := !s.cpePresent (cpe / 2 * 2) && !s.cpePresent (cpe / 2 * 2 + 1)

def copyProd (cpe : Nat) : Nat := prodOf 0 (cpeDie cpe) (cpeQuad cpe) (cpe % 8)

/-- Takes a packet and ends it at once with a status. -/
def State.endPacket (s : State) (src d ctx q pa : Nat) (h : QHdr) (w prod status fcode : Nat) (ffa : W64) : State :=
  match s.putRecord src d ctx (Pkt.of w).hdl ⟨status, fcode, prod, 0, 0, ffa⟩ with
  | none => s
  | some s' => match s'.takeSlot src d pa h with
    | none => s
    | some s' => (s'.packetTaken (pktId ctx q h.rd)).engineDone (pktId ctx q h.rd)

/-- A copy engine takes a packet of the given kind: cancelled, defective, or accepted as a job. -/
def takePacket (kind cpe ctx q : Nat) (s : State) : Out :=
  let s := s.checkDesc ctx
  match s.copyHead? cpe ctx q with
  | none => .next s
  | some (pa, h, w) =>
    let p := Pkt.of w
    if p.kind != kind then .next s
    else if !s.cpePresent cpe then
      .next (if s.absentEngines cpe then s.endPacket (1000 + cpe) (cpeDie cpe) ctx q pa h w (copyProd cpe) 4 6 0 else s)
    else
      let d := cpeDie cpe
      let src := 1000 + cpe
      if p.hdl != 0 && (s.ctxD ctx).cancels.contains p.hdl then .next (s.endPacket src d ctx q pa h w (copyProd cpe) 2 0 0)
      else if pktBad w then .next (s.endPacket src d ctx q pa h w (copyProd cpe) 4 1 0)
      else match s.takeSlot src d pa h with
        | none => .next s
        | some s =>
          let (u, s) := s.fresh
          let grid := (((s.tagTeam? p.team).bind fun t => s.grid? t.grid).map (·.gridid)).getD 0
          let j : Job := { uid := u, ctx, q, slot := h.rd, pkt := w, grid, started := false, lines := [], written := 0, total := 0,
                           status := 0, fcode := 0, ffa := 0, wait := none }
          let c := s.cpe cpe
          .next (((s.setCpe cpe { c with jobs := c.jobs ++ [j] }).startJob cpe j).acceptJob cpe u)

/-- COPY_PACKET (10 R229). -/
def execCopyPacket (cpe ctx q : Nat) (s : State) : Out := takePacket 2 cpe ctx q s
/-- FILL_PACKET (10 R230). -/
def execFillPacket (cpe ctx q : Nat) (s : State) : Out := takePacket 3 cpe ctx q s
/-- GATHER_PACKET (10 R230). -/
def execGatherPacket (cpe ctx q : Nat) (s : State) : Out := takePacket 4 cpe ctx q s
/-- COLLECTIVE_PACKET (10 R230). -/
def execCollectivePacket (cpe ctx q : Nat) (s : State) : Out := takePacket 5 cpe ctx q s

/-! ### Line writes and completion (08 R176, 10 R221, R224, R229) -/

/-- The elements of a line with their values read. -/
def State.lineVals (s : State) (e : Eng) (p : Pkt) : List Elem → List (Nat × Nat × Nat) → ER (List (Nat × Nat × Nat))
  | [], acc => .ok acc s
  | x :: xs, acc =>
    match s.eReads e x.n true x.srcs [] with
    | .ok vs s => s.lineVals e p xs (acc ++ [(x.off, x.n, elemVal p x vs)])
    | .miss va w wr s => .miss va w wr s
    | .err st fc va => .err st fc va
    | .wait => .wait

/-- The cells that elements write at a base: for a byte named twice, the later element's. -/
def valCells (base : Nat) (vs : List (Nat × Nat × Nat)) : List Host.Cell :=
  vs.foldl (fun m (o, n, v) => (leCells (base + o) n v).foldl (fun m c => cellPut m c.1 c.2) m) []

/-- A granule written by an engine: bytes in range change, and it becomes full when all of it was written (06 R132). -/
def State.granWrite (s : State) (t off : Nat) (cells : List Host.Cell) : State :=
  match s.team? t with
  | none => s
  | some u =>
    if u.size < off + 16 then s
    else
      let s := (s.setTeam { u with win := memWriteAll u.win cells }).killResv (.pad t off) 16 0 0 0 128 true
      if cells.length = 16 then (s.setGran (t, off / 16) true).bank t else s

/-- The job goes on where its record is resolved. -/
def State.jobReady (s : State) (j : Job) : Bool :=
  match j.wait with
  | none => true
  | some r => !((s.ctxD j.ctx).faults.any (·.uid == r))

/-- ENGINE_LINE_WRITE: a job writes one of its destination lines; one not yet started reads its descriptor first. -/
def execEngineLineWrite (cpe job line : Nat) (s : State) : Out :=
  match (s.cpe cpe).jobs[job]? with
  | none => .next s
  | some j =>
    if j.status != 0 || !s.jobReady j then .next s
    else
      let s := s.modJob cpe j.uid fun j => { j with wait := none }
      if !j.started then .next ((s.startJob cpe { j with wait := none }).acceptJob cpe j.uid)
      else if !j.accepted then .next ((s.placeLines cpe { j with wait := none } j.lines).acceptJob cpe j.uid)
      else match j.lines[line]? with
        | none => .next s
        | some l =>
          if l.sent then .next s
          else match s.lineVals (j.eng cpe) (Pkt.of j.pkt) l.els [] with
            | .wait => .next s
            | .err st fc va => .next (s.modJob cpe j.uid (·.stop st fc (if st = 4 then 0 else va)))
            | .miss va w wr s => .next (s.jobMiss cpe j va w wr)
            | .ok vs s =>
              match l.loc with
              | .pad t o =>
                let cells := valCells o vs
                let s := s.modJob cpe j.uid fun j => { j with lines := j.lines.filter (· != l), written := j.written + cells.length }
                .next (s.granWrite t o cells)
              | .mem pa cls =>
                let cells := valCells pa vs
                if s.dieDown (homeDie pa) then .next (s.modJob cpe j.uid (·.stop 5 0 l.va))
                else if s.writeBlocked (cpeDie cpe) (homeDie pa) then .next s
                else
                  let (u, s) := (s.noteAccess (cpeDie cpe) none pa).fresh
                  let s := s.modJob cpe j.uid fun j =>
                    { j with lines := j.lines.map fun (x : DLine) => if x = l then { x with sent := true } else x, written := j.written + cells.length }
                  .next (s.send { blankReq with uid := u, src := 1000 + cpe, srcDie := cpeDie cpe, home := homeDie pa, ent := j.uid,
                                                loc := .mem pa cls, n := 128, cells, write := true,
                                                far := decide (homeQuad pa = 4 * cpeDie cpe + cpeQuad cpe) })
              | .nowhere => .next s

/-- ENGINE_COMPLETE: once every line has been applied or given up, the record is written and the job leaves. -/
def execEngineComplete (cpe job : Nat) (s : State) : Out :=
  match (s.cpe cpe).jobs[job]? with
  | none => .next s
  | some j =>
    if !j.started || !j.lines.isEmpty then .next s
    else
      let p := Pkt.of j.pkt
      let v : RecVal := if j.status = 0 then ⟨1, 0, copyProd cpe, 0, j.total, 0⟩ else ⟨j.status, j.fcode, copyProd cpe, 0, j.written, j.ffa⟩
      match s.putRecord (1000 + cpe) (cpeDie cpe) j.ctx p.hdl v with
      | none => .next s
      | some s =>
        let c := s.cpe cpe
        .next ((s.setCpe cpe { c with jobs := c.jobs.filter (·.uid != j.uid) }).engineDone (pktId j.ctx j.q j.slot))

end Sys2Proof.Machine
end

