-- ==== Sys2Proof/Machine/MatFn.lean ====
section
/-! DEFINITION. MatFn.lean: plane tiles, the FX96 accumulator, window sums, pre-sums and output conversion (11 R237,
R238, R246-R249, R255, R256). -/

namespace Sys2Proof

/-! ### Formats and plane tiles (11 R237, R238) -/

/-- Magnitude bits w of a format under a declared width. -/
def mW (fmt nw : Nat) : Nat :=
  match fmt with
  | 0 => 3 | 1 | 2 => 7 | 3 | 4 => 15
  | 5 => if nw = 0 then 3 else nw
  | _ => if nw = 0 then 7 else nw

/-- Bytes of one row of a plane tile. -/
def mWb (fmt nw : Nat) : Nat := 32 * (mW fmt nw + 1) + (if fmt = 0 then 32 else 0)

/-- Bytes of a plane tile of n rows. -/
def mTile (fmt nw n : Nat) : Nat := n * mWb fmt nw + (if fmt = 0 then 64 else 0)

/-- MACs per element per cycle r. -/
def mRate (fmt nw : Nat) : Nat :=
  let w := mW fmt nw + 2
  if w ≤ 5 then 4 else if w ≤ 10 then 2 else 1

/-- The code of element k of a row of planes held as one little-endian number: magnitude planes 0 to w-1, sign plane w. -/
def planeCode (w k row : Nat) : Nat :=
  (List.range (w + 1)).foldl (fun acc j => acc + 2 ^ j * (row / 2 ^ (256 * j + k) % 2)) 0

/-- The planes of a row as one number from the codes of its 256 elements. -/
def planesOf (w : Nat) (codes : List Nat) : Nat :=
  (List.range (w + 1)).foldl (fun acc j =>
    acc + 2 ^ (256 * j) * (codes.zipIdx.foldl (fun a (c, k) => a + 2 ^ k * (c / 2 ^ j % 2)) 0)) 0

/-- An element with its scale: `num` is the value without FP4's scales, `scale` the exact product of block and band
scale (11 R249). -/
structure El where
  num   : Num
  scale : Num
  deriving DecidableEq, Repr

def Num.one : Num := .fin false 1 0

/-- The value of a code of w+1 bits. -/
def codeVal (fmt nw c : Nat) : Num :=
  match fmt with
  | 0 => fv c .e2m1
  | 1 => fv c .e4m3
  | 2 => fv c .e5m2
  | 3 => fv c .bf16
  | 4 => fv c .fp16
  | _ =>
    let w := mW fmt nw
    .ofInt (if 2 ^ w ≤ c then (c : Int) - (2 ^ (w + 1) : Nat) else c)

def El.val (x : El) : Num := (mulNum x.num x.scale).1

/-- Element k of row i of a plane tile held as one little-endian number. -/
def tileEl (fmt nw n tile i k : Nat) : El :=
  let w := mW fmt nw
  let row := tile / 2 ^ (8 * (i * mWb fmt nw))
  let num := codeVal fmt nw (planeCode w k row)
  if fmt = 0 then
    let blk := row / 2 ^ (8 * (128 + k / 8)) % 256
    let band := tile / 2 ^ (8 * (n * mWb fmt nw + 2 * (i / 64))) % 2 ^ 16
    ⟨num, (mulNum (fv blk .e3m5) (fv band .bf16)).1⟩
  else ⟨num, .one⟩

/-! ### FX96 (11 R246, R247) -/

def fxNan : W96 := .ofNat 96 (2 ^ 80 * 0x7FFF + 0xC0000000000000000000)

/-- The value an FX96 element encodes. -/
def fxVal (x : W96) : Num :=
  let n := x.toNat
  let m := n % 2 ^ 80
  let e := n / 2 ^ 80 % 2 ^ 15
  let s := n / 2 ^ 95 == 1
  if e = 32767 then (if m = 0 then .inf s else .nan)
  else .fin s m ((max e 1 : Nat) - 16383 - 79)

/-- round_fx(v, st) (11 R247). -/
def roundFx (v : Num) (st : Bool) : W96 :=
  match v with
  | .nan => fxNan
  | .inf s => .ofNat 96 (2 ^ 95 * s.toNat + 2 ^ 80 * 32767)
  | .fin s m e =>
    if m = 0 then 0
    else
      let (k, q, _) := roundVal 79 (-16382) .rn s ⟨m, e, st⟩
      if k = 0 then 0
      else
        let lg := q + k.log2
        if 16384 ≤ lg then .ofNat 96 (2 ^ 95 * s.toNat + 2 ^ 80 * 32767)
        else if lg < -16382 then .ofNat 96 (2 ^ 95 * s.toNat + k)
        else .ofNat 96 (2 ^ 95 * s.toNat + 2 ^ 80 * (lg + 16383).toNat + k * 2 ^ 79 / 2 ^ k.log2)

/-- addz(t, v, st, first) (11 R247). -/
def addz (t : W96) (v : Num) (st first : Bool) : W96 :=
  if first then roundFx v st else roundFx (addNum false (fxVal t) v).1 st

/-- A finite product truncated toward zero to a multiple of 2^q, in units of 2^q, and whether that changed it. -/
def truncTo (neg : Bool) (m : Nat) (e q : Int) : Int × Bool :=
  if q ≤ e then (sgnInt neg (shl' m (e - q)), false)
  else (sgnInt neg (m / 2 ^ (q - e).toNat), m % 2 ^ (q - e).toNat != 0)

/-- window(x, w): the sum of products about the anchor, and whether bits were cut (11 R247). -/
def window (xs ws : List Num) : Num × Bool :=
  let p := (xs.zip ws).map fun (x, w) => (mulNum x w).1
  let pinf := p.any fun v => v.isInf && !v.neg
  let ninf := p.any fun v => v.isInf && v.neg
  if p.any Num.isNan || (pinf && ninf) then (.nan, false)
  else if pinf || ninf then (.inf ninf, false)
  else
    let top := p.foldl (fun (acc : Option Int) v => match v with
      | .fin _ m e => if m = 0 then acc else some (match acc with
        | none => e + m.log2
        | some t => max t (e + m.log2))
      | _ => acc) none
    match top with
    | none => (.fin false 0 0, false)
    | some E =>
      let (s, st) := p.foldl (fun (s, st) v => match v with
        | .fin n m e => let (q, cut) := truncTo n m e (E - 80); (s + q, st || cut)
        | _ => (s, st)) ((0 : Int), false)
      (.fin (s < 0) s.natAbs (E - 80), st)

/-- The exponent floor and significand width of a floating matrix format, for P(F) (11 R249). -/
def mFmtOf : Nat → Option Fmt
  | 0 => some .e2m1 | 1 => some .e4m3 | 2 => some .e5m2 | 3 => some .bf16 | 4 => some .fp16 | _ => none

/-- round-to-nearest-even to P(F): F's f and least exponent, no upper bound in reach (11 R249). -/
def roundP (F : Fmt) (neg : Bool) (x : Mag) : Num :=
  let (k, q, _) := roundVal F.fb (1 - F.bias) .rn neg x
  .fin neg k q

/-- A pre-sum a ± b (11 R249); a scale product of 0 leaves the other one, two leave +0 (21 R382). -/
def presum (fmt : Nat) (sub : Bool) (a b : El) : Num :=
  match mFmtOf fmt with
  | none => (addNum false a.num (b.num.flip sub)).1
  | some F =>
    if fmt = 0 then
      match a.scale, b.scale with
      | .nan, _ | _, .nan => .nan
      | .fin sa ma ea, .fin sb mb eb =>
        let S := if mb = 0 then a.scale else if ma = 0 || ltNum (.fin sa ma ea) (.fin sb mb eb) then b.scale else a.scale
        match S, (addNum false a.val (b.val.flip sub)).1 with
        | .fin ss ms es, .fin n m e =>
          if ms = 0 then .fin false 0 0
          else (mulNum (if m = 0 then .fin n 0 0 else roundP F (n != ss) (divMag m e ms es 24)) S).1
        | _, _ => .nan
      | _, _ => fv (Config.openValue 1 0) .bf16
    else
      match (addNum false a.num (b.num.flip sub)).1 with
      | .fin n m e => if m = 0 then .fin n 0 0 else roundP F n ⟨m, e, false⟩
      | x => x

/-! ### Output and input conversion (11 R255, R256) -/

/-- Bytes of an output code. -/
def macSize : Nat → Nat
  | 0 => 4 | 1 => 2 | 2 => 2 | 3 => 1 | 4 => 1 | 5 => 4 | 6 => 1 | _ => 12

def macFmt : Nat → Option Fmt
  | 0 => some .fp32 | 1 => some .bf16 | 2 => some .fp16 | 3 => some .e4m3 | 4 => some .e5m2 | _ => none

/-- One element of MACRD (11 R255): code of macSize bytes, flags. -/
def macOut (fmt : Nat) (rm : Rm) (sat : Bool) (x : W96) : FRes :=
  match macFmt fmt with
  | some F =>
    match fxVal x with
    | .nan => (canon F, 0)
    | .inf n =>
      if sat then (signed F n F.maxc, .sat)
      else match F.inf with
        | some i => (signed F n i, 0)
        | none => (canon F, 0)
    | .fin n m e =>
      let (c, inex) := roundCode F rm n ⟨m, e, false⟩
      if F.maxc < c then
        if sat then (signed F n F.maxc, .sat)
        else if F.inf.isNone then (canon F, .ovf ||| .inx)
        else (signed F n (ovfCode F rm n), .ovf ||| .inx)
      else (signed F n c, roundFl F c inex)
  | none =>
    if fmt = 7 then (x.toNat, 0)
    else
      let b := if fmt = 5 then 32 else 8
      let (i, fl) := cvtInt b true rm (fxVal x)
      ((i % ((2 ^ b : Nat) : Int)).toNat, fl)

/-- One element of MACWR (11 R256): the FX96 of the input's exact value; FX96 input as stored. -/
def macIn (fmt : Nat) (x : Nat) : W96 :=
  if fmt = 7 then .ofNat 96 x
  else
    let v := match macFmt fmt with
      | some F => fv x F
      | none => (CTy.int 32 true).val x
    match v with
    | .fin s 0 _ => .ofNat 96 (2 ^ 95 * s.toNat)
    | _ => roundFx v false

end Sys2Proof
end

