-- ==== Sys2Proof/Machine/Matrix.lean ====
section
/-! DEFINITION. Matrix.lean: convergence registers (09 R208-R210), MPLANE, leases, the reservation table and the requests of a
matrix engine (11 R236-R259, 21 R382-R384, 22 R385, R386). -/

namespace Sys2Proof.Machine

open Sys2Proof

/-! ### Leases (11 R236) -/

/-- The engine that serves a core (01 R9). -/
def engOfCore (core : Nat) : Nat := core / 4

/-- The chain length of a team whose westernmost engine is e; 1 without a lease (11 R239). -/
def State.chainOf (s : State) (team e : Nat) : Nat := if (s.eng e).lease == some team then (s.eng e).chain else 1

/-- The engine as a lease starts. -/
def leased (lease : Option Nat) (waits : List Nat) : Engine := { Engine.reset with lease, waits }

/-- A team that holds the lease keeps it; on a free engine whose turn it is, it takes it; none where it must wait. -/
def State.takeLease (s : State) (team e : Nat) : Option State :=
  let x := s.eng e
  if x.lease == some team then (if x.leaving then none else some s)
  else if x.lease.isNone && (x.waits.isEmpty || x.waits.head? == some team) then
    some (s.setEng e (leased (some team) (x.waits.filter (· != team))))
  else none

/-- A team's first request that waits takes its place in the order. -/
def State.queueLease (s : State) (team e : Nat) : State :=
  let x := s.eng e
  if x.waits.contains team then s else s.setEng e { x with waits := x.waits ++ [team] }

/-- The lanes wait at their PC. -/
def State.waitFor (s : State) (c : Issue) (w : Wait) : State := s.finish c (fun _ => none) (fun _ => some w) 8

/-- Chain engine EN of a group's team does not exist (11 R239, 15 R344). -/
def State.noEngine (s : State) (g : Group) (en : Nat) : Bool :=
  let e0 := engOfCore g.core
  !s.matPresent e0 || s.chainOf g.team e0 ≤ en

/-- Chain engine EN of the issuing team, leased; a core without its engine traps (11 R236, R239, 15 R344). -/
def withEngine (c : Issue) (s : State) (en : Nat) (k : Nat → State → Out) : Out :=
  match s.grpTeam? c.g with
  | none => .next (s.trapExec c Cause.prot 0xFF 0)
  | some t =>
    let e0 := engOfCore c.g.core
    if s.noEngine c.g en then .next (s.trapExec c Cause.prot 0xFF 0)
    else match s.takeLease t.id e0 with
      | none => .next ((s.queueLease t.id e0).waitFor c (.lease e0))
      | some s => k (e0 + en) s

/-- The reservation table has 32 entries. -/
def Engine.used (x : Engine) : Nat := (x.table.filter MReq.inTable).length
def State.tableFull (s : State) (e : Nat) : Bool := 32 ≤ (s.eng e).used

/-- A handle for a request, or the predicate's 0 (11 R242). -/
def withHandle (c : Issue) (s0 s : State) (pd : Nat) (k : W64 → State → Out) : Out :=
  match s.alloc c.g.core c.g.die (s.grpCtx c.g) with
  | .prot => .next (s0.trapExec c Cause.prot 0xFF 0)
  | .wait => .next s0
  | .no => .next ((s0.locked c [] [pdWr c pd false]).done c)
  | .ok h s => k h s

/-! ### Requests (11 R242, R243) -/

def MReq.fld (r : MReq) : MFld := r.op.f

/-- Values that a request reads at issue. -/
structure ReqAt where
  instr : Instr
  eng   : Nat
  a     : W64
  b     : W64
  tok   : W64
  hdl   : W64

def mkReq (c : Issue) (s : State) (uid : Nat) (x : ReqAt) : MReq :=
  { uid, grp := c.g.id, team := c.g.team, ctx := s.grpCtx c.g, grid := s.gridId c.g, pc := c.a, instr := x.instr, a := x.a, b := x.b,
    tok := x.tok, hdl := x.hdl, eng := x.eng, signers := [], acc := false, passes := 0, data := none, count := 0, aux := 0,
    status := 0, fcode := 0, ffa := 0, done := false, wait := none }

/-- A request enters its engine's table, and its group's outbound queue where it touches memory (11 R242, R244). -/
def State.enterReq (s : State) (c : Issue) (x : ReqAt) (queue : Bool) : State :=
  let (u, s) := s.fresh
  let r := mkReq c s u x
  let e := s.eng x.eng
  let s := s.setEng x.eng { e with table := e.table ++ [r] }
  let s := s.modGrp c.g.id fun g => { g with engines := g.engines ++ [reqId u] }
  if queue then
    let (v, s) := s.fresh
    s.modGrp c.g.id fun g => { g with obq := g.obq ++ [mkEntry c v (.engine (reqId u)) 128 x.a .nowhere 0 0 0 0 false] }
  else s

/-- One pass of an MMA: the activation block, the block added to or subtracted from it, the weight set, the target tiles with
their signs (11 R248). -/
structure Pass where
  x    : Nat
  y    : Option (Nat × Bool)
  set  : Nat
  tgts : List (Nat × Bool)

/-- The passes of an MMA in order. -/
def passesOf (f : MFld) : List Pass :=
  if !f.shp then [⟨0, none, f.ws, [(f.tl, false)]⟩]
  else if f.cls then
    (List.range 8).map fun n =>
      let i := n / 4
      let j := n / 2 % 2
      let kb := n % 2
      ⟨2 * i + kb, none, 2 * kb + j, [(2 * i + j, false)]⟩
  else
    [⟨0, some (3, false), 0, [(0, false), (3, false)]⟩, ⟨2, some (3, false), 1, [(2, false), (3, true)]⟩,
     ⟨0, none, 2, [(1, false), (3, false)]⟩, ⟨3, none, 3, [(0, false), (2, false)]⟩,
     ⟨0, some (1, false), 4, [(0, true), (1, false)]⟩, ⟨2, some (0, true), 5, [(3, false)]⟩,
     ⟨1, some (3, true), 6, [(0, false)]⟩]

/-- A tile or a set of one engine. -/
structure Res1 where
  eng : Nat
  set : Bool
  ix  : Nat
  deriving DecidableEq, Repr

/-- The engines a request works on. -/
def State.reqEngines (s : State) (r : MReq) : List Nat :=
  match r.instr with
  | .mma .. => (List.range (s.chainOf r.team r.eng)).map (r.eng + ·)
  | _ => [r.eng]

/-- Tiles used and sets written, and sets read, by what is left of a request. -/
def State.reqUses (s : State) (r : MReq) : List Res1 × List Res1 :=
  let es := s.reqEngines r
  let on (set : Bool) (ix : List Nat) : List Res1 := es.flatMap fun e => ix.map fun i => ⟨e, set, i⟩
  match r.instr with
  | .mma _ o =>
    let ps := (passesOf o.f).drop r.passes
    (on false (ps.flatMap fun p => p.tgts.map (·.1)).eraseDups, on true (ps.map (·.set)).eraseDups)
  | .macz _ _ mask => (on false ((List.range 4).filter fun i => bit mask i), [])
  | .mwld .. => (on true r.sets, [])
  | _ => (on false [r.fld.tl], [])

/-- B depends on the earlier A (11 R243). -/
def State.dependsOn (s : State) (b a : MReq) : Bool :=
  let (aw, ar) := s.reqUses a
  let (bw, br) := s.reqUses b
  bw.any (fun x => aw.contains x || ar.contains x) || br.any aw.contains

/-- Everything a request depends on has finished with what they share. -/
def State.depsMet (s : State) (r : MReq) : Bool :=
  s.engines.toList.all fun e => e.table.all fun a => a.team != r.team || r.uid ≤ a.uid || a.done || !s.dependsOn r a

def State.modReq (s : State) (e uid : Nat) (f : MReq → MReq) : State :=
  let x := s.eng e
  s.setEng e { x with table := x.table.map fun (r : MReq) => if r.uid = uid then f r else r }

/-- The record that holds a request has been resolved. -/
def State.reqReady (s : State) (r : MReq) : Bool :=
  match r.wait with
  | none => true
  | some u => !((s.ctxD r.ctx).faults.any (·.uid == u))

/-- Acceptance (11 R244, 22 R386): an MMA once what its signers had issued is performed at `.die` and their acquires are done; any
other request as an engine request of its queue. None where it must wait. -/
def State.accept (s : State) (r : MReq) : Option State :=
  if r.acc then some s
  else
    let mark (s : State) : State := s.modReq r.eng r.uid fun r => { r with acc := true }
    match r.instr with
    | .mma .. =>
      let ok := r.signers.all fun x => match s.grp? x.1 with
        | none => true
        | some g => g.obq.all fun e =>
          !x.2.contains e.uid || ((!e.kind.isWrite || s.performedAt g e 3) && (e.acq == 0 || (e.stage == .done && e.acqOk)))
      if ok then some (mark s) else none
    | .macz .. => some (mark s)
    | _ => match s.grp? r.grp with
      | none => some (mark s)
      | some g => match g.obq.findIdx? fun e => e.kind == .engine (reqId r.uid) with
        | none => some (mark s)
        | some i => match g.obq[i]? with
          | none => some (mark s)
          | some e => if s.heldBack g i e false then none else some (mark (s.perform g.id e.uid 0))

/-! ### Ends of requests (11 R244, R259) -/

def engDie (e : Nat) : Nat := e / 12
def engQuad (e : Nat) : Nat := e % 12 / 3
def engProd (e : Nat) : Nat := prodOf 1 (engDie e) (engQuad e) (e % 12)

/-- Writes the record of a request that has ended and frees its entry. -/
def State.endReq (s : State) (r : MReq) : State :=
  let v : RecVal := ⟨r.status, r.fcode, engProd r.eng, r.aux, r.count, r.ffa⟩
  match s.putRecord (2000 + r.eng) (engDie r.eng) r.ctx r.hdl v with
  | none => s
  | some s =>
    let x := s.eng r.eng
    (s.setEng r.eng { x with table := x.table.filter (·.uid != r.uid) }).engineDone (reqId r.uid)

/-- A request has taken all its effects, and its record follows. -/
def State.reqDone (s : State) (r : MReq) (aux count : Nat) : State :=
  let r := { r with done := true, started := true, status := 1, aux, count, wait := none, got := [] }
  (s.modReq r.eng r.uid fun _ => r).endReq r

/-- A request ends with an error status; the sets of an MWLD then count as not loaded. -/
def State.reqFail (s : State) (r : MReq) (status fcode : Nat) (ffa : W64) : State :=
  let r := { r with done := true, started := true, status, fcode, ffa, wait := none, got := [] }
  let s := s.setEng r.eng ((s.eng r.eng).failSets r status)
  (s.modReq r.eng r.uid fun _ => r).endReq r

/-- A cancelled MWLD ends in its order: its sets then count as not loaded, and hold what they held (11 R248, R259). -/
def State.reqCancelled (s : State) (r : MReq) : State :=
  let r := { r with done := true }
  let s := s.setEng r.eng ((s.eng r.eng).failSets r r.status)
  (s.modReq r.eng r.uid fun _ => r).endReq r

/-- A failed translation holds the request (11 R259). -/
def State.reqMiss (s : State) (r : MReq) (va : W64) (w : Walk) (write : Bool) : State :=
  let (u, s) := engineFault s r.ctx 2 r.uid r.grid va w write (r.eng % 12) (engQuad r.eng) (engDie r.eng)
  s.modReq r.eng r.uid fun r => { r with wait := some u, started := true }

/-- A request as its engine makes accesses. -/
def State.reqEng (s : State) (r : MReq) : Eng :=
  ⟨2000 + r.eng, engDie r.eng, engQuad r.eng, r.ctx, ((s.team? r.team).map (·.ctag)).getD 0, false, r.uid⟩

/-- The bytes of some 16-byte pieces as one number. -/
def joinChunks : List Nat → Nat
  | [] => 0
  | v :: vs => v + 2 ^ 128 * joinChunks vs

/-- Reads 16-byte pieces at some addresses, each once: those not read yet, or, of them, only the one numbered `part` - 1. -/
def State.readPieces (s : State) (e : Eng) (touch : Bool) (part : Nat) :
    Nat → List W64 → List (Option Nat) → List (Option Nat) → ER (List (Option Nat))
  | _, [], _, acc => .ok acc s
  | i, a :: as, old, acc =>
    match old.head?.bind id with
    | some v => s.readPieces e touch part (i + 1) as old.tail (acc ++ [some v])
    | none =>
      if part = 0 ∨ part = i + 1 then
        match s.eRead e a 16 touch with
        | .ok v s => s.readPieces e touch part (i + 1) as old.tail (acc ++ [some v])
        | .miss va w wr s => .miss va w wr s
        | .err st fc va => .err st fc va
        | .wait => .wait
      else s.readPieces e touch part (i + 1) as old.tail (acc ++ [none])

/-- Reads pieces of a request's source, and goes on once all are there (11 R241, R244, R256); a request that cannot go on waits or ends. -/
def State.readSource (s : State) (r : MReq) (touch : Bool) (vas : List W64) (part : Nat) (k : Nat → MReq → State → State) : State :=
  match s.readPieces (s.reqEng r) touch part 0 vas r.got [] with
  | .ok got s =>
    let r := { r with got, started := true }
    if got.all (·.isSome) then k (joinChunks (got.map (·.getD 0))) { r with got := [] } s else s.modReq r.eng r.uid fun _ => r
  | .miss va w b s => s.reqMiss r va w b
  | .err st fc va => s.reqFail r st fc (if st = 4 then 0 else va)
  | .wait => s

/-! ### Convergence registers (09 R208-R210, 11 R242) -/

def Team.cv (t : Team) (i : Nat) : Cv := nth t.cvs i
def Team.setCv (t : Team) (i : Nat) (c : Cv) : Team := { t with cvs := put t.cvs i c }

/-- Completes the CVSIGN `.wt` waits on a register. -/
def State.cvRelease (s : State) (team cv : Nat) : State :=
  { s with groups := s.groups.map fun (g : Group) =>
      if g.team != team then g
      else
        let next (l : Nat) : Option W32 := match nth g.lanes l with
          | .waiting (.cvgen k nx) => if k = cv then some nx else none
          | _ => none
        { g with lanes := mkLanes fun l => if (next l).isSome then .ready else nth g.lanes l,
                 pcv := mkLanes fun l => (next l).getD (nth g.pcv l),
                 woken := g.woken ||| maskOf fun l => (next l).isSome } }

/-- A request fires: it enters the table of the engine that serves its team (11 R242, 22 R385). -/
def State.fire (s : State) (t : Team) (r : MReq) (snap : List (Nat × List Nat)) : State :=
  let (u, s) := s.fresh
  let e := engOfCore t.core
  let x := s.eng e
  let s := s.setEng e { x with table := x.table ++ [{ r with uid := u, eng := e, signers := snap }] }
  { s with groups := s.groups.map fun (g : Group) => { g with engines := g.engines.map fun n => if n = reqId r.uid then reqId u else n } }

/-- Group `g` signs register `cv`; answers gen and whether the generation ended (09 R210). -/
def State.sign (s : State) (t : Team) (cv : Nat) (g : Group) (bound : Option MReq) : State × Nat × Bool :=
  let c := t.cv cv
  let c := { c with bound, signed := c.signed ||| BitVec.twoPow 32 g.gid, snap := c.snap ++ [(g.id, g.obq.map (·.uid))] }
  if c.signed != c.members then (s.setTeam (t.setCv cv c), c.gen, false)
  else
    let s := match c.bound with
      | some r => s.fire t r c.snap
      | none => s
    let s := s.setTeam (t.setCv cv { c with bound := none, signed := 0, snap := [], gen := (c.gen + 1) % 16 })
    (s.cvRelease t.id cv, c.gen, true)

/-- This signature would end the generation. -/
def Cv.lastFor (c : Cv) (gid : Nat) : Bool := (c.signed ||| BitVec.twoPow 32 gid) == c.members

/-- The CVSIGN in which a lane waits to sign a register again (09 R210). -/
def Group.lateSign (g : Group) (cv l : Nat) : Option (Nat × Nat × Bool × W32) :=
  match nth g.lanes l with
  | .waiting (.cvsign k x) => if k = cv then x else none
  | _ => none
/-- The CVSIGNs of a group that wait so, oldest first. -/
def Group.lateSigns (g : Group) (cv : Nat) : List (Nat × Nat × Bool × W32) :=
  sortBy (fun x y => decide (x.1 ≤ y.1)) (((List.range 128).filterMap (g.lateSign cv)).eraseDups)

/-- A group that waits in CVSIGN because it had signed already signs, once its bit is clear: of several CVSIGNs of the group the one that has
waited longest; PROT where it is no longer a member (09 R209, R210), a wait for the table where the request it would fire finds none free (11 R242). -/
def State.signLate (s : State) (team cv gid : Nat) : State :=
  match s.team? team, s.grp? gid with
  | some t, some g =>
    let k := t.cv cv
    match g.lateSigns cv with
    | [] => s
    | (u, d, wt, nx) :: _ =>
      let m := maskOf fun l => (g.lateSign cv l).map (·.1) == some u
      let put (s : State) (x : Lane) (pc : Option W32) : State := s.modGrp gid fun g =>
        { g with lanes := mkLanes fun l => if m.getLsbD l then x else nth g.lanes l,
                 pcv := mkLanes fun l => if m.getLsbD l then pc.getD (nth g.pcv l) else nth g.pcv l,
                 woken := if x == .ready then g.woken ||| m else g.woken }
      if g.res != .resident || k.signed.getLsbD g.gid then s
      else if !k.members.getLsbD g.gid then
        (put s .ready none).raiseTrap gid
          { cause := Cause.prot, pc := ((lowest m).map (nth g.pcv ·)).getD 0, code := 0, lane := 0xFF, lanes := m, va := 0, after := false, size := 8,
            delivered := false, seq := none }
      else if k.bound.isSome && k.lastFor g.gid && s.tableFull (engOfCore t.core) then put s (.waiting (.table (engOfCore t.core))) none
      else
        let (s, gen, last) := s.sign t cv g k.bound
        let s := s.addPend gid ⟨none, [], [.sset d (.ofNat 64 (gen + 16 * last.toNat))]⟩
        if wt && !last then put s (.waiting (.cvgen cv nx)) none else put s .ready (some nx)
  | _, _ => s

/-- The groups of a team that wait to sign a register again do so, in the order of their numbers, as often as a generation ends by it. -/
def State.signWaiters (s : State) (team cv : Nat) : State :=
  let gs := s.groups.filter (·.team == team)
  (gs.flatMap fun g => g.lateSigns cv).foldl (fun s _ => gs.foldl (fun s g => s.signLate team cv g.id) s) s

/-- CVINIT (09 R209). -/
def execCvinit (h : Hdr) (cv b : Nat) (s : State) : Out :=
  withIssue (.cvinit h cv b) s fun c s =>
    match s.grpTeam? c.g with
    | none => .next (s.trapExec c Cause.prot 0xFF 0)
    | some t =>
      let old := t.cv cv
      let s := match old.bound with
        | some r => s.discardReq r 10
        | none => s
      let members := lo32 (c.g.s b) &&& .ofNat 32 (2 ^ t.groups - 1)
      let s := s.setTeam (t.setCv cv { old with members, signed := 0, bound := none, snap := [] })
      .next (((s.done c).cvRelease t.id cv).signWaiters t.id cv)

/-- CVSIGN (09 R210, 11 R242). -/
def execCvsign (h : Hdr) (d cv : Nat) (wt : Bool) (s : State) : Out :=
  withIssue (.cvsign h d cv wt) s fun c s =>
    match s.grpTeam? c.g with
    | none => .next (s.trapExec c Cause.prot 0xFF 0)
    | some t =>
      let k := t.cv cv
      let e := engOfCore t.core
      let nx := nextPc c.a c.size
      if !k.members.getLsbD c.g.gid then .next (s.trapExec c Cause.prot 0xFF 0)
      else if k.signed.getLsbD c.g.gid then (let (u, s) := s.fresh; .next (s.waitFor c (.cvsign cv (some (u, d, wt, nx)))))
      else if k.bound.isSome && k.lastFor c.g.gid && s.tableFull e then .next (s.waitFor c (.table e))
      else
        let (s, gen, last) := s.sign t cv c.g k.bound
        let s := s.locked c [] [.sset d (.ofNat 64 (gen + 16 * last.toNat))]
        if wt && !last then .next (s.waitFor c (.cvgen cv nx))
        else if last then .next ((s.done c).signWaiters t.id cv) else .next (s.done c)

/-! ### MPLANE (11 R237, R238, R240, 21 R383) -/

/-- Bytes of a packed source row. -/
def srcRow : Nat → Nat
  | 0 | 5 => 128
  | 3 | 4 => 512
  | _ => 256

/-- Element k of a packed source row. -/
def srcEl (fmt k row : Nat) : Nat :=
  match fmt with
  | 0 | 5 => row / 2 ^ (4 * k) % 16
  | 3 | 4 => row / 2 ^ (16 * k) % 2 ^ 16
  | _ => row / 2 ^ (8 * k) % 256

/-- An integer code clamped to a declared width, and whether that changed it. -/
def clampNw (fmt nw c : Nat) : Nat × Bool :=
  if nw = 0 then (c, false)
  else
    let b := if fmt = 5 then 4 else 8
    let v : Int := if 2 ^ (b - 1) ≤ c then (c : Int) - (2 ^ b : Nat) else c
    let lo : Int := -((2 ^ nw : Nat) : Int)
    let hi : Int := (2 ^ nw : Nat) - 1
    let y := if v < lo then lo else if hi < v then hi else v
    ((y % ((2 ^ (nw + 1) : Nat) : Int)).toNat, y != v)

/-- A window and the first granule access outside its size (06 R131). -/
abbrev Grans := Team × Option W64

def oobAt (x : Grans) (o : Nat) : Grans := (x.1, x.2.or (some (.ofNat 64 (windowBase + o))))

/-- Reads n bytes granule by granule. -/
def gransRead (x : Grans) (o n : Nat) : Nat × Grans :=
  (List.range ((n + 15) / 16)).foldl (fun (v, x) k =>
    let a := o + 16 * k
    if a + 16 ≤ x.1.size then (v + 2 ^ (128 * k) * x.1.rd a 16, x) else (v, oobAt x a)) (0, x)

/-- Writes n bytes granule by granule. -/
def gransWrite (x : Grans) (o n v : Nat) : Grans :=
  (List.range ((n + 15) / 16)).foldl (fun (x : Grans) k =>
    let a := o + 16 * k
    if a + 16 ≤ x.1.size then (x.1.wr a 16 (v / 2 ^ (128 * k) % 2 ^ 128), x.2) else oobAt x a) x

/-- One row: source, scales, planes; `sat` collects clamping. -/
def planeRow (fmt nw src sc dst : Nat) (x : Grans) : Grans × Bool :=
  let w := mW fmt nw
  let (row, x) := gransRead x src (srcRow fmt)
  let cs := (List.range 256).map fun k => clampNw fmt nw (srcEl fmt k row)
  let planes := planesOf w (cs.map (·.1))
  let sat := cs.any (·.2)
  if fmt = 0 then
    let (b, x) := gransRead x sc 32
    (gransWrite x dst 160 (planes % 2 ^ 1024 + 2 ^ 1024 * b), sat)
  else (gransWrite x dst (mWb fmt nw) planes, sat)

/-- MPLANE. -/
def execMplane (h : Hdr) (d a cc : Nat) (r srs fmt nw : Nat) (s : State) : Out :=
  withIssue (.mplane h d a cc r srs fmt nw) s fun c s =>
    let g := c.g
    let off (x : W64) : Option Nat := if x.toNat % 16 ≠ 0 then none else match apert x with
      | .team o => some o
      | _ => none
    match s.grpTeam? g, off (g.s d), off (g.s a), (if fmt = 0 then off (g.s cc) else some 0) with
    | some t, some dst, some src, some sc =>
      let fits (o n : Nat) : Bool := o + n ≤ 2 ^ 24
      if !s.matPresent (engOfCore g.core) then .next (s.trapExec c Cause.prot 0xFF 0)
      else if !(fits dst (mTile fmt nw r) && fits src (16 * srs * (r - 1) + srcRow fmt) && (fmt != 0 || fits sc (32 * r + 16))) then
        .next (s.trapExec c Cause.prot 0xFF 0)
      else if !s.padFree g (.pad t.id 0) t.size 0 0 then .next s
      else
        let (x, sat) := (List.range r).foldl (fun (x, sat) i =>
          let (x, b) := planeRow fmt nw (src + 16 * srs * i) (sc + 32 * i) (dst + i * mWb fmt nw) x
          (x, sat || b)) ((t, none), false)
        let x := if fmt = 0 then
            let nb := (r + 63) / 64
            let (v, x) := gransRead x (sc + 32 * r) 16
            gransWrite x (dst + r * 160) 64 (v % 2 ^ (16 * nb))
          else x
        let s := (s.setTeam x.1).killResv (.pad t.id dst) (mTile fmt nw r) 0 0 g.id 128 true
        let latch (g : Group) : Group := match x.2 with
          | some va => if g.spoob then g else { g with spoob := true, spooba := va }
          | none => g
        .next (((s.modGrp g.id latch).locked c [] [.fpf (if sat then Fl.sat else 0)]).done c)
    | _, _, _, _ => .next (s.trapExec c Cause.prot 0xFF 0)

/-! ### Issue of requests (11 R239, R241, R242, R248, R253-R256) -/

/-- An activation or weight tile may lie in a window, a weight tile also in translated memory. -/
def State.tileOk (s : State) (g : Group) (a : W64) (trans : Bool) : Bool :=
  a.toNat % 32 == 0 && (s.winOk g a 32 || (trans && apert a == .trans))

/-- MWLD. -/
def execMwld (h : Hdr) (o : MOp) (s : State) : Out :=
  withIssue (.mwld h o) s fun c s0 =>
    let g := c.g
    let tok : W64 := if o.f.wh then g.s o.c else 0
    if !s0.tileOk g (g.s o.a) true then .next (s0.trapExec c Cause.prot 0xFF (g.s o.a))
    else
      let go (s : State) : Out := withEngine c s o.f.en fun e s =>
        if s.tableFull e then .next (s.waitFor c (.table e))
        else withHandle c s0 s o.f.pd fun hd s =>
          let x := s.eng e
          let decl := (if o.f.acc then List.range 7 else [o.set]).foldl (fun v i => put v i (o.f.fmt, o.f.acc)) x.decl
          let s := s.setEng e { x with decl }
          let s := s.enterReq c ⟨.mwld h o, e, g.s o.a, 0, tok, hd⟩ true
          .next ((s.locked c [] [.hset o.d hd, pdWr c o.f.pd true]).done c)
      if s0.noEngine g o.f.en then .next (s0.trapExec c Cause.prot 0xFF 0)
      else if tok = 0 then go s0 else handleRead c s0 tok true fun _ s => go s

/-- The format declarations that MMA checks on one engine (11 R253). -/
def Engine.matOk (x : Engine) (f : MFld) : Bool :=
  let d (i : Nat) : Nat × Bool := nth x.decl i
  let fits (i : Nat) (accord : Bool) : Bool :=
    (d i).1 != 15 && (d i).2 == accord && decide (5 ≤ (d i).1) == decide (5 ≤ f.fmt)
  if !f.shp then fits f.ws false
  else if f.cls then (List.range 4).all (fits · false)
  else (List.range 7).all (fits · true)

/-- MMA (11 R242, R248, R253). -/
def execMma (h : Hdr) (o : MOp) (s : State) : Out :=
  withIssue (.mma h o) s fun c s0 =>
    let g := c.g
    match s0.grpTeam? g with
    | none => .next (s0.trapExec c Cause.prot 0xFF 0)
    | some t =>
      let k := t.cv o.c
      if !s0.tileOk g (g.s o.a) false then .next (s0.trapExec c Cause.prot 0xFF (g.s o.a))
      else if k.bound.isSome || !k.members.getLsbD g.gid then .next (s0.trapExec c Cause.prot 0xFF 0)
      else withEngine c s0 0 fun e s =>
        if !((List.range (s.chainOf t.id e)).all fun j => (s.eng (e + j)).matOk o.f) then .next (s0.trapExec c Cause.matfmt 0xFF 0)
        else if k.signed.getLsbD g.gid then .next (s.waitFor c (.cvsign o.c none))
        else if k.lastFor g.gid && s.tableFull e then .next (s.waitFor c (.table e))
        else withHandle c s0 s o.f.pd fun hd s =>
          let (u, s) := s.fresh
          let r := mkReq c s u ⟨.mma h o, e, g.s o.a, 0, 0, hd⟩
          let s := s.modGrp g.id fun g => { g with engines := g.engines ++ [reqId u] }
          let (s, _, last) := s.sign t o.c g (some r)
          let s := (s.locked c [] [.hset o.d hd, pdWr c o.f.pd true]).done c
          .next (if last then s.signWaiters t.id o.c else s)

/-- MACZ (11 R254). -/
def execMacz (h : Hdr) (en mask : Nat) (s : State) : Out :=
  withIssue (.macz h en mask) s fun c s => withEngine c s en fun e s =>
    if s.tableFull e then .next (s.waitFor c (.table e))
    else .next ((s.enterReq c ⟨.macz h en mask, e, 0, 0, 0, 0⟩ false).done c)

/-- MACRD and MACWR at issue: EN, the blocking read of h[C], the table, the handle. -/
def tileMove (i : Instr) (o : MOp) (s : State) : Out :=
  withIssue i s fun c s0 =>
    let g := c.g
    let go (s : State) : Out := withEngine c s o.f.en fun e s =>
      if s.tableFull e then .next (s.waitFor c (.table e))
      else withHandle c s0 s o.f.pd fun hd s =>
        let s := s.enterReq c ⟨i, e, g.s o.a, g.s o.b, 0, hd⟩ true
        .next ((s.locked c [] [.hset o.d hd, pdWr c o.f.pd true]).done c)
    if s0.noEngine g o.f.en then .next (s0.trapExec c Cause.prot 0xFF 0)
    else if o.f.wh then blockRead c s0 (g.h o.c) fun _ s => go s
    else go s0

/-- MACRD (11 R255). -/
def execMacrd (h : Hdr) (o : MOp) (s : State) : Out := tileMove (.macrd h o) o s
/-- MACWR (11 R256). -/
def execMacwr (h : Hdr) (o : MOp) (s : State) : Out := tileMove (.macwr h o) o s

/-! ### Chains and state (11 R257, R258) -/

/-- Takes the leases of several engines, all or none; the first that another team holds. -/
def State.takeLeases (s : State) (team : Nat) : List Nat → State ⊕ Nat
  | [] => .inl s
  | e :: es => match s.takeLease team e with
    | none => .inr e
    | some s => s.takeLeases team es

/-- MCHAIN (11 R257): n1 is n - 1. -/
def execMchain (h : Hdr) (n1 : Nat) (s : State) : Out :=
  withIssue (.mchain h n1) s fun c s0 =>
    let e0 := engOfCore c.g.core
    if 2 < e0 % 3 + n1 || !((List.range (n1 + 1)).all fun j => s0.matPresent (e0 + j)) then .next (s0.trapExec c Cause.prot 0xFF 0)
    else withEngine c s0 0 fun _ s =>
      let old := s.chainOf c.g.team e0
      match s.takeLeases c.g.team ((List.range n1).map (e0 + 1 + ·)) with
      | .inr e => .next ((s.queueLease c.g.team e).waitFor c (.lease e))
      | .inl s =>
        let es := (List.range (max old (n1 + 1))).map (e0 + ·)
        if es.any (s.teamReqs c.g.team) then .next (s.waitFor c (.drain es))
        else
          let s := s.setEng e0 { s.eng e0 with chain := n1 + 1 }
          let s := ((List.range old).drop (n1 + 1)).foldl (fun s j => s.setEng (e0 + j) { s.eng (e0 + j) with leaving := true }) s
          .next (s.done c)

/-- The value MSTAT gives of an engine (11 R258). -/
def State.mstat (s : State) (team e0 en : Nat) : W64 :=
  let x := s.eng (e0 + en)
  let sets := x.sets.toList
  let accm := (sets.zipIdx).foldl (fun a (w, i) => a + 2 ^ i * w.accord.toNat) 0
  let sfmt := (sets.zipIdx).foldl (fun a (w, i) => a + 2 ^ (4 * i) * w.fmt) 0
  let chain := if (s.eng e0).lease == some team then (s.eng e0).chain else x.chain
  .ofNat 64 (x.used + 2 ^ 6 * (x.lease.isSome && x.lease != some team).toNat + 2 ^ 7 * (x.lease == some team).toNat +
    2 ^ 8 * (chain - 1) + 2 ^ 16 * sfmt + 2 ^ 48 * accm)

/-- MSTAT (11 R258). -/
def execMstat (h : Hdr) (d en : Nat) (rel : Bool) (s : State) : Out :=
  withIssue (.mstat h d en rel) s fun c s =>
    let e0 := engOfCore c.g.core
    let team := c.g.team
    if s.noEngine c.g en then .next (s.trapExec c Cause.prot 0xFF 0)
    else
      let s' := s.locked c [] [.sset d (s.mstat team e0 en)]
      if !rel || (s.eng e0).lease != some team then .next (s'.done c)
      else
        let es := (List.range (s.chainOf team e0)).map (e0 + ·)
        let s' := es.foldl (fun s e => s.setEng e { s.eng e with leaving := true }) s'
        .next (s'.waitFor c (.rel es (nextPc c.a c.size)))

/-- LEASE_GRANT: a lease that is being ended ends once the team's requests have completed; the engine clears its state and the
next waiting team takes it (11 R236). -/
def execLeaseGrant (e : Nat) (s : State) : Out :=
  let x := s.eng e
  let q := e / 3 * 3
  let busy := match x.lease with
    | none => false
    | some t => !x.leaving || (List.range 3).any fun j => s.teamReqs t (q + j)
  if busy || (x.lease.isNone && x.waits.isEmpty) then .next s
  else .next (s.setEng e (leased x.waits.head? (x.waits.drop 1)))

/-! ### The column port (11 R241, R243) -/

def Instr.isMwld : Instr → Bool
  | .mwld .. => true
  | _ => false
def Instr.isMma : Instr → Bool
  | .mma .. => true
  | _ => false
def Instr.isTile : Instr → Bool
  | .macz .. | .macrd .. | .macwr .. => true
  | _ => false

/-- The token that a request waits for is over. -/
def State.tokenMet (s : State) (r : MReq) : Bool :=
  r.tok == 0 || (s.recordOk (2000 + r.eng) (engDie r.eng) r.ctx r.tok && (s.record r.ctx r.tok).isOver)

/-- A request can be performed now. -/
def State.eligible (s : State) (r : MReq) : Bool :=
  !r.done && r.status == 0 && s.reqReady r && s.depsMet r && s.tokenMet r && (s.accept r).isSome

/-- The request at index i of an engine's table that a port serves next: one that has ended writes its record, and one that waits for its token or its
dependences may be accepted meanwhile (08 R176, 22 R385). `take` and `k` receive the request, the state before its acceptance and the state after. -/
def portServe (e i : Nat) (mine : Instr → Bool) (before : MReq → MReq → Bool) (s : State) (take k : MReq → State → State → State) : Out :=
  match (s.eng e).table[i]? with
  | none => .next s
  | some r =>
    if !mine r.instr then .next s
    else if r.done then .next (s.endReq r)
    else if r.status != 0 then .next (if s.depsMet r then s.reqCancelled r else s)
    else if !s.eligible r then
      .next (if r.acc || !s.reqReady r then s else match s.accept r with
        | none => s
        | some s' => take r s s')
    else if (s.eng e).table.any (fun a => a.uid != r.uid && mine a.instr && before a r && s.eligible a) then .next s
    else match s.accept r with
      | none => .next s
      | some s' => .next (k { r with wait := none } s s')

/-- Weights of a tile of n rows as stored elements. -/
def weightsOf (n : Nat) (f : Nat → Nat → Num) : List (Nat × Num) :=
  (List.range (256 * n)).filterMap fun i =>
    let v := f (i / 256) (i % 256)
    if v.isZero then none else some (i, v)

/-- The seven combinations of MWLD `.acc` (11 R241): blocks 0 to 3 are W11, W12, W21, W22. -/
def accSets : List (Nat × Option (Nat × Bool)) :=
  [(0, some (3, false)), (0, none), (1, some (3, true)), (2, some (0, true)), (3, none), (0, some (1, false)), (2, some (3, false))]

/-- The value at (i, k) of a block or of a combination of two. -/
def combine (fmt nw n data x : Nat) (y : Option (Nat × Bool)) (i k : Nat) : Num :=
  let el (q : Nat) : El := tileEl fmt nw n (data / 2 ^ (8 * (q * mTile fmt nw n))) i k
  match y with
  | none => (el x).val
  | some (q, sub) => presum fmt sub (el x) (el q)

/-- Row addresses of a tile request. -/
def MReq.rows (r : MReq) : List W64 := (List.range r.fld.n).map fun (i : Nat) => r.a + .ofNat 64 i * r.b

/-- The pieces of 16 bytes that a request reads (11 R241, R244, R256). -/
def MReq.source (r : MReq) : List W64 :=
  let f := r.fld
  let T := mTile f.fmt f.nw f.n
  match r.instr with
  | .mwld .. => tableAt r.a 16 ((if f.acc then 4 * T else T) / 16)
  | .mma .. => tableAt r.a 16 ((if f.shp then 4 * T else T) / 16)
  | .macwr .. => r.rows.flatMap fun a => tableAt a 16 (256 * macSize f.fmt / 16)
  | _ => []

/-- WEIGHT_LOAD: an MWLD reads its source, `part` of it or all that is left, and latches its sets once it is there. -/
def execWeightLoad (e : Nat) (p : PortTurn) (s : State) : Out :=
  let ⟨i, part⟩ := p
  portServe e i Instr.isMwld (fun a b => a.uid < b.uid) s (fun _ _ s => s) fun r _ s =>
    let f := r.fld
    let T := mTile f.fmt f.nw f.n
    let total := if f.acc then 4 * T else T
    s.readSource { r with acc := true } false r.source part fun data r s =>
      let x := s.eng e
      let set (c : Nat × Option (Nat × Bool)) : WSet :=
        ⟨f.fmt, f.nw, f.acc, weightsOf f.n (combine f.fmt f.nw f.n data c.1 c.2), 1⟩
      let sets := if f.acc then (accSets.zipIdx).foldl (fun v (c, j) => put v j (set c)) x.sets
        else put x.sets r.op.set (set (0, none))
      (s.setEng e { x with sets }).reqDone r 0 total

/-! ### The array (11 R243, R247-R250) -/

def tileGet (t : List (Nat × W96)) (k : Nat) : W96 := ((t.find? (·.1 == k)).map (·.2)).getD 0

/-- The elements of rows m to m + n - 1 replaced; elements +0 are not listed. -/
def tileRows (t : List (Nat × W96)) (m n : Nat) (f : Nat → W96) : List (Nat × W96) :=
  t.filter (fun x => x.1 < 256 * m) ++
  ((List.range (256 * n)).filterMap fun i =>
    let v := f (256 * m + i)
    if v = 0 then none else some (256 * m + i, v)) ++
  t.filter (fun x => 256 * (m + n) ≤ x.1)

/-- The window sums of a pass on one engine, row by row. -/
def passSums (f : MFld) (data : Nat) (p : Pass) (w : WSet) : List (Num × Bool) :=
  let cols := (List.range 256).map fun n =>
    let els := w.els.filter fun x => x.1 / 256 == n
    if els.isEmpty then [] else (List.range 256).map fun k => ((els.find? (·.1 == 256 * n + k)).map (·.2)).getD (.fin false 0 0)
  (List.range f.n).flatMap fun m =>
    let xs := (List.range 256).map (combine f.fmt f.nw f.n data p.x p.y m)
    let plain := xs.all fun v => !v.isNan && !v.isInf
    cols.map fun ws =>
      if ws.isEmpty && plain then (.fin false 0 0, false)
      else
        let (v, st) := window xs (if ws.isEmpty then List.replicate 256 (.fin false 0 0) else ws)
        if f.shp && !f.cls && v.isInf then (.nan, st) else (v, st)

/-- One pass on one engine. -/
def State.passOn (s : State) (e : Nat) (f : MFld) (data : Nat) (earlier : List Pass) (p : Pass) : State :=
  let x := s.eng e
  let sums := (passSums f data p (nth x.sets p.set)).toArray
  let one (tiles : Vector (List (Nat × W96)) 4) (t : Nat × Bool) : Vector (List (Nat × W96)) 4 :=
    let first := f.z && !(earlier.any fun q => q.tgts.any (·.1 == t.1))
    let old := nth tiles t.1
    put tiles t.1 (tileRows old 0 f.n fun k =>
      let (v, st) := (sums[k]?).getD (.fin false 0 0, false)
      addz (tileGet old k) (v.flip t.2) st first)
  s.setEng e { x with tiles := p.tgts.foldl one x.tiles }

/-- The array streams a pass of n rows for ceil(n / r) cycles (11 R238, R257). -/
def State.streams (s : State) (e : Nat) (f : MFld) : State :=
  let x := s.eng e
  let r := mRate f.fmt f.nw
  s.setEng e { x with stream := x.stream + (f.n + r - 1) / r }

/-- ARRAY_PASS: the highest PRI first, then the oldest, of the MMAs whose dependences are met: it reads its activation, `part` of it or all
that is left, or makes its next pass. The count of a chain's record is that of all its engines (DEDUCED, log 92). -/
def execArrayPass (e : Nat) (p : PortTurn) (s : State) : Out :=
  let ⟨i, part⟩ := p
  portServe e i Instr.isMma (fun a b => b.fld.pri < a.fld.pri || (a.fld.pri == b.fld.pri && a.uid < b.uid)) s (fun _ _ s => s) fun r _ s =>
    let r := { r with acc := true }
    let f := r.fld
    let ps := passesOf f
    let es := s.reqEngines r
    let run (data : Nat) (r : MReq) (s : State) : State :=
      match ps[r.passes]? with
      | none => s
      | some p =>
        let s := es.foldl (fun s e => (s.passOn e f data (ps.take r.passes) p).streams e f) s
        let r := { r with passes := r.passes + 1, data := some data }
        if r.passes < ps.length then s.modReq e r.uid fun _ => r
        else s.reqDone r ps.length (12 * 256 * f.n * (if f.shp then 4 else 1) * es.length)
    match r.data with
    | some d => run d r s
    | none =>
      if es.any (fun j => ps.any fun p => (nth (s.eng j).sets p.set).status != 1) then s.reqFail r 4 2 0
      else s.readSource r false r.source part run

/-! ### The tile port (11 R254-R256) -/

/-- Row addresses, and the code of the first check that fails. -/
def State.rowsBad (s : State) (r : MReq) (rows : List W64) (bytes : Nat) : Option Nat :=
  match s.badBase (s.reqEng r).tag (rows.flatMap fun a => [a, a + .ofNat 64 (bytes - 1)]) with
  | some fc => some fc
  | none =>
    if r.a.toNat % 16 ≠ 0 ∨ r.b.toNat % 16 ≠ 0 then some 3
    else if r.b.toNat < bytes then some 4 else none

/-- Where the granules of a destination lie: all, or the first failure. -/
def State.placeGrans (s : State) (e : Eng) : List W64 → List (W64 × Loc) → ER (List (W64 × Loc))
  | [], acc => .ok acc s
  | va :: vs, acc => match s.eAt e.die e.ctx e.tag va true false with
    | .mem pa cls => if s.owned (.mem pa 0) 16 e.job || s.storeTaken pa 16 || s.repairing pa then .wait else s.placeGrans e vs (acc ++ [(va, .mem pa cls)])
    | .pad t o => if s.owned (.pad t o) 16 e.job then .wait else s.placeGrans e vs (acc ++ [(va, .pad t o)])
    | .err st fc => .err st fc va
    | .wait => .wait
    | .miss w => .miss va w true s

/-- Writes one piece of a destination that the request owns. -/
def State.putPiece (s : State) (e : Eng) (l : Loc) (v : Nat) : Option State :=
  match l with
  | .mem pa _ => (s.directWrite e.src e.die pa 16 v e.job).map (·.noteAccess e.die e.col pa)
  | .pad t o => some (s.granWrite t o (leCells o 16 v))
  | .nowhere => some s

/-- Number the elements of a row as bytes of the given size. -/
def packEls (size : Nat) : List Nat → Nat
  | [] => 0
  | v :: vs => v % 2 ^ (8 * size) + 2 ^ (8 * size) * packEls size vs

/-- What MACRD writes: its pieces of 16 bytes in order, and the flags of its conversions. -/
def State.readOuts (s : State) (e : Nat) (r : MReq) : List Nat × Nat :=
  let f := r.fld
  let size := macSize f.fmt
  let tile := nth (s.eng e).tiles f.tl
  let outs := (List.range f.n).map fun i => (List.range 256).map fun n =>
    macOut f.fmt (Rm.ofCode f.rm 0) f.sat (tileGet tile (256 * (f.row + i) + n))
  (outs.flatMap fun row => let v := packEls size (row.map (·.1)); (List.range (16 * size)).map fun k => v / 2 ^ (128 * k) % 2 ^ 128,
   (flOr outs.flatten).toNat)

/-- A piece that cannot be written: its home is in warm reset, or its peer link is down, which leaves an error record (11 R259, 15 R346, R347). -/
def State.pieceLost (s : State) (r : MReq) (va : W64) (l : Loc) : Option State :=
  match l with
  | .mem pa _ =>
    if s.dieDown (homeDie pa) then some (s.reqFail r 5 0 va)
    else if s.peerDown pa then some ((s.errorRec pa r.grid r.ctx 3 (engDie r.eng) 3).reqFail r 3 3 va)
    else none
  | _ => none

/-- MACRD's engine writes `part` of what it still owns, or all of it, as one step (11 R244, R255). -/
def State.writePieces (s : State) (e : Nat) (r0 : MReq) (part : Nat) : State :=
  let r := { r0 with started := true }
  let f := r.fld
  let (vals, fl) := s.readOuts e r
  let now := r.own.filter fun x => part == 0 || x.1 + 1 == part
  match now.findSome? fun x => s.pieceLost r x.2.1 x.2.2 with
  | some s => s
  | none =>
    match now.foldl (fun (o : Option State) x => o.bind fun s => s.putPiece (s.reqEng r) x.2.2 ((vals[x.1]?).getD 0)) (some s) with
    | none => s
    | some s =>
      let r := { r with own := r.own.filter fun x => !(part == 0 || x.1 + 1 == part) }
      if !r.own.isEmpty then s.modReq e r.uid fun _ => r
      else
        let x := s.eng e
        let s := if f.z then s.setEng e { x with tiles := put x.tiles f.tl (tileRows (nth x.tiles f.tl) f.row f.n fun _ => 0) } else s
        s.reqDone r fl (f.n * (256 * macSize f.fmt))

/-- MACRD's acceptance, `s0` before and `s` after its queue lets it go: it waits for the lines that others own and comes to own the destination, its
copies, written back first, dropped (08 R176). The request is answered where it owns it. -/
def State.ownTile (s0 s : State) (e : Nat) (r : MReq) : State × Option MReq :=
  let bytes := 256 * macSize r.fld.fmt
  match s0.rowsBad r r.rows bytes with
  | some fc => (s.reqFail { r with acc := true } 4 fc 0, none)
  | none => match s0.placeGrans (s0.reqEng r) (r.rows.flatMap fun a => tableAt a 16 (bytes / 16)) [] with
    | .wait => (s0, none)
    | .err st fc va => (s.reqFail { r with acc := true } st fc (if st = 4 then 0 else va), none)
    | .miss va w b s => (s.reqMiss r va w b, none)
    | .ok ls _ =>
      let ps := extentRuns (ls.map (·.2))
      if !s0.runsClean (fun _ => true) ps then (s0.cleanRuns (fun _ => true) ps, none)
      else
        let s := ps.foldl (fun s p => s.dropExtent p.1) s
        let r := { r with acc := true, own := (ls.zipIdx).map fun (x, i) => (i, x.1, x.2) }
        (s.modReq e r.uid fun _ => r, some r)

/-- MACRD: its acceptance, then its writes (11 R255). -/
def State.readTile (s0 s : State) (e : Nat) (r : MReq) (part : Nat) : State :=
  if r.acc then s.writePieces e r part
  else match s0.ownTile s e r with
    | (s, some r) => s.writePieces e r part
    | (s, none) => s

/-- MACWR reads its source, `part` of it or all that is left, and writes its tile once it is there (11 R256). -/
def State.writeTile (s : State) (e : Nat) (r : MReq) (part : Nat) : State :=
  let f := r.fld
  let size := macSize f.fmt
  let bytes := 256 * size
  match s.rowsBad r r.rows bytes with
  | some fc => s.reqFail r 4 fc 0
  | none =>
    s.readSource r true r.source part fun data r s =>
      let x := s.eng e
      let el (k : Nat) : W96 := macIn f.fmt (data / 2 ^ (8 * size * (k - 256 * f.row)) % 2 ^ (8 * size))
      (s.setEng e { x with tiles := put x.tiles f.tl (tileRows (nth x.tiles f.tl) f.row f.n el) }).reqDone r 0 (f.n * bytes)

/-- TILE_PORT_SERVE: the oldest request of the port whose dependences are met; it moves `part` of its bytes, or all that are left. -/
def execTilePortServe (e : Nat) (p : PortTurn) (s : State) : Out :=
  let ⟨i, part⟩ := p
  let take (r : MReq) (s0 s : State) : State := match r.instr with
    | .macrd .. => (s0.ownTile s e r).1
    | _ => s
  portServe e i Instr.isTile (fun a b => a.uid < b.uid) s take fun r s0 s =>
    match r.instr with
    | .macz _ _ mask =>
      let x := s.eng e
      (s.setEng e { x with tiles := Vector.ofFn fun t : Fin 4 => if bit mask t.val then [] else x.tiles[t] }).reqDone { r with acc := true } 0 0
    | .macrd .. => s0.readTile s e r part
    | _ => s.writeTile e { r with acc := true } part

end Sys2Proof.Machine
end

