-- ==== Sys2Proof/Machine/Work.lean ====
section
/-! DEFINITION. Work.lean: LAUNCH, the dispatcher, gangs and the curd units (12 R260-R277, 20 R378, R379). -/

namespace Sys2Proof.Machine

open Sys2Proof

/-! ### Kernel headers and packets (12 R260-R262) -/

structure Hd where
  code   : Nat
  csize  : Nat
  entry  : Nat
  init   : Nat
  initsz : Nat
  chtab  : Nat
  nch    : Nat
  scr    : Nat
  gpt    : Nat
  ctm    : Nat
  fair   : Nat
  pwr    : Nat
  splive : Nat
  nv     : Nat
  ns     : Nat
  lvl    : Nat
  argoff : Nat
  ver    : Nat

def Hd.of (w : Nat) : Hd :=
  ⟨fld w 448 64, fld w 416 32, fld w 384 32, fld w 320 64, fld w 304 16, fld w 240 64, fld w 232 8, fld w 200 8, fld w 195 5, fld w 191 4,
   fld w 186 5, fld w 184 2, fld w 175 9, fld w 167 8, fld w 159 8, fld w 156 3, fld w 144 12, fld w 112 16⟩

structure Lp where
  hdr   : W64
  dep   : W64
  arg   : W64
  argsz : Nat
  lpt   : Nat
  teams : Nat
  pmask : Nat
  gto   : Nat
  tbase : Nat
  hdl   : W64
  dies  : Nat
  gang  : Bool
  pri   : Nat
  chain : Bool
  kind  : Nat

def Lp.of (w : Nat) : Lp :=
  ⟨.ofNat 64 (fld w 448 64), .ofNat 64 (fld w 384 64), .ofNat 64 (fld w 320 64), fld w 304 16, fld w 288 16, fld w 256 32, fld w 240 16,
   fld w 224 16, fld w 192 32, .ofNat 64 (fld w 64 64), fld w 44 4, bit w 18, fld w 16 2, bit w 8, fld w 0 8⟩

/-- The packet names die d, or all. -/
def Lp.allows (p : Lp) (d : Nat) : Bool := p.dies == 0 || bit p.dies d
/-- Groups formed of a team (03 R51). -/
def Lp.groups (p : Lp) : Nat := (p.lpt + 128) / 128

def Grid.p (k : Grid) : Lp := Lp.of (ofWords k.pkt)
def Grid.h (k : Grid) : Hd := Hd.of k.header

def inTrans (a : W64) : Bool := apert a == .trans

/-- The checks that come before the header is read: addresses, alignment, fields (12 R261). -/
def packetBad (w : Nat) (depBad : Bool) : Option Nat :=
  let p := Lp.of w
  if !inTrans p.hdr || (p.arg != 0 && !inTrans p.arg) then some 6
  else if p.hdr.toNat % 64 ≠ 0 then some 3
  else if fld w 128 64 != 0 || fld w 19 25 != 0 || fld w 9 7 != 0 || p.teams = 0 || 256 < p.argsz || depBad then some 1
  else none

/-- A channel table entry (12 R265). -/
structure Chan where
  obj   : Nat
  buf   : Nat
  cap   : Nat
  rrank : Nat
  srank : Nat

def Chan.of (w : Nat) : Chan := ⟨fld w 48 16, fld w 32 16, fld w 24 8, fld w 12 4, fld w 8 4⟩

/-- Stack cores in reach of a stack kernel, ordered (13 R284). -/
def State.stackSet (s : State) (hdr pkt : Nat) : List Nat :=
  (List.range 256).filter fun k =>
    s.md.capstk.getLsbD k && bit (fld hdr 288 8) (k / 32) && bit (fld hdr 256 32) (k % 32) && (Lp.of pkt).allows (dieOfStack k) &&
      (nth s.md.capdie (dieOfStack k)).getLsbD 84

/-- The checks of a header and its channel table (12 R261, R265, 13 R284): the first code of 6, 3, 1 and 2 that applies. -/
def State.headerBad (s : State) (hdr pkt : Nat) (tab : List Nat) : Option Nat :=
  let h := Hd.of hdr
  let p := Lp.of pkt
  let stack := h.lvl == 1
  let size := 4096 * (if stack then fld hdr 296 8 else h.scr)
  let cs := tab.map Chan.of
  let addr (a : Nat) : Bool := a = 0 || inTrans (.ofNat 64 a)
  if !inTrans (.ofNat 64 h.code) || !addr h.init || (!stack && !addr h.chtab) then some 6
  else if h.code % 32 != 0 || h.init % 16 != 0 || (!stack && h.chtab % 8 != 0) || h.csize % 32 != 0 || h.csize < 32 || h.entry % 4 != 0 ||
      h.entry % 32 == 28 || h.csize ≤ h.entry then some 3
  else if fld hdr 0 112 != 0 || h.ver != 1 || 1 < h.lvl ||
      (if stack then
        fld hdr 128 16 != 0 || fld hdr 159 97 != 0 || !(1 ≤ fld hdr 296 8 && fld hdr 296 8 ≤ 64) || fld hdr 288 8 = 0 ||
          fld hdr 256 32 = 0 || p.gang || p.lpt != 63 || (s.stackSet hdr pkt).isEmpty
       else
        fld hdr 129 15 != 0 || 64 < h.nch || 128 < h.scr || (h.fair != 0 && (h.fair < 8 || 20 < h.fair)) || h.pwr = 3 || 11 < h.ctm ||
          191 < h.ns || h.nv + 1 < h.splive || p.teams % (h.ctm + 1) != 0 ||
          (tab.zip cs).any fun (w, c) => fld w 16 8 != 0 || fld w 0 8 != 0 || h.ctm < c.rrank || h.ctm < c.srank || c.rrank == c.srank)
      then some 1
  else if (!stack && 128 * (h.gpt + 1) < p.lpt + 1) || (h.init != 0 && size < 16 * h.initsz) ||
      (p.arg != 0 && p.argsz != 0 && size < 16 * (h.argoff + p.argsz)) ||
      (!stack && cs.any fun c => size < 16 * c.obj + 16 || size < 16 * c.buf + 512 * (c.cap + 1)) then some 2
  else none

/-! ### The dispatcher's reads (12 R261, 20 R379) -/

def dispEng (die ctx : Nat) : Eng := ⟨5000 + die, die, 0, ctx, 0, false, 0⟩

def dispProd (die : Nat) : Nat := prodOf 2 die 0 0

/-- The fault record of a launch: slot 126, core 0 (12 R261). -/
def dispFault (s : State) (die ctx who id : Nat) (va : W64) (w : Walk) : Nat × State :=
  let (u, s) := engineFault s ctx who id 0 va w false 0 0 die
  let c := s.ctxD ctx
  (u, s.setCtx { c with faults := c.faults.map fun (f : FaultRec) => if f.uid = u then { f with slot := 126 } else f })

/-- Addresses of n bytes in pieces: of 16 where the base allows it. -/
def pieceSize (base : W64) : Nat := if base.toNat % 16 = 0 then 16 else 1

/-- Reads n bytes of translated memory from a dispatcher as one number; none of them where the address is 0. -/
def State.dispRead (s : State) (die ctx : Nat) (base : W64) (n : Nat) : ER Nat :=
  if base = 0 then .ok 0 s
  else
    let z := pieceSize base
    match s.eReads (dispEng die ctx) z false (tableAt base z (n / z)) [] with
    | .ok vs s => .ok (vs.foldr (fun v acc => v + 2 ^ (8 * z) * acc) 0) s
    | .miss va w b s => .miss va w b s
    | .err st fc va => .err st fc va
    | .wait => .wait

/-- The entries of the channel table of a header; none of a table that no read can reach. -/
def State.readTable (s : State) (die ctx h : Nat) : ER (List Nat) :=
  let d := Hd.of h
  let n := if d.lvl = 0 && d.chtab % 8 = 0 && inTrans (.ofNat 64 d.chtab) && d.chtab ≠ 0 then min d.nch 64 else 0
  s.eReads (dispEng die ctx) 8 false (tableAt (.ofNat 64 d.chtab) 8 n) []

/-- The header and the channel table's entries. -/
def State.readHeader (s : State) (die ctx : Nat) (p : Lp) : ER (Nat × List Nat) :=
  match s.dispRead die ctx p.hdr 64 with
  | .ok h s =>
    (match s.readTable die ctx h with
     | .ok vs s => .ok (h, vs) s
     | .miss va w b s => .miss va w b s
     | .err st fc va => .err st fc va
     | .wait => .wait)
  | .miss va w b s => .miss va w b s
  | .err st fc va => .err st fc va
  | .wait => .wait

/-! ### Placement (03 R52, 12 R266, R267) -/

/-- Free resident slots of a core; one that a group gave up is free in the next cycle (03 R73). -/
def State.freeSlots (s : State) (core : Nat) : List Nat :=
  let now := (s.die (dieOfCore core)).cycle
  (List.range 96).filter fun j => !(s.groups.any fun g => g.core == core && g.slot == j && g.holdsSlot) &&
    !(s.core core).leaving.contains (j, now)

/-- Slots of a core that saved groups of teams placed on it still take (12 R268). -/
def State.promised (s : State) (core : Nat) : Nat :=
  (s.groups.filter fun g => g.res == .saved && (match s.team? g.team with
    | some t => !t.saved && t.core == core
    | none => false)).length

/-- A team's window is in use until every team of its cluster has ended, unless the team is saved. -/
def State.occupies (s : State) (t : Team) : Bool :=
  !t.saved && s.teams.any fun u => u.grid == t.grid && u.cluster == t.cluster && u.left != 0

/-- Where a window of `size` bytes fits in a core's scratchpad. -/
def State.windowAt (s : State) (core size : Nat) : Option Nat :=
  let used := s.teams.filter fun t => t.core == core && s.occupies t
  ((List.range 129).map (4096 * ·)).find? fun b => b + size ≤ 524288 && used.all fun t => b + size ≤ t.base || t.base + t.size ≤ b

/-- A core can take a team. -/
def State.coreFits (s : State) (h : Hd) (p : Lp) (core : Nat) : Bool :=
  let d := core / 48
  s.corePresent core && (s.die d).phase == .run && p.allows d && p.groups + s.promised core ≤ (s.freeSlots core).length &&
    (s.windowAt core (4096 * h.scr)).isSome

/-- Teams with resident groups above a core's column. -/
def State.columnTeams (s : State) (core : Nat) : List Team :=
  s.teams.filter fun t => t.core / 4 == core / 4 && t.left != 0 && !t.saved

/-- The places for a cluster of c teams: arcs of cores in order of rank. -/
def arcs (c : Nat) : List (List Nat) :=
  (List.range 192).map fun x => (List.range c).map fun r => x / 12 * 12 + (x % 12 + r) % 12

/-- The arcs a rule keeps, or all where it keeps none. -/
def preferArcs (f : Nat → Bool) (as : List (List Nat)) : List (List Nat) :=
  let y := as.filter (·.all f)
  if y.isEmpty then as else y

/-- The arc that the dispatcher takes for its next cluster. -/
def State.pickArc (s : State) (h : Hd) (p : Lp) : Option (List Nat) :=
  let as := (arcs (h.ctm + 1)).filter fun a => a.all (s.coreFits h p)
  let as := if h.pwr = 1 then as
    else
      let as := preferArcs (fun c => !(s.columnTeams c).any (·.pwr == h.pwr)) as
      preferArcs (fun c => (s.columnTeams c).any (·.pwr == 2 - h.pwr)) as
  let free (a : List Nat) : Nat := a.foldl (fun n c => n + (s.freeSlots c).length) 0
  as.foldl (fun best a => match best with
    | none => some a
    | some b => if free b < free a then some a else some b) none

/-- The smallest team tag that no team has. -/
def State.newTag (s : State) : Nat := ((List.range 65536).find? fun n => n != 0 && !s.teams.any (·.ctag == n)).getD 0

/-! ### Starting a grid (12 R263) -/

/-- What a dispatcher finds at the head of a queue. -/
inductive Head where
  | no
  | miss (va : W64) (w : Walk)
  | refuse (status fcode : Nat) (ffa : W64)
  | start (hdr : Nat)
  /-- Ready but for a place for its first team. -/
  | full

/-- The part holds a die (15 R344). -/
def State.diePresent (s : State) (d : Nat) : Bool := decide (d < 4) && (nth s.md.capdie d).getLsbD 84
/-- A packet names dies of which the part holds none (15 R344). -/
def State.absentDies (s : State) (p : Lp) : Bool := !((List.range 4).any fun d => p.allows d && s.diePresent d)

/-- A head packet that a die's dispatcher may take, with its slot; one that no present die may take reaches every dispatcher, which refuses it
(15 R344). -/
def State.launchHead? (s : State) (die ctx q : Nat) : Option (Nat × QHdr × Nat) :=
  if (s.die die).phase != .run || !s.diePresent die || !s.extQuiet then none
  else (s.head? ctx q).filter fun (_, h, w) => h.cons == 0 && ((Lp.of w).allows die || s.absentDies (Lp.of w))

/-- The first fcode of 0x6, 0x3, 0x1 and 0x2 among those of checks that fail (12 R261). -/
def firstCode (a b : Option Nat) : Option Nat := [6, 3, 1, 2].find? fun x => a == some x || b == some x

/-- A saved team of a priority that comes first waits to be restored (12 R268). -/
def State.restoreFirst (s : State) (pri : Nat) : Bool :=
  s.teams.any fun t => t.saved && (match s.grid? t.grid with
    | some k => k.ending.isNone && pri ≤ k.p.pri
    | none => false)

/-- The first code that a header or its table's entries fail with: the table's pieces that could be read, and a code of its own where its memory does
not exist; none while a page of it is missing and nothing else fails (12 R261, 15 R344; log 110). -/
def State.checkHeader (s : State) (die ctx w h : Nat) (bad : Option Nat) : Except (W64 × Walk) (Option Nat × Bool) :=
  match s.readTable die ctx h with
  | .ok tab s => .ok (firstCode bad (s.headerBad h w tab), true)
  | .miss va wk _ _ => match firstCode bad (s.headerBad h w []) with
    | some fc => .ok (some fc, true)
    | none => .error (va, wk)
  | .err 4 fc _ => .ok (firstCode (some fc) (firstCode bad (s.headerBad h w [])), true)
  | .wait | .err .. => match firstCode bad (s.headerBad h w []) with
    | some fc => .ok (some fc, true)
    | none => .ok (none, false)

/-- What happens to a launch packet now (12 R261, R263, R269). One whose header lies behind an absent unit is refused (15 R344); one whose header is
homed on a die in warm reset waits. -/
def State.launchState (s : State) (die ctx q w : Nat) : Head :=
  let c := s.ctxD ctx
  let p := Lp.of w
  if p.hdl != 0 && c.cancels.contains p.hdl then .refuse 2 0 0
  else if s.absentDies p then .refuse 4 6 0
  else match c.held.find? (·.1 == q) with
  | some (_, _, some (cause, va)) => .refuse 3 cause va
  | held =>
    if (held.map fun x => c.faults.any (·.uid == x.2.1)).getD false then .no
    else
      let dep := if p.dep = 0 then Rec.expired else s.record ctx p.dep
      let bad := packetBad w (dep == .bad || dep == .noPage)
      if bad == some 6 || bad == some 3 then .refuse 4 (bad.getD 0) 0
      else
        match s.dispRead die ctx p.hdr 64 with
        | .miss va w _ _ => if bad.isSome then .refuse 4 1 0 else .miss va w
        | .err 4 fc _ => .refuse 4 fc 0
        | .wait | .err .. => .no
        | .ok h s =>
          match s.checkHeader die ctx w h bad with
          | .error (va, wk) => .miss va wk
          | .ok (some fc, _) => .refuse 4 fc 0
          | .ok (none, false) => .no
          | .ok (none, true) =>
            if (p.chain && s.grids.any fun k => k.ctx == ctx && k.q == q && k.remote.isNone) || !dep.isOver ||
                (p.dep != 0 && !s.recordOk (5000 + die) die ctx p.dep) then .no
            else if (Hd.of h).lvl = 1 then .start h
            else if !s.restoreFirst p.pri && (s.pickArc (Hd.of h) p).isSome then .start h else .full

/-- The queues whose head packet is ready to start at a die, with their priority. -/
def State.readyQueues (s : State) (die : Nat) : List (Nat × Nat × Nat) :=
  (List.range s.md.ctxcnt.toNat).flatMap fun ctx => if !s.descOk ctx then [] else (List.range 64).filterMap fun q =>
    match s.launchHead? die ctx q with
    | some (_, _, w) => if fld w 0 8 != 1 then none else match s.launchState die ctx q w with
      | .start _ => some (ctx, q, fld w 16 2)
      | _ => none
    | none => none

/-- The highest priority first; among equals the first queue after the one served last (12 R263). -/
def State.nextQueue (s : State) (die : Nat) : Option (Nat × Nat) :=
  let rs := s.readyQueues die
  let pri := rs.foldl (fun m x => max m x.2.2) 0
  let rs := (rs.filter (·.2.2 == pri)).map fun x => (x.1, x.2.1)
  let later (x : Nat × Nat) : Bool := match nth (s.die die).lastServed pri with
    | none => true
    | some l => l.1 < x.1 || (l.1 == x.1 && l.2 < x.2)
  (rs.find? later).or rs.head?

/-- A grid as it starts. -/
def newGrid (s : State) (die ctx q slot hdr : Nat) (pkt : List W64) (stack : Bool) (remote : Option Nat) : Grid × State :=
  let (u, s) := s.fresh
  let c := s.ctxD ctx
  let gridid : W64 := .ofNat 64 (2 ^ 48 * (s.desc ctx).tag + (Config.firstLaunch ctx + c.gridCount) % 2 ^ 48)
  let k : Grid :=
    { id := u, gridid, ctx, q, die, seqno := slot, hdr := toWords 8 hdr, pkt, stack, next := 0, good := 0, gone := 0, ending := none,
      gang := (Lp.of (ofWords pkt)).gang, acks := [], ends := [], aborted := false, sentAt := (s.die die).cycle, remote, tasks := [], ffa := 0, quiet := false,
      wait := none }
  (k, { s.setCtx { c with gridCount := c.gridCount + 1 } with grids := s.grids ++ [k] })

/-- A message leaves over a peer link. -/
def State.sendPeer (s : State) (link kind : Nat) (ws : List W64) : State :=
  let l := nth s.md.links link
  { s with md := { s.md with links := put s.md.links link { l with out := l.out ++ [(kind, ws)] } } }

/-- Peer links that a mask names, ascending. -/
def linksOf (mask : Nat) : List Nat := (List.range 16).filter (bit mask)

/-- The packets of a gang go to the devices named (12 R271). -/
def State.sendGang (s : State) (w : Nat) : State :=
  let p := Lp.of w
  ((linksOf p.pmask).zipIdx).foldl (fun s (i, n) =>
    s.sendPeer i 0 (toWords 8 (setFld (setFld w 192 32 (p.tbase + (n + 1) * p.teams)) 64 64 0))) s

/-- A launch packet: refused, held by a fault record, or started; `stack` asks for a stack kernel. -/
def takeLaunch (stack : Bool) (die ctx q : Nat) (s : State) : Out :=
  let s := s.checkDesc ctx
  match s.launchHead? die ctx q with
  | none => .next s
  | some (pa, h, w) =>
    if fld w 0 8 != 1 then .next s
    else match s.launchState die ctx q w with
      | .no | .full => .next s
      | .miss va wk =>
        if stack then .next s
        else
          let (u, s) := dispFault s die ctx 3 q va wk
          let c := s.ctxD ctx
          .next (s.setCtx { c with held := (c.held.filter (·.1 != q)) ++ [(q, u, none)] })
      | .refuse st fc ffa =>
        if stack then .next s
        else
          let s' := s.endPacket (5000 + die) die ctx q pa h w (dispProd die) st fc ffa
          let c := s'.ctxD ctx
          .next (if (s'.head? ctx q).map (·.2.1.rd) == some h.rd then s' else s'.setCtx { c with held := c.held.filter (·.1 != q) })
      | .start hdr =>
        if decide ((Hd.of hdr).lvl = 1) != stack || s.nextQueue die != some (ctx, q) then .next s
        else match s.takeSlot (5000 + die) die pa h with
          | none => .next s
          | some s =>
            let s := s.packetTaken (pktId ctx q h.rd)
            let pri := (Lp.of w).pri
            let d := s.die die
            let s := s.setDie die { d with lastServed := put d.lastServed pri (some (ctx, q)) }
            let c := s.ctxD ctx
            let s := s.setCtx { c with held := c.held.filter (·.1 != q) }
            let (_, s) := newGrid s die ctx q h.rd hdr (toWords 8 w) stack none
            .next (if (Lp.of w).gang then s.sendGang w else s)

/-- LAUNCH_PACKET (12 R263). -/
def execLaunchPacket (die ctx q : Nat) (s : State) : Out := takeLaunch false die ctx q s

/-- RESERVED_KIND_PACKET: a copy engine or a dispatcher takes a head packet it does not act on (10 R219, 12 R263). -/
def execReservedKindPacket (unit ctx q : Nat) (copyEngine : Bool) (s : State) : Out :=
  let s := s.checkDesc ctx
  if copyEngine then
    match s.copyHead? unit ctx q with
    | none => .next s
    | some (pa, h, w) =>
      let k := fld w 0 8
      if (2 ≤ k && k ≤ 5) || !(s.cpePresent unit || s.absentEngines unit) then .next s
      else .next (s.endPacket (1000 + unit) (cpeDie unit) ctx q pa h w (copyProd unit) 4 (if s.cpePresent unit then 1 else 6) 0)
  else
    match s.launchHead? unit ctx q with
    | none => .next s
    | some (pa, h, w) =>
      if fld w 0 8 = 1 then .next s
      else .next (s.endPacket (5000 + unit) unit ctx q pa h w (dispProd unit) 4 (if s.absentDies (Lp.of w) then 6 else 1) 0)

/-! ### Placing teams (12 R264-R266) -/

/-- A window as the dispatcher prepares it: the image, then the arguments, then the channels of its rank. -/
def Team.filled (h : Hd) (p : Lp) (rank init arg : Nat) (cs : List Chan) (t : Team) : Team :=
  let grans (o n : Nat) : List Nat := (List.range n).map fun i => o / 16 + i
  let n := if h.init = 0 then 0 else h.initsz
  let m := if p.arg = 0 then 0 else p.argsz
  let win := memWriteAll (memWriteAll t.win (leCells 0 (16 * n) init)) (leCells (16 * h.argoff) (16 * m) arg)
  let t := { t with win, full := (grans 0 n ++ grans (16 * h.argoff) m).eraseDups }
  (cs.filter (·.rrank == rank)).foldl (fun (t : Team) c =>
    let obj := 2 ^ 84 * c.rrank + 2 ^ 80 * c.srank + 2 ^ 56 * c.cap + 2 ^ 40 * c.buf + 2 ^ 39
    let buf := grans (16 * c.buf) (32 * (c.cap + 1))
    ({ t.wr (16 * c.obj) 16 obj with full := t.full.filter fun g => !buf.contains g }).setFull (16 * c.obj) true) t

/-- One team with its groups on a core. -/
def State.placeTeam (s : State) (k : Grid) (rank core init arg : Nat) (cs : List Chan) : State :=
  let h := k.h
  let p := k.p
  let (u, s) := s.fresh
  let i := k.next + rank
  let size := 4096 * h.scr
  let n := p.groups
  let t : Team :=
    { id := u, grid := k.id, teamid := (p.tbase + i) % 2 ^ 32, cluster := (p.tbase + i) % 2 ^ 32 / (h.ctm + 1), crank := i % (h.ctm + 1),
      ctag := s.newTag, core, base := (s.windowAt core size).getD 0, size, pwr := h.pwr, win := [], full := [],
      cvs := .replicate 8 emptyCv, bankq := [], groups := n, left := n, bad := false, saved := false, area := none }
  let slots := s.freeSlots core
  let now := (s.die (core / 48)).cycle
  let s := { s with teams := s.teams ++ [Team.filled h p rank init arg cs t] }
  let s := (List.range n).foldl (fun (s : State) g =>
    let (v, s) := s.fresh
    let x : GroupAt :=
      { id := v, team := u, gid := g, core, slot := (slots[g]?).getD 0, nv := h.nv + 1, ns := h.ns + 1, live := min 128 (p.lpt + 1 - 128 * g),
        entry := .ofNat 32 h.entry, friv := if h.fair = 0 then 12 else h.fair, priv := privBase v (core / 48), now }
    { s with groups := s.groups ++ [x.group] }) s
  s.acqSysDrop core

/-- A grid waits for a fault record. -/
def State.gridHeld (s : State) (k : Grid) : Bool := match k.wait with
  | none => false
  | some u => (s.ctxD k.ctx).faults.any (·.uid == u)

def State.gridMiss (s : State) (k : Grid) (va : W64) (w : Walk) : State :=
  let (u, s) := dispFault s k.die k.ctx 5 k.id va w
  s.setGrid { k with wait := some u }

/-- The answer of a gang's device to its sender (12 R271). -/
def State.gangAnswer (s : State) (k : Grid) (hdr : Nat) (tab : List Nat) : State :=
  match k.remote with
  | none => s
  | some link => match s.headerBad hdr (ofWords k.pkt) tab with
    | some _ => { s.sendPeer link 2 k.pkt with grids := s.grids.filter (·.id != k.id) }
    | none => (s.sendPeer link 1 k.pkt).setGrid { k with hdr := toWords 8 hdr, wait := none }

/-- The dep token of a gang packet from a peer holds its first team. -/
def State.depHolds (s : State) (k : Grid) : Bool :=
  k.remote.isSome && k.next = 0 && k.p.dep != 0 && !(s.record k.ctx k.p.dep).isOver

/-- A packet of priority p is ready, or its grid has begun, and its next team finds no place (12 R268). -/
def State.starved (s : State) (p : Nat) : Bool :=
  (s.grids.any fun k => !k.stack && k.ending.isNone && !k.aborted && k.next < k.p.teams && !k.hdr.isEmpty && k.p.pri == p && !s.gridHeld k &&
    !s.restoreFirst p && !s.depHolds k && (s.pickArc k.h k.p).isNone) ||
  (List.range 4).any fun die => (List.range s.md.ctxcnt.toNat).any fun ctx => (List.range 64).any fun q => match s.launchHead? die ctx q with
    | some (_, _, w) => fld w 0 8 == 1 && (Lp.of w).pri == p && !s.restoreFirst p && (match s.launchState die ctx q w with
      | .full => true
      | _ => false)
    | none => false

/-- The dispatcher ends a grid: its groups end as TAIL ends them, and its teams do not count. The first ending decides. -/
def State.endGrid (s : State) (grid status fcode : Nat) (ffa : W64) : State :=
  match s.grid? grid with
  | none => s
  | some k =>
    if k.ending.isSome && !k.aborted then s
    else
      let s := s.setGrid { k with ending := k.ending.or (some (status, fcode)), ffa := if k.ending.isSome then k.ffa else ffa, wait := none }
      let mine := (s.groups.filter fun g => g.res != .draining && (s.team? g.team).map (·.grid) == some grid).map (·.id)
      mine.foldl (fun s g => s.endGroup g false) s

/-- A read that the grid's placement needs names an absent unit: the grid is refused, that of a peer to its sender (15 R344); one of a die in warm
reset waits. -/
def State.gridErr (s : State) (k : Grid) (status fcode : Nat) : State :=
  if status ≠ 4 then s
  else match k.remote, k.hdr.isEmpty with
    | some link, true => { s.sendPeer link 2 k.pkt with grids := s.grids.filter (·.id != k.id) }
    | _, _ => s.endGrid k.id status fcode 0

/-- TEAM_PLACE: the next team or cluster of a grid starts once cores have room (12 R264-R266). -/
def execTeamPlace (grid : Nat) (s : State) : Out :=
  match s.grid? grid with
  | none => .next s
  | some k =>
    if k.stack || k.ending.isSome || k.aborted || k.p.teams ≤ k.next || s.gridHeld k then .next s
    else if !s.extQuiet then .next s
    else if k.hdr.isEmpty then
      match s.readHeader k.die k.ctx k.p with
      | .ok (h, tab) s => .next (s.gangAnswer k h tab)
      | .miss va w _ s => .next (s.gridMiss k va w)
      | .err st fc _ => .next (s.gridErr k st fc)
      | .wait => .next s
    else if s.restoreFirst k.p.pri || s.depHolds k then .next s
    else match s.pickArc k.h k.p with
      | none => .next s
      | some arc =>
        let n := if k.h.init = 0 then 0 else 16 * k.h.initsz
        match s.dispRead k.die k.ctx (.ofNat 64 k.h.init) n with
        | .miss va w _ s => .next (s.gridMiss k va w)
        | .err st fc _ => .next (s.gridErr k st fc)
        | .wait => .next s
        | .ok init s => match s.dispRead k.die k.ctx k.p.arg (16 * k.p.argsz) with
          | .miss va w _ s => .next (s.gridMiss k va w)
          | .err st fc _ => .next (s.gridErr k st fc)
          | .wait => .next s
          | .ok arg s => match s.readHeader k.die k.ctx k.p with
            | .ok (_, tab) s =>
              let s := (arc.zipIdx).foldl (fun s (c, r) => s.placeTeam k r c init arg (tab.map Chan.of)) s
              .next (s.setGrid { k with next := k.next + arc.length, wait := none })
            | .miss va w _ s => .next (s.gridMiss k va w)
            | .err st fc _ => .next (s.gridErr k st fc)
            | .wait => .next s

/-! ### Gangs (12 R271) -/

/-- A gang is aborted: the groups take GANGABORT at their safe points, the devices that acknowledged are told. -/
def State.abortGang (s : State) (k : Grid) : State :=
  if k.aborted then s
  else
    let fc := ((linksOf k.p.pmask).find? fun i => !k.acks.contains i).getD 0
    let mine (g : Group) : Bool := (s.team? g.team).map (·.grid) == some k.id
    let s := { s with groups := s.groups.map fun (g : Group) => if mine g && g.res != Res.draining then { g with gangAbort := true } else g }
    let s := s.setGrid { k with aborted := true, ending := k.ending.or (some (6, fc)) }
    if k.remote.isSome then s else k.acks.foldl (fun s i => s.sendPeer i 3 k.pkt) s

/-- Cycles of the gang timeout: 1050 to the microsecond. -/
def Lp.timeout (p : Lp) : Nat := 1050 * (if p.gto = 0 then 200 else p.gto)

/-- GANG_PACKET: this device receives a gang packet over a link. -/
def execGangPacket (link ctx : Nat) (pkt : List W64) (s : State) : Out :=
  let w := ofWords pkt
  let p := Lp.of w
  match (List.range 4).find? fun d => p.allows d && (s.die d).phase == .run && (nth s.md.capdie d).getLsbD 84 with
  | none => .next (s.sendPeer link 2 pkt)
  | some die =>
    if !s.descOk ctx || p.kind != 1 || !p.gang || !(nth s.md.links link).up || !s.extQuiet then .next s
    else if (packetBad w (p.dep != 0 && ((s.record ctx p.dep) == .bad || (s.record ctx p.dep) == .noPage))).isSome then .next (s.sendPeer link 2 pkt)
    else
      let (k, s) := newGrid s die ctx 0 0 0 pkt false (some link)
      let k := { k with hdr := [] }
      let s := s.setGrid k
      match s.readHeader die ctx p with
      | .ok (h, tab) s => .next (s.gangAnswer k h tab)
      | .miss va w _ s => .next (s.gridMiss k va w)
      | .err st fc _ => .next (s.gridErr k st fc)
      | .wait => .next s

/-- GANG_ACK: a device's acknowledgement or refusal reaches the taking dispatcher; one after the timeout is answered with the abort. A device that
refuses runs no team, so its refusal counts as its report too (DEDUCED, log 93). -/
def execGangAck (grid link : Nat) (ok : Bool) (s : State) : Out :=
  match s.grid? grid with
  | none => .next s
  | some k =>
    if !k.gang || k.remote.isSome || !bit k.p.pmask link then .next s
    else if !ok then
      let k := { k with ends := if k.ends.contains link then k.ends else k.ends ++ [link] }
      .next ((s.setGrid k).abortGang k)
    else if k.aborted then .next ((s.sendPeer link 3 k.pkt).setGrid { k with acks := k.acks ++ [link] })
    else if k.sentAt + k.p.timeout < (s.die k.die).cycle then
      let s := s.abortGang k
      match s.grid? grid with
      | some k => .next ((s.sendPeer link 3 k.pkt).setGrid { k with acks := k.acks ++ [link] })
      | none => .next s
    else .next (s.setGrid { k with acks := if k.acks.contains link then k.acks else k.acks ++ [link] })

/-- GANG_TIMEOUT. -/
def execGangTimeout (grid : Nat) (s : State) : Out :=
  match s.grid? grid with
  | none => .next s
  | some k =>
    if !k.gang || k.remote.isSome || (linksOf k.p.pmask).all k.acks.contains || (s.die k.die).cycle ≤ k.sentAt + k.p.timeout then .next s
    else .next (s.abortGang k)

/-- GANG_ABORT_MSG: a device receives the abort; a packet that has not started is discarded. -/
def execGangAbortMsg (grid : Nat) (s : State) : Out :=
  match s.grid? grid with
  | none => .next s
  | some k => match k.remote with
    | none => .next s
    | some link =>
      if k.next = 0 then .next ({ s with grids := s.grids.filter (·.id != grid) }.sendPeer link 4 k.pkt)
      else .next (s.abortGang k)

/-- GANG_END_REPORT: a device's teams have ended. -/
def execGangEndReport (grid link : Nat) (s : State) : Out :=
  match s.grid? grid with
  | none => .next s
  | some k =>
    if !k.gang || k.remote.isSome || !bit k.p.pmask link then .next s
    else .next (s.setGrid { k with ends := if k.ends.contains link then k.ends else k.ends ++ [link] })

/-! ### The end of a grid (03 R76, 12 R269, R272) -/

/-- No group, team or report of the grid is outstanding: of a gang, every device has reported (12 R271). -/
def State.gridOver (s : State) (k : Grid) : Bool :=
  let mine := s.teams.filter (·.grid == k.id)
  (k.ending.isSome || k.aborted || k.p.teams ≤ k.next) &&
    mine.all (fun t => t.left == 0 && !s.groups.any (·.team == t.id)) &&
    (!k.gang || k.remote.isSome || (linksOf k.p.pmask).all k.ends.contains)

/-- The curd units of a grid are emptied and released. -/
def State.freeCurds (s : State) (grid : Nat) : State :=
  let drop (d : Die) : Die := if d.curd.owner = some grid then { d with curd := Curd.reset } else d
  { s with dies := vmap drop s.dies }

/-- A grid and its teams leave the machine. -/
def State.dropGrid (s : State) (k : Grid) : State :=
  let s := s.freeCurds k.id
  { s with grids := s.grids.filter (·.id != k.id), teams := s.teams.filter (·.grid != k.id) }

/-- GRID_END (12 R269). -/
def execGridEnd (grid : Nat) (s : State) : Out :=
  match s.grid? grid with
  | none => .next s
  | some k =>
    if k.stack || k.hdr.isEmpty || !s.gridOver k then .next s
    else match k.remote with
      | some link => .next ((s.dropGrid k).sendPeer link 4 k.pkt)
      | none =>
        let count := (s.teams.filter fun t => t.grid == k.id && !t.bad).length
        let (st, fc) := k.ending.getD (1, 0)
        match s.putRecord (5000 + k.die) k.die k.ctx k.p.hdl ⟨st, fc, dispProd k.die, k.gridid.toNat, count, k.ffa⟩ with
        | none => .next s
        | some s => .next ((s.dropGrid k).engineDone (pktId k.ctx k.q k.seqno))

/-! ### LAUNCH (12 R270, 20 R378) -/

/-- LAUNCH. -/
def execLaunch (h : Hdr) (d a q cr : Nat) (dh gang ord : Bool) (pd : Nat) (s : State) : Out :=
  withIssue (.launch h d a q cr dh gang ord pd) s fun c s0 =>
    let ad := c.g.s a
    match if ad.toNat % 64 = 0 then s0.winAt c.g ad else none with
    | none => .next (s0.trapExec c Cause.prot 0xFF ad)
    | some (t, o) =>
      if !s0.padFree c.g (.pad t.id o) 64 0 0 .load then .next s0
      else
        let (w, s) := s0.winPkt c.g t o ad
        if fld w 0 8 != 1 || !s.queueFor (s.grpCtx c.g) q 0 then .next (s0.trapExec c Cause.prot 0xFF 0)
        else
          let dep := c.g.h cr
          let go (s : State) : Out := submit c s q (some 0) d true pd fun hd tag =>
            let w := setFld (setFld w 64 64 hd.toNat) 48 16 tag
            let w := if dh then setFld w 384 64 dep.toNat else w
            let w := if gang then setFld w 18 1 1 else w
            if ord then setFld w 8 1 1 else w
          if dh && dep != 0 then handleRead c s dep true fun _ s => go s else go s

/-! ### The curd units (12 R272-R277) -/

def listDie (x : Nat) : Nat := x / 4096 % 4
def listNo (x : Nat) : Nat := x % 4096

/-- The grid may use the die that a list lies on. -/
def State.listOk (s : State) (k : Grid) (d : Nat) : Bool := k.p.allows d && (nth s.md.capdie d).getLsbD 84

/-- A waiting WTAKE is served: `items` go to its lowest lanes; with none, quiescence is reported to it. -/
def takeResult (d pg pq : Nat) (m : Mask) (items : List W128) (quiet : Bool) : List Wr :=
  let ls := lanesOf m
  let got := maskIn (ls.take items.length)
  let word (k l : Nat) : W32 := match ls.findIdx? (· == l) with
    | some i => .ofNat 32 (((items[i]?).getD 0).toNat / 2 ^ (32 * k))
    | none => 0
  let data : List Wr := if quiet || items.isEmpty then [] else (List.range 4).map fun k => .vlanes (d + k) got (mkLanes (word k))
  data ++ [.pset pg m got, .pset pq m (if quiet then m else 0)]

/-- Each item taken acts as an acquire at `.dev`. -/
def State.itemAcquire (s : State) (gid : Nat) (m : Mask) : State :=
  let (u, s) := s.fresh
  let e : Entry := { uid := u, kind := .obj none, lane := 128, mask := m, pc := 0, va := 0, loc := .nowhere, n := 0, data := 0, acq := 4, rel := 0,
                     far := false, stage := .done, val := 0, extAt := [], acqOk := false }
  (s.modGrp gid fun g => { g with obq := g.obq ++ [e] }).perform gid u 0

/-- Completes a waiting WTAKE; where its results leave too few granules, other groups' registers make room (02 R42). -/
def State.serveTake (s : State) (die : Nat) (t : Take) (items : List W128) (quiet : Bool) : State :=
  let d := s.die die
  let s := s.setDie die { d with curd := { d.curd with waits := d.curd.waits.filter (·.uid != t.uid) } }
  let s := s.addPend t.grp ⟨none, [], takeResult t.d t.pg t.pq t.mask items quiet⟩
  let s := if quiet then s else s.itemAcquire t.grp t.mask
  let s := s.modGrp t.grp fun g =>
    let hit (l : Nat) : Bool := nth g.lanes l == Lane.waiting (.take t.uid)
    { g with idle := quiet, lanes := mkLanes fun l => if hit l then .ready else nth g.lanes l,
             pcv := mkLanes fun l => if hit l then t.next else nth g.pcv l,
             woken := g.woken ||| maskOf hit }
  match s.grp? t.grp with
  | some g => s.pressOut g.core g.id 96
  | none => s

/-- A curd unit's lists other than the named items. -/
def Curd.without (c : Curd) (list n : Nat) : Curd :=
  let mine := (c.items.filter (·.1 == list)).drop n
  { c with items := c.items.filter (·.1 != list) ++ mine }

/-- A grid of curd units; the others trap. -/
def withCurd (c : Issue) (s : State) (k : Grid → Out) : Out :=
  match s.grpGrid? c.g with
  | some g => if g.usesCurd then k g else .next (s.trapExec c Cause.prot 0xFF 0)
  | none => .next (s.trapExec c Cause.prot 0xFF 0)

/-- Takes the curd units of some dies; the first that another grid holds. -/
def State.ownCurds (s : State) (grid : Nat) : List Nat → State ⊕ Nat
  | [] => .inl s
  | d :: ds =>
    let x := s.die d
    match x.curd.owner with
    | some k => if k = grid then s.ownCurds grid ds else .inr d
    | none => (s.setDie d { x with curd := { x.curd with owner := some grid } }).ownCurds grid ds

/-- WAPP (12 R274). -/
def execWapp (h : Hdr) (d a pd : Nat) (s : State) : Out :=
  withIssue (.wapp h d a pd) s fun c s =>
    withCurd c s fun k =>
      let g := c.g
      let ls := lanesOf c.act
      let list (l : Nat) : Nat := (g.xread a ⟨.id, 0⟩ 0 l).toNat % 2 ^ 14
      let dies := (ls.map fun l => listDie (list l)).eraseDups
      if !dies.all (s.listOk k) then .next (s.trapExec c Cause.prot 0xFF 0)
      else match s.ownCurds k.id dies with
        | .inr x => .next (s.waitFor c (.curd x))
        | .inl s =>
          let (inst, s) := s.fresh
          let (s, ok) := ls.foldl (fun ((s : State), (ok : List Nat)) l =>
            let dd := listDie (list l)
            let x := s.die dd
            if k.quiet || 2 ^ 20 ≤ x.curd.items.length + x.curd.fly.length then (s, ok)
            else
              let item : W128 := .ofNat 128 ((List.range 4).foldr (fun i acc => (g.xread (d + i) ⟨.id, 0⟩ 0 l).toNat + 2 ^ 32 * acc) 0)
              let (u, s) := s.fresh
              let e := { mkEntry c u (.item (list l)) l 0 .nowhere 16 item.toNat 0 4 false with inst }
              let s := s.modGrp g.id fun g => { g with obq := g.obq ++ [e], idle := false }
              (s.setDie dd { x with curd := { x.curd with fly := x.curd.fly ++ [(g.id, list l, item, inst)] } }, ok ++ [l])) (s, [])
          .next ((s.locked c [] [.pset pd c.act (maskIn ok)]).done c)

/-- WTAKEs that wait at a list are served while it holds items, in the order of their requests (12 R275). -/
def State.serveList (s : State) (die list : Nat) : Nat → State
  | 0 => s
  | n + 1 =>
    let x := s.die die
    let items := (x.curd.items.filter (·.1 == list)).map (·.2)
    match x.curd.waits.find? (·.list == list) with
    | none => s
    | some t =>
      if items.isEmpty then s
      else
        let m := min items.length (lanesOf t.mask).length
        ((s.setDie die { x with curd := x.curd.without list m }).serveTake die t (items.take m) false).serveList die list n

/-- ITEM_ARRIVE: the items that one WAPP sent to a list, of which item i in flight is the oldest, arrive there together, after those its group
sent there before and after everything their releases wait for; the WTAKEs that wait there take them (12 R274, R275). -/
def execItemArrive (die i : Nat) (s : State) : Out :=
  let x := s.die die
  match x.curd.fly[i]? with
  | none => .next s
  | some (gid, list, _, inst) =>
    if (x.curd.fly.take i).any fun y => y.1 == gid && y.2.1 == list then .next s
    else
      let mine (y : Nat × Nat × W128 × Nat) : Bool := y.1 == gid && y.2.1 == list && y.2.2.2 == inst
      let arrive (s : State) : State :=
        let x := s.die die
        let c := { x.curd with fly := x.curd.fly.filter fun y => !mine y, items := x.curd.items ++ (x.curd.fly.filter mine).map fun y => (list, y.2.2.1) }
        (s.setDie die { x with curd := c }).serveList die list c.waits.length
      match s.grp? gid with
      | none => .next (arrive s)
      | some g =>
        let due (e : Entry) : Bool := e.kind == .item list && e.inst == inst && e.stage == .queued
        match g.obq.findIdx? due with
        | none => .next (arrive s)
        | some j => match g.obq[j]? with
          | none => .next (arrive s)
          | some e =>
            if s.heldBack g j e false then .next s
            else .next ((arrive ((g.obq.filter due).foldl (fun s x => s.perform gid x.uid 0) s)).prune gid)

/-- WTAKE (12 R275). -/
def execWtake (h : Hdr) (d b pg pq : Nat) (s : State) : Out :=
  withIssue (.wtake h d b pg pq) s fun c s =>
    withCurd c s fun k =>
      let x := (c.g.s b).toNat % 2 ^ 14
      let die := listDie x
      if !s.listOk k die then .next (s.trapExec c Cause.prot 0xFF 0)
      else match s.ownCurds k.id [die] with
        | .inr y => .next (s.waitFor c (.curd y))
        | .inl s =>
          if k.quiet then .next ((s.locked c [] (takeResult d pg pq c.act [] true)).done c)
          else
            let cu := (s.die die).curd
            let items := (cu.items.filter (·.1 == x)).map (·.2)
            if items.isEmpty || cu.waits.any (·.list == x) then
              let (u, s) := s.fresh
              let t : Take := ⟨u, c.g.id, x, d, pg, pq, c.act, nextPc c.a c.size⟩
              let dd := s.die die
              let s := s.setDie die { dd with curd := { dd.curd with waits := dd.curd.waits ++ [t] } }
              let s := s.modGrp c.g.id fun g => { g with idle := true }
              .next (s.waitFor c (.take u))
            else
              let n := min items.length (lanesOf c.act).length
              let dd := s.die die
              let s := s.setDie die { dd with curd := dd.curd.without x n }
              let s := (s.itemAcquire c.g.id c.act).modGrp c.g.id fun g => { g with idle := false }
              .next ((s.locked c [] (takeResult d pg pq c.act (items.take n) false)).done c)

/-- WIDLE (12 R276). -/
def execWidle (h : Hdr) (s : State) : Out :=
  withIssue (.widle h) s fun c s => withCurd c s fun _ => .next ((s.modGrp c.g.id fun g => { g with idle := true }).done c)

/-- Every list of a grid is empty, nothing is in flight, and every drainer is idle (12 R276, R277, 22 R387). -/
def State.quiescent (s : State) (k : Grid) : Bool :=
  s.dies.toList.all (fun d => d.curd.owner != some k.id || (d.curd.items.isEmpty && d.curd.fly.isEmpty)) &&
    k.p.teams ≤ k.next && s.groups.all fun g => (s.team? g.team).map (·.grid) != some k.id || g.res == Res.draining || g.idle

/-- QUIESCENCE_REPORT: every WTAKE that waits completes with PQ. -/
def execQuiescenceReport (grid : Nat) (s : State) : Out :=
  match s.grid? grid with
  | none => .next s
  | some k =>
    if !k.usesCurd || k.quiet || !s.quiescent k then .next s
    else
      let s := s.setGrid { k with quiet := true }
      .next ((List.range 4).foldl (fun s d =>
        let x := s.die d
        if x.curd.owner = some grid then x.curd.waits.foldl (fun s t => s.serveTake d t [] true) s else s) s)

end Sys2Proof.Machine
end

