-- ==== Sys2Proof/Machine/Save.lean ====
section
/-! DEFINITION. Save.lean: group and team images: saving, and restoring (03 R63-R66, 08 R177, 11 R236, 12 R268, 14 R329-R331).
The manual lays out the window, the full/empty bits and the convergence registers of a team image; the bytes of an engine's part are free values, and
what they stand for is kept beside it (log 46). -/

namespace Sys2Proof.Machine

open Sys2Proof

/-! ### The save pool (14 R315, R330) -/

def round64 (n : Nat) : Nat := (n + 63) / 64 * 64

/-- The largest image of a group. -/
def Group.maxImage (g : Group) : Nat := round64 (0x3A0 + 8 * g.ns + 512 * g.nv + 16 + 32 * 128)

/-- A team image: window, full/empty bits, convergence registers, and 4 MiB for each engine leased (14 R330). -/
def State.teamImage (s : State) (t : Team) : Nat :=
  round64 (t.size + t.size / 128 + 128 + 2 ^ 22 * (s.engines.toList.filter fun e => e.lease == some t.id).length)

/-- Parts of a context's save pool in use. -/
def State.poolUsed (s : State) (ctx : Nat) : List (Nat × Nat) :=
  let mine (grid : Nat) : Bool := (s.grid? grid).map (·.ctx) == some ctx
  (s.groups.filterMap fun g => match s.team? g.team with
    | some t => if mine t.grid then g.img else none
    | none => none) ++ s.teams.filterMap fun t => if mine t.grid then t.area else none

/-- A place for n bytes in the pool. -/
def State.poolAt (s : State) (ctx n : Nat) : Option Nat :=
  let used := s.poolUsed ctx
  (0 :: used.map fun u => u.1 + u.2).find? fun o =>
    o + n ≤ 4096 * (s.desc ctx).savesz && used.all fun u => o + n ≤ u.1 || u.1 + u.2 ≤ o

/-- A group's place in the pool. -/
def State.reserveGroup (s : State) (gid : Nat) : Option State :=
  match s.grp? gid with
  | none => some s
  | some g =>
    if g.img.isSome then some s
    else (s.poolAt (s.grpCtx g) g.maxImage).map fun o => s.setGrp { g with img := some (o, g.maxImage) }

/-- Room for the images of a team and its groups; none where the pool lacks it. -/
def State.reserveTeam (s : State) (t : Team) : Option State :=
  let ctx := ((s.grid? t.grid).map (·.ctx)).getD 0
  let s? := if t.area.isSome then some s
    else (s.poolAt ctx (s.teamImage t)).map fun o => s.setTeam { t with area := some (o, s.teamImage t) }
  ((s.groups.filter fun g => g.team == t.id && g.res == .resident).map (·.id)).foldl (fun o g => o.bind fun s => s.reserveGroup g) s?

/-- Places that no request and no image needs any longer. -/
def State.releasePool (s : State) (team : Nat) : State :=
  let idle (g : Group) : Bool := g.team == team && g.res == .resident && g.preempt.isNone
  let s := { s with groups := s.groups.map fun (g : Group) => if idle g then { g with img := none } else g }
  match s.team? team with
  | none => s
  | some t =>
    if t.saved || s.groups.any (fun g => g.team == team && g.img.isSome) then s else s.setTeam { t with area := none }

/-! ### Group images (14 R329) -/

/-- Fields of given sizes in bytes, lowest first, as one number. -/
def packF : List (Nat × Nat) → Nat
  | [] => 0
  | (n, v) :: fs => v % 2 ^ (8 * n) + 2 ^ (8 * n) * packF fs

def sizeF (fs : List (Nat × Nat)) : Nat := fs.foldl (fun a f => a + f.1) 0

def Lane.code : Lane → Nat
  | .ready => 0 | .waiting _ => 1 | .parked => 2 | .exited => 3

/-- Codes of two bits each, the first lowest. -/
def pack2 (xs : List Nat) : Nat := xs.foldr (fun x acc => x + 4 * acc) 0

/-- A timed wait in progress: lanes, cycles left, code offset, kind 0 SLEEP or 1 BARWT. -/
structure Timed where
  mask : Mask
  left : Nat
  pc   : Nat
  kind : Nat
  deriving DecidableEq, Repr

def unbounded : Nat := 2 ^ 64 - 1

/-- What is left of a BARWT budget. -/
def budgetLeft (budget : Nat) (dead : Option Nat) (now : Nat) : Nat :=
  match dead with
  | some d => if budget = unbounded then unbounded else d - now
  | none => budget

/-- The timed wait of a lane: kind, which wait, cycles left, code offset. -/
def State.timedAt (s : State) (g : Group) (l : Nat) : Option (Nat × Nat × Nat × Nat) :=
  let pc := (nth g.pcv l).toNat
  match nth g.lanes l with
  | .waiting (.sleep t _ u) => some (0, u, t - s.now g, pc)
  | .waiting (.bank u) =>
    match (s.teams.flatMap (·.bankq)).find? (·.id == u) with
    | some w => match w.op with
      | .barwt _ _ b dead => some (1, u, budgetLeft b dead (s.now g), pc)
      | _ => none
    | none => none
  | _ => none

def State.timedWaits (s : State) (g : Group) : List Timed :=
  let at' := mkLanes (s.timedAt g)
  (((List.range 128).filterMap fun l => nth at' l).eraseDups).map fun x =>
    ⟨maskOf fun l => nth at' l == some x, x.2.2.1, x.2.2.2, x.1⟩

def VReg.code : VReg → Nat
  | .uni _ => 0 | .aff .. => 1 | .gen _ => 2

/-- The saved fields of a vector register; the lanes of freed slices are 0. -/
def Group.regFields (g : Group) (r : Nat) : List (Nat × Nat) :=
  match g.v r with
  | .uni u => [(4, u.toNat)]
  | .aff b t => [(4, b.toNat), (4, t.toNat)]
  | .gen v => (List.range 128).map fun l => (4, if g.sliceFreed l then 0 else (nth v l).toNat)

/-- The image with n vector registers: its size in bytes and its bytes as a number. -/
def State.image (s : State) (g : Group) (n : Nat) : Nat × Nat :=
  let ws := s.timedWaits g
  let head : List (Nat × Nat) :=
    [(8, 1 + 2 ^ 16 * n + 2 ^ 25 * g.ns),
     (8, g.fpf.toNat + 2 ^ 8 * g.friv + 2 ^ 16 * g.sbchk.toNat + 2 ^ 17 * g.spoob.toNat),
     (8, g.spooba.toNat), (8, g.trapc.toNat), (8, ws.length), (8, 0), (16, g.donem.toNat),
     (32, pack2 (g.lanes.toList.map Lane.code))] ++
    (List.range 8).map (fun i => (16, (g.p i).toNat)) ++ (List.range 16).map (fun i => (8, (g.h i).toNat)) ++
    g.pcv.toList.map (fun p => (4, p.toNat)) ++
    [(64, pack2 ((List.range 256).map fun r => if r < n then (g.v r).code else 3))] ++
    (List.range g.ns).map (fun i => (8, (g.s i).toNat)) ++ (List.range n).flatMap g.regFields
  let gap := (16 - sizeF head % 16) % 16
  let tail := ws.flatMap fun w => [(16, w.mask.toNat), (8, w.left), (4, w.pc), (4, w.kind)]
  let fs := head ++ [(gap, 0)] ++ tail
  (round64 (sizeF fs), packF fs)

/-- Writes n bytes of the save pool, 64 at a time; none where a home cannot answer yet. -/
def State.poolWrite (s : State) (die ctx va v : Nat) : Nat → Option State
  | 0 => some s
  | n + 1 => match s.devPa ctx va 1 with
    | none => none
    | some pa => (s.directWrite (5000 + die) die pa 64 (v % 2 ^ 512)).bind fun s => s.poolWrite die ctx (va + 64) (v / 2 ^ 512) n

/-- Reads pieces of 64 bytes of the save pool as one number. -/
def State.poolRead (s : State) (die ctx va : Nat) : Nat → Option (Nat × State)
  | 0 => some (0, s)
  | n + 1 => match s.devPa ctx va 0 with
    | none => none
    | some pa => (s.directRead (5000 + die) die pa 64).bind fun (x, s) =>
      (s.poolRead die ctx (va + 64) n).map fun (y, s) => (x + 2 ^ 512 * y, s)

/-- The budgets of a group's BARWT waits stand still while it is not resident; one whose wait has not begun is whole. -/
def State.freezeWaits (s : State) (gid now : Nat) : State :=
  let stop (w : Wt) : Wt := match w.op with
    | .barwt d ph b dead => if w.grp = gid then { w with op := .barwt d ph (budgetLeft b dead now) dead } else w
    | _ => w
  { s with teams := s.teams.map fun (t : Team) => { t with bankq := t.bankq.map stop } }

/-- A packet that has left its queue and is not accepted yet: all that a saved group may leave behind (08 R177). -/
def Entry.posted (e : Entry) : Bool :=
  match e.kind with
  | .engine _ => e.stage != .queued
  | _ => false

/-- Saves a group (03 R64, 08 R177, 14 R329): results and queue are empty, and the bytes of its locks' ranges written back; with a lane waiting, or
trapped, every vector register goes into the image. The copies of the ranges and its pins go. None where it cannot be done yet. -/
def State.saveGroup (s : State) (gid : Nat) : Option State :=
  let s := s.prune gid
  match s.grp? gid with
  | none => none
  | some g =>
    if g.res != .resident || !g.pend.isEmpty || !g.obq.all Entry.posted || !s.rangesClean g (s.heldAll g) then none
    else match s.reserveGroup gid with
      | none => none
      | some s =>
        let off := (((s.grp? gid).bind (·.img)).getD (0, 0)).1
        let ctx := s.grpCtx g
        let s := s.dropRanges g (s.heldAll g)
        let all := g.trap.isSome || (List.range 128).any fun l => (nth g.lanes l).isWaiting
        let n := if all then g.nv else min g.nv (((s.grpGrid? g).map Grid.splive).getD g.nv)
        let (size, v) := s.image g n
        (s.poolWrite g.die ctx ((s.desc ctx).savebase + off) v (size / 64)).map fun s =>
          let s := s.freezeWaits gid (s.now g)
          let c := s.core g.core
          let size := ((s.grpGrid? g).map Grid.privSize).getD 0 * 128
          let c := { c with
            pins := c.pins.filter (·.2 != gid), resv := c.resv.filter (·.grp != gid),
            l1 := c.l1.filter fun l => !(g.priv ≤ l.addr && l.addr < g.priv + size),
            slots := vmap (fun (x : Slot) => if x.cur = some gid then { x with cur := none, run := 0 } else x) c.slots }
          let s := s.setCore g.core c
          s.modGrp gid fun g => { g with
            res := .saved, preempt := none, rot := none, rotReq := false, fair := 0, ibuf := none, iblk := [], retp := [], prev := 0,
            woken := 0, hidden := false, room := 0 }

/-! ### Teams (11 R236, 14 R330) -/

/-- Groups of a team that have not ended. -/
def State.liveGroups (s : State) (team : Nat) : List Group := s.groups.filter fun g => g.team == team && g.res != .draining

/-- A request of the team still stands in a reservation table. -/
def State.hasRequests (s : State) (team : Nat) : Bool := s.engines.toList.any fun e => e.table.any (·.team == team)

/-- A convergence register's 16 bytes (09 R208). -/
def Cv.word (c : Cv) : Nat := c.members.toNat + 2 ^ 32 * c.signed.toNat + 2 ^ 64 * (c.gen % 16) + 2 ^ 71 * c.bound.isSome.toNat
def Cv.fromWord (c : Cv) (w : Nat) : Cv :=
  { c with members := .ofNat 32 w, signed := .ofNat 32 (w / 2 ^ 32), gen := fld w 64 4, bound := if bit w 71 then c.bound else none }

/-- The window, the full/empty bits and the convergence registers, in the order in which R330 names them. -/
def Team.imageFields (t : Team) : List (Nat × Nat) :=
  [(t.size, t.rd 0 t.size), (t.size / 128, t.full.foldl (fun a g => a ||| 2 ^ g) 0)] ++ t.cvs.toList.map fun c => (16, c.word)

/-- A team as its image describes it: bytes that changed since it was written take the image's values, the others what was stored to the saved team's
window meanwhile (log 46). -/
def Team.fromImage (t : Team) (w : Nat) : Team :=
  let new (o n : Nat) : Option Nat := if fld w o n = fld t.image o n then none else some (fld w o n)
  let cells := (List.range t.size).filterMap fun i => (new (8 * i) 8).map fun v => (i, (BitVec.ofNat 8 v : Byte))
  { t with win := memWriteAll t.win cells,
           full := (List.range (t.size / 16)).filter fun g => ((new (8 * t.size + g) 1).map (· == 1)).getD (t.full.contains g),
           cvs := Vector.ofFn fun i : Fin 8 => ((new (8 * (t.size + t.size / 128 + 16 * i.val)) 128).map t.cvs[i].fromWord).getD t.cvs[i] }

/-- The last group of a team is saved: its image is written, the state of its engines is kept and the leases are free; a lease that was
leaving ends. None where the image cannot be written yet. -/
def State.saveTeam (s : State) (t : Team) : Option State :=
  let e0 := engOfCore t.core
  let kept := (List.range 3).filterMap fun j =>
    let x := s.eng (e0 + j)
    if e0 % 3 + j < 3 && x.lease == some t.id && !x.leaving then some (⟨t.id, j, x.sets, x.tiles, x.chain, x.decl⟩ : Saved) else none
  let leave (x : Engine) : Engine :=
    let x := { x with waits := x.waits.filter (· != t.id) }
    if x.lease = some t.id then leased x.waits.head? (x.waits.drop 1) else x
  let ctx := ((s.grid? t.grid).map (·.ctx)).getD 0
  (s.reserveTeam t).bind fun s =>
    let (parts, s) := kept.foldl (fun ((xs : List (Nat × Nat)), (s : State)) _ => let (v, s) := s.draw; (xs ++ [(2 ^ 22, v)], s)) ([], s)
    let off := (((s.team? t.id).bind (·.area)).getD (0, 0)).1
    let image := packF (t.imageFields ++ parts)
    (s.poolWrite (t.core / 48) ctx ((s.desc ctx).savebase + off) image (s.teamImage t / 64)).map fun s =>
      let t := (s.team? t.id).getD t
      { (s.setTeam { t with saved := true, image }) with saved := s.saved ++ kept, engines := vmap leave s.engines }

/-- A core of an arc: that `k` places on from `core`, round its quadrant. -/
def arcCore (core k : Nat) : Nat := core / 12 * 12 + (core % 12 + k) % 12

/-- A saved team can be placed on a core again: room, its engines free, and its place on the arc of the cluster's other teams (12 R264, R268). -/
def State.teamFits (s : State) (k : Grid) (t : Team) (core : Nat) : Bool :=
  let kept := s.saved.filter (·.team == t.id)
  let e0 := engOfCore core
  s.corePresent core && (s.die (core / 48)).phase == .run && k.p.allows (core / 48) &&
    (s.liveGroups t.id).length + s.promised core ≤ (s.freeSlots core).length && (s.windowAt core t.size).isSome &&
    (s.teams.all fun u => u.grid != t.grid || u.cluster != t.cluster || u.id == t.id || u.saved || u.left == 0 ||
      u.core == arcCore core (u.crank + 12 - t.crank)) &&
    kept.all fun x => e0 % 3 + x.j < 3 && s.matPresent (e0 + x.j) && (s.eng (e0 + x.j)).lease.isNone

/-- The saved teams of a cluster with the cores that put them on one arc when team t takes `core`: a cluster is restored whole (12 R268, 14
R331). -/
def State.clusterAt (s : State) (t : Team) (core : Nat) : List (Team × Nat) :=
  (s.teams.filter fun u => u.grid == t.grid && u.cluster == t.cluster && u.saved && u.left != 0).map fun u =>
    (u, arcCore core (u.crank + 12 - t.crank))

/-- Places a saved team from its image and loads its engines; none where the pool cannot be read yet. -/
def State.placeSaved (s : State) (t : Team) (core : Nat) : Option State :=
  let e0 := engOfCore core
  let ctx := ((s.grid? t.grid).map (·.ctx)).getD 0
  let n := (t.size + t.size / 128 + 128 + 63) / 64
  (s.poolRead (core / 48) ctx ((s.desc ctx).savebase + (t.area.getD (0, 0)).1) n).map fun (w, s) =>
    let s := (s.saved.filter (·.team == t.id)).foldl (fun s (x : Saved) =>
      let e := s.eng (e0 + x.j)
      s.setEng (e0 + x.j) { e with lease := some t.id, leaving := false, waits := e.waits.filter (· != t.id), sets := x.sets, tiles := x.tiles,
                                   chain := x.chain, decl := x.decl }) s
    ({ s with saved := s.saved.filter (·.team != t.id) }.setTeam
      { t.fromImage w with saved := false, core, base := (s.windowAt core t.size).getD 0 }).acqSysDrop core

/-- Places the saved teams of a cluster, all or none. -/
def State.placeCluster (s : State) (k : Grid) (us : List (Team × Nat)) : Option State :=
  if !us.all (fun x => s.teamFits k x.1 x.2) then none
  else us.foldl (fun (o : Option State) x => o.bind fun s => s.placeSaved x.1 x.2) (some s)

/-! ### Restoring a group (03 R66, 14 R329) -/

/-- The group as its image describes it, none where a reserved field is set or something stands that it cannot hold. `now` is
the cycle of restoring. -/
def Group.fromImage (g : Group) (w now : Nat) : Option (Group × List Timed) :=
  let at' (o n : Nat) : Nat := fld w (8 * o) (8 * n)
  let n := fld w 16 9
  let tag (r : Nat) : Nat := fld w (8 * 0x360 + 2 * r) 2
  let k := fld w (8 * 0x20) 8
  let code (l : Nat) : Nat := fld w (8 * 0x40 + 2 * l) 2
  let pcAt (l : Nat) : W32 := .ofNat 32 (at' (0x160 + 4 * l) 4)
  let sizeOfTag (t : Nat) : Nat := match t with
    | 0 => 4 | 1 => 8 | 2 => 512 | _ => 0
  let regs0 := 0x3A0 + 8 * g.ns
  let (regs, fin) := (List.range 256).foldl (fun ((xs : List VReg), (o : Nat)) r =>
    let x : VReg := match tag r with
      | 0 => .uni (.ofNat 32 (at' o 4))
      | 1 => mkAff (.ofNat 32 (at' o 4)) (.ofNat 32 (at' (o + 4) 4))
      | 2 => .gen (mkLanes fun l => .ofNat 32 (at' (o + 4 * l) 4))
      | _ => .uni 0
    (xs ++ [x], o + sizeOfTag (tag r))) (([] : List VReg), regs0)
  let base := (fin + 15) / 16 * 16
  let ws : List Timed := (List.range k).map fun i =>
    let o := base + 32 * i
    ⟨.ofNat 128 (at' o 16), at' (o + 16) 8, at' (o + 24) 4, at' (o + 28) 4⟩
  let waits (l : Nat) : Bool := code l == 1
  let heldBy (l : Nat) : Bool := match nth g.lanes l with
    | .exited => code l == 3
    | .waiting _ => true
    | .ready => code l != 1 || g.woken.getLsbD l
    | .parked => code l != 1
  let okWaits := ws.all (fun t => t.kind < 2 && (lanesOf t.mask).all fun l => waits l && (pcAt l).toNat == t.pc) &&
    (List.range 128).all fun l => (ws.filter fun t => t.mask.getLsbD l).length ≤ 1
  if fld w 0 16 != 1 || g.nv < n || fld w 25 8 != g.ns || fld w 33 31 != 0 || fld w 70 2 != 0 || fld w 77 3 != 0 || fld w 82 46 != 0 ||
      fld w (8 * 0x18 + 9) 7 != 0 || at' 0x20 8 != k || 128 < k || at' 0x28 8 != 0 ||
      !((List.range 256).all fun r => r < g.nv || tag r == 3) || !((List.range 128).all heldBy) || !okWaits then none
  else
    let timedOf (l : Nat) (kind : Nat) : Option Timed := ws.find? fun t => t.kind == kind && t.mask.getLsbD l
    let ended (l : Nat) : Bool := waits l && (nth g.lanes l).isReady
    let lane (l : Nat) : Lane := match code l with
      | 0 | 2 => .ready
      | 3 => .exited
      | _ => match nth g.lanes l with
        | .waiting (.sleep t nx u) => .waiting (.sleep (match timedOf l 0 with
          | some x => now + x.left
          | none => t) nx u)
        | .waiting (.lease _) | .waiting (.table _) | .waiting (.drain _) | .waiting (.rel ..) => .ready
        | .waiting x => .waiting x
        | _ => .ready
    let pc (l : Nat) : W32 := match nth g.lanes l with
      | .waiting (.rel _ nx) => nx
      | _ => if ended l then nth g.pcv l else pcAt l
    some ({ g with
      vregs := Vector.ofFn fun i : Fin 256 => (regs[i.val]?).getD (.uni 0),
      sregs := Vector.ofFn fun i : Fin 192 => if i.val < g.ns then .ofNat 64 (at' (0x3A0 + 8 * i.val) 8) else 0,
      preds := Vector.ofFn fun i : Fin 8 => .ofNat 128 (at' (0x60 + 16 * i.val) 16),
      hnds := Vector.ofFn fun i : Fin 16 => .ofNat 64 (at' (0xE0 + 8 * i.val) 8),
      pcv := mkLanes pc, lanes := mkLanes lane, donem := .ofNat 128 (at' 0x30 16), spoob := bit w 81, spooba := .ofNat 64 (at' 0x10 8),
      friv := fld w 72 5, sbchk := bit w 80, trapc := .ofNat 64 (at' 0x18 8), fpf := .ofNat 6 (fld w 64 6),
      woken := maskOf fun l => waits l && (lane l).isReady }, ws)

/-- BARWT waits go on from the budgets of the image; one that had not begun begins with its first check. -/
def State.thawWaits (s : State) (g : Group) (ws : List Timed) (now : Nat) : State :=
  let left (w : Wt) : Option Nat := (ws.find? fun t => t.kind == 1 && (lanesOf t.mask).any fun l => nth g.lanes l == Lane.waiting (.bank w.id)).map (·.left)
  let go (w : Wt) : Wt := match w.op with
    | .barwt d ph b dead =>
      if w.grp != g.id then w
      else
        let b := (left w).getD b
        { w with op := .barwt d ph b (dead.map fun _ => now + b) }
    | _ => w
  { s with teams := s.teams.map fun (t : Team) => { t with bankq := t.bankq.map go } }

/-- The guarded ranges of a group's locks move with it. -/
def State.moveHeld (s : State) (g : Group) (core : Nat) : State :=
  let mine := (s.core g.core).held.filter (·.grp == g.id)
  let c := s.core g.core
  let s := s.setCore g.core { c with held := c.held.filter (·.grp != g.id) }
  let c := s.core core
  let room := 16 - (c.held.filter (·.live)).length
  s.setCore core { c with held := c.held ++ mine.take room ++ (mine.drop room).map fun (h : Held) => { h with ranges := [] } }

/-- A saved group takes a resident slot of its team's core; other groups' registers make room for its own (02 R42). None where the pool cannot be read
yet. A failed restore ends the grid with status 0x09 and fcode 1. -/
def State.restoreGroup (s : State) (g : Group) (core slot : Nat) : Option State :=
  let ctx := s.grpCtx g
  let die := core / 48
  match g.img with
  | none => none
  | some (off, size) =>
    (s.poolRead die ctx ((s.desc ctx).savebase + off) (size / 64)).map fun (w, s) =>
      let now := (s.die die).cycle
      match g.fromImage w now with
      | none => match s.grpGrid? g with
        | some k => s.endGrid k.id 9 1 0
        | none => s
      | some (x, ws) =>
        let s := s.moveHeld g core
        let x := { x with freed := x.freedNow, res := .resident, core, slot, fair := 0, ibuf := none, iblk := [], retp := [], rot := none, nextIssue := now, lastIssue := now, img := none, adv := [] }
        let x := g.adv.foldl (fun (x : Group) (m, p) => { x with pcv := mkLanes fun l => if m.getLsbD l then p else nth x.pcv l }) x
        let s := (((s.setGrp x).thawWaits x ws now).releasePool g.team).pressOut core g.id 96
        ((s.teams.filter fun t => t.bankq.any (·.grp == g.id)).map (·.id)).foldl State.bank s

end Sys2Proof.Machine
end

