-- ==== Sys2Proof/Machine/Float.lean ====
section
/-! DEFINITION. Float.lean: the floating class (05 R105-R115) and the instructions of band states but QNT (05 R122,
R123). -/

namespace Sys2Proof.Machine

open Sys2Proof

def FFn.fmt (f : FFn) : Fmt := f.f.fmt
def FFn.mode (f : FFn) : Rm := Rm.ofCode f.rm 0

/-- FADD (05 R107). -/
def execFadd (h : Hdr) (f : FFn) (o : Ops) (s : State) : Out :=
  aluFp (.fadd h f o) f.f o (fLat f.f o) (fun x => fnFadd (FFn.fmt f) (FFn.mode f) false x.a.toNat x.b.toNat) s
/-- FSUB (05 R107). -/
def execFsub (h : Hdr) (f : FFn) (o : Ops) (s : State) : Out :=
  aluFp (.fsub h f o) f.f o (fLat f.f o) (fun x => fnFadd (FFn.fmt f) (FFn.mode f) true x.a.toNat x.b.toNat) s
/-- FMUL (05 R107). -/
def execFmul (h : Hdr) (f : FFn) (o : Ops) (s : State) : Out :=
  aluFp (.fmul h f o) f.f o (fLat f.f o) (fun x => fnFmul (FFn.fmt f) (FFn.mode f) x.a.toNat x.b.toNat) s
/-- FFMA (05 R107). -/
def execFfma (h : Hdr) (f : FFn) (o : Ops) (s : State) : Out :=
  aluFp (.ffma h f o) f.f o (fLat f.f o)
    (fun x => fnFfma (FFn.fmt f) (FFn.mode f) f.n1 f.n2 x.a.toNat x.b.toNat x.c.toNat) s
/-- FMIN (05 R108). -/
def execFmin (h : Hdr) (f : FFn) (o : Ops) (s : State) : Out :=
  aluFp (.fmin h f o) f.f o (fLat f.f o) (fun x => (fnMinMax (FFn.fmt f) false x.a.toNat x.b.toNat, 0)) s
/-- FMAX (05 R108). -/
def execFmax (h : Hdr) (f : FFn) (o : Ops) (s : State) : Out :=
  aluFp (.fmax h f o) f.f o (fLat f.f o) (fun x => (fnMinMax (FFn.fmt f) true x.a.toNat x.b.toNat, 0)) s
/-- FRCP (05 R110, R111). -/
def execFrcp (h : Hdr) (f : FFn) (o : Ops) (s : State) : Out :=
  aluFp (.frcp h f o) f.f o (tLat f.f o) (fun x => fnFrcp (FFn.fmt f) (FFn.mode f) x.a.toNat) s
/-- FSQRT (05 R110, R111). -/
def execFsqrt (h : Hdr) (f : FFn) (o : Ops) (s : State) : Out :=
  aluFp (.fsqrt h f o) f.f o (tLat f.f o) (fun x => fnFsqrt (FFn.fmt f) (FFn.mode f) x.a.toNat) s
/-- FRSQ (05 R110, R111). -/
def execFrsq (h : Hdr) (f : FFn) (o : Ops) (s : State) : Out :=
  aluFp (.frsq h f o) f.f o (tLat f.f o) (fun x => fnFaith .rsq (FFn.fmt f) x.a.toNat) s
/-- FEXP2 (05 R110, R111). -/
def execFexp2 (h : Hdr) (f : FFn) (o : Ops) (s : State) : Out :=
  aluFp (.fexp2 h f o) f.f o (tLat f.f o) (fun x => fnFaith .exp2 (FFn.fmt f) x.a.toNat) s
/-- FLOG2 (05 R110, R111). -/
def execFlog2 (h : Hdr) (f : FFn) (o : Ops) (s : State) : Out :=
  aluFp (.flog2 h f o) f.f o (tLat f.f o) (fun x => fnFaith .log2 (FFn.fmt f) x.a.toNat) s
/-- FSIN (05 R110-R112). -/
def execFsin (h : Hdr) (f : FFn) (o : Ops) (s : State) : Out :=
  aluFp (.fsin h f o) f.f o (tLat f.f o) (fun x => fnFaith .sin (FFn.fmt f) x.a.toNat) s
/-- FCOS (05 R110-R112). -/
def execFcos (h : Hdr) (f : FFn) (o : Ops) (s : State) : Out :=
  aluFp (.fcos h f o) f.f o (tLat f.f o) (fun x => fnFaith .cos (FFn.fmt f) x.a.toNat) s
/-- FTANH (05 R110, R111). -/
def execFtanh (h : Hdr) (f : FFn) (o : Ops) (s : State) : Out :=
  aluFp (.ftanh h f o) f.f o (tLat f.f o) (fun x => fnFaith .tanh (FFn.fmt f) x.a.toNat) s

/-- FROUND (05 R115). -/
def execFround (h : Hdr) (f : FFn) (o : Ops) (s : State) : Out :=
  aluFp (.fround h f o) f.f o (if crossed o then 8 else 6) (fun x => fnFround (FFn.fmt f) (FFn.mode f) x.a.toNat) s

/-- FCMP, the compare layout (05 R109). -/
def execFcmp (h : Hdr) (cond : Nat) (f : FTy) (o : Ops) (s : State) : Out :=
  withIssue (.fcmp h cond f o) s fun c s =>
    let w := f.regs == 2
    let wr := emitPrd c o.d fun l => let x := c.g.args o w w w l; fnFcmp f.fmt cond x.a.toNat x.b.toNat
    .next ((s.fixed c (fLat f o) (wr ++ [.fpf 0])).done c)

/-- A floating-point instruction of the group has not committed: it will still write FPF (05 R104). -/
def Group.fpOpen (g : Group) : Bool := g.pend.any fun p => p.wrs.any fun w => match w with
  | .fpf _ => true
  | _ => false

/-- The flag forms: held back while a floating-point instruction is open; the clear happens in the same step (05 R109). -/
def flagForm (i : Instr) (d : Nat) (clr : Bool) (s : State) : Out :=
  withIssue i s fun c s =>
    if c.g.fpOpen then .next s
    else
      let s := if clr then s.setGrp { c.g with fpf := 0 } else s
      .next ((s.locked c [] [.sset d (c.g.fpf.zeroExtend 64)]).done c)

/-- FCMP.rflg (05 R109). -/
def execFcmpRflg (h : Hdr) (d : Nat) (s : State) : Out := flagForm (.fcmpRflg h d) d false s
/-- FCMP.cflg (05 R109). -/
def execFcmpCflg (h : Hdr) (d : Nat) (s : State) : Out := flagForm (.fcmpCflg h d) d true s

/-- FCVT (05 R113, R114): under `.rs` one draw a lane, one for the whole register of a uniform source. -/
def execFcvt (h : Hdr) (d a : Nat) (xa : Pat) (n : Nat) (c : CvtD) (s : State) : Out :=
  withIssue (.fcvt h d a xa n c) s fun k s =>
    let two := cvtRegs c.st == 2
    let src : Src := .vec a ⟨xa, xa.implied⟩
    let uni := k.g.uniSrc two src
    let r := fun l => fnFcvt c (rhoAt s (if uni then 0 else l)) (k.g.opnd two n src l).toNat
    let wr := emitVec k (cvtRegs c.dt == 2) d uni none (fun l => .ofNat 64 (r l).1)
    let s := if c.rm = 4 then s.drew else s
    .next ((s.fixed k (if xa = .id then 6 else 8) (wr ++ [.fpf (laneFlags k r)])).done k)

/-- Bits 63:48 of a band state (05 R117). -/
def bandScale (x : W64) : Num := fv (x >>> 48).toNat .bf16

/-- The factors of DQNT's product for lane l (05 R122). -/
def dqFactors (g : Group) (inp a : Nat) (xa : Pat) (scale : Num) (l : Nat) : List Num :=
  let id : Xb := ⟨.id, 0⟩
  match inp with
  | 2 =>
    let q := (g.xread a id 0 (l / 8)).toNat / 2 ^ (4 * (l % 8)) % 16
    let e := (g.xread a id 0 (16 + l / 32)).toNat / 2 ^ (8 * (l / 8 % 4)) % 256
    [fv q .e2m1, fv e .e3m5, scale]
  | 3 => [(CTy.int 8 true).val (g.xread a ⟨xa, xa.implied⟩ 0 l).toNat, scale]
  | k => [fv ((g.xread a ⟨xa, xa.implied⟩ 0 l).toNat % 256) (if k = 0 then .e4m3 else .e5m2), scale]

/-- DQNT (05 R122). -/
def execDqnt (h : Hdr) (rm : Nat) (bf : Bool) (inp d a : Nat) (xa : Pat) (cr : Nat) (s : State) : Out :=
  withIssue (.dqnt h rm bf inp d a xa cr) s fun c s =>
    let F := if bf then Fmt.bf16 else .fp32
    let scale := bandScale (c.g.s cr)
    let r := fun l => dqProd F (Rm.ofCode rm 0) (dqFactors c.g inp a xa scale l)
    let uni := inp != 2 && c.g.uniSrc false (.vec a ⟨xa, xa.implied⟩)
    let wr := emitVec c false d uni none (fun l => .ofNat 64 (r l).1)
    .next ((s.fixed c (if xa = .id then 6 else 8) (wr ++ [.fpf (laneFlags c r)])).done c)

/-- AMAX (05 R123). -/
def execAmax (h : Hdr) (run : Bool) (f : FTy) (d a : Nat) (xa : Pat) (n : Nat) (s : State) : Out :=
  withIssue (.amax h run f d a xa n) s fun c s =>
    let old := c.g.s d
    let xs := (lanesOf c.act).map fun l => fv ((c.g.xread a ⟨xa, xa.implied⟩ (c.g.s n) l).toNat % 2 ^ f.fmt.bits) f.fmt
    let m := runMax (if run then (lo32 old).toNat else 0) xs
    let bits : W64 := .ofNat 64 (round m .fp32 .rn).1
    .next ((s.locked c [] [.sset d ((old >>> 32 <<< 32) ||| bits), .fpf 0]).done c)

end Sys2Proof.Machine
end

