-- ==== Sys2Proof/Machine/Integer.lean ====
section
/-! DEFINITION. Integer.lean: the integer class (04 R77-R89). -/

namespace Sys2Proof.Machine

open Sys2Proof

def noLin : Group → Lin := fun _ => none

/-- IADD (04 R80). -/
def execIadd (h : Hdr) (f : IFn) (o : Ops) (s : State) : Out :=
  aluInt (.iadd h f o) f o true true (fun g => linAdd (g.lin o.a) (g.lin o.b)) (fun x => fnAdd f.t x.a x.b) s
/-- ISUB (04 R80). -/
def execIsub (h : Hdr) (f : IFn) (o : Ops) (s : State) : Out :=
  aluInt (.isub h f o) f o true true (fun g => linSub (g.lin o.a) (g.lin o.b)) (fun x => fnSub f.t x.a x.b) s
/-- IMUL (04 R80). -/
def execImul (h : Hdr) (f : IFn) (o : Ops) (s : State) : Out :=
  aluInt (.imul h f o) f o true true (fun g => linMul (g.lin o.a) (g.lin o.b)) (fun x => fnMul f.t x.a x.b) s
/-- IMULH (04 R80). -/
def execImulh (h : Hdr) (f : IFn) (o : Ops) (s : State) : Out :=
  aluInt (.imulh h f o) f o true true noLin (fun x => fnMulh f.t x.a x.b) s
/-- IMAD (04 R80): the tag combines in the order of the arithmetic (02 R36). -/
def execImad (h : Hdr) (f : IFn) (o : Ops) (s : State) : Out :=
  aluInt (.imad h f o) f o true true (fun g => linAdd (linMul (g.lin o.a) (g.lin o.b)) (g.lin o.c))
    (fun x => fnMad f.t x.a x.b x.c) s
/-- IMIN (04 R81). -/
def execImin (h : Hdr) (f : IFn) (o : Ops) (s : State) : Out :=
  aluInt (.imin h f o) f o true true noLin (fun x => fnMin f.t x.a x.b) s
/-- IMAX (04 R81). -/
def execImax (h : Hdr) (f : IFn) (o : Ops) (s : State) : Out :=
  aluInt (.imax h f o) f o true true noLin (fun x => fnMax f.t x.a x.b) s
/-- IABS (04 R81). -/
def execIabs (h : Hdr) (f : IFn) (o : Ops) (s : State) : Out :=
  aluInt (.iabs h f o) f o true true noLin (fun x => fnAbs f.t x.a) s
/-- SHL (04 R82): B is a single register for either width. -/
def execShl (h : Hdr) (f : IFn) (o : Ops) (s : State) : Out :=
  aluInt (.shl h f o) f o false true (fun g => linShl (g.lin o.a) (g.lin o.b)) (fun x => fnShl f.t x.a x.b) s
/-- SHR (04 R82). -/
def execShr (h : Hdr) (f : IFn) (o : Ops) (s : State) : Out :=
  aluInt (.shr h f o) f o false true noLin (fun x => fnShr f.t x.a x.b) s
/-- SRA (04 R82). -/
def execSra (h : Hdr) (f : IFn) (o : Ops) (s : State) : Out :=
  aluInt (.sra h f o) f o false true noLin (fun x => fnSra f.t x.a x.b) s
/-- AND (04 R83). -/
def execAnd (h : Hdr) (f : IFn) (o : Ops) (s : State) : Out :=
  aluInt (.and h f o) f o true true noLin (fun x => fnAnd f.t x.a x.b) s
/-- OR (04 R83). -/
def execOr (h : Hdr) (f : IFn) (o : Ops) (s : State) : Out :=
  aluInt (.or h f o) f o true true noLin (fun x => fnOr f.t x.a x.b) s
/-- XOR (04 R83). -/
def execXor (h : Hdr) (f : IFn) (o : Ops) (s : State) : Out :=
  aluInt (.xor h f o) f o true true noLin (fun x => fnXor f.t x.a x.b) s
/-- ANDN (04 R83). -/
def execAndn (h : Hdr) (f : IFn) (o : Ops) (s : State) : Out :=
  aluInt (.andn h f o) f o true true noLin (fun x => fnAndn f.t x.a x.b) s
/-- POPC (04 R83). -/
def execPopc (h : Hdr) (f : IFn) (o : Ops) (s : State) : Out :=
  aluInt (.popc h f o) f o true true noLin (fun x => fnPopc f.t x.a) s
/-- CLZ (04 R83). -/
def execClz (h : Hdr) (f : IFn) (o : Ops) (s : State) : Out :=
  aluInt (.clz h f o) f o true true noLin (fun x => fnClz f.t x.a) s
/-- BREV (04 R83). -/
def execBrev (h : Hdr) (f : IFn) (o : Ops) (s : State) : Out :=
  aluInt (.brev h f o) f o true true noLin (fun x => fnBrev f.t x.a) s
/-- BFX (04 R84): position and width are 32-bit values (log 18). -/
def execBfx (h : Hdr) (f : IFn) (o : Ops) (s : State) : Out :=
  aluInt (.bfx h f o) f o false false noLin (fun x => fnBfx f.t x.a x.b x.c) s

/-- BFI (04 R84): D is a source. -/
def execBfi (h : Hdr) (f : IFn) (o : Ops) (s : State) : Out :=
  withIssue (.bfi h f o) s fun c s =>
    let g := c.g
    let w := f.t.is64
    let v := fun l => let x := g.args o w false false l; fnBfi f.t (g.oldDst f o.d l) x.a x.b x.c
    let wr := emitInt c f o.d (g.uniOps o w false false && g.uniDst f o.d) none v
    .next ((s.fixed c (iLat f.s o) wr).done c)

/-- ISEL (04 R85): general, for the predicate is a per-lane source. -/
def execIsel (h : Hdr) (f : IFn) (o : Ops) (p : Nat) (s : State) : Out :=
  withIssue (.isel h f o p) s fun c s =>
    let g := c.g
    let w := f.t.is64
    let v := fun l => if (g.p p).getLsbD l then trim f.t (g.opnd w o.n o.a l) else trim f.t (g.opnd w o.n o.b l)
    .next ((s.fixed c (iLat f.s o) (emitVec c w o.d false none v)).done c)

/-- ICMP (04 R86). -/
def execIcmp (h : Hdr) (f : IFn) (o : Ops) (s : State) : Out :=
  withIssue (.icmp h f o) s fun c s =>
    let g := c.g
    let w := f.t.is64
    let wr := emitPrd c o.d fun l => let x := g.args o w w w l; fnCmp f.t f.m x.a x.b
    .next ((s.fixed c (iLat false o) wr).done c)

/-- The offset of LEA: 8 bits signed, or the 128-bit form's immediate (04 R87). -/
def leaOff (h : Hdr) (f : IFn) (c : Src) : Int :=
  match c with
  | .imm v => if h.len = .l128 then uval f.t v else (v.truncate 8 : Byte).toInt
  | _ => 0

/-- LEA (04 R87). -/
def execLea (h : Hdr) (f : IFn) (o : Ops) (s : State) : Out :=
  let off := leaOff h f o.c
  aluInt (.lea h f o) f { o with c := .none } false true
    (fun g => linAdd (linAdd (g.lin o.a) (linShl (g.lin o.b) (some (BitVec.ofNat 32 f.m, 0)))) (some (BitVec.ofInt 32 off, 0)))
    (fun x => fnLea f.t f.m x.a x.b off) s

/-- MOV (04 R88): copies the tag. -/
def execMov (h : Hdr) (f : IFn) (o : Ops) (s : State) : Out :=
  aluInt (.mov h f o) f o true true (fun g => g.lin o.a) (fun x => trim f.t x.a) s

/-- Width of MOVI's immediate by length (04 R88). -/
def moviBits (h : Hdr) : Nat :=
  match h.len with
  | .l64 => 8 | .l96 => 32 | .l128 => 64

/-- MOVI (04 R88). -/
def execMovi (h : Hdr) (f : IFn) (o : Ops) (s : State) : Out :=
  aluInt (.movi h f o) f o true true noLin (fun x => immExt f.t (moviBits h) x.a) s

/-- MOVW (04 R88): D is a source. -/
def execMovw (h : Hdr) (f : IFn) (d : Nat) (imm : BitVec 16) (piece : Nat) (s : State) : Out :=
  withIssue (.movw h f d imm piece) s fun c s =>
    let g := c.g
    let v := fun l => fnMovw f.t (g.oldDst f d l) imm piece
    .next ((s.fixed c (if f.s then 3 else 4) (emitInt c f d (g.uniDst f d) none v)).done c)

/-- PLOP (04 R89). -/
def execPlop (h : Hdr) (d a b c : Nat) (lut : Byte) (s : State) : Out :=
  withIssue (.plop h d a b c lut) s fun k s =>
    let g := k.g
    let wr := emitPrd k d fun l => fnPlop lut ((g.p a).getLsbD l) ((g.p b).getLsbD l) ((g.p c).getLsbD l)
    .next ((s.fixed k 4 wr).done k)

/-! ### Lane movement (04 R90-R96): interlocked -/

/-- PERM (04 R91): the lane B names, read through A's pattern. -/
def execPerm (h : Hdr) (w64 : Bool) (o : Ops) (s : State) : Out :=
  withIssue (.perm h w64 o) s fun c s =>
    let g := c.g
    let v := fun l => g.opnd w64 o.n o.a ((g.opnd false o.n o.b l).toNat % 128)
    .next ((s.locked c [] (emitVec c w64 o.d false none v)).done c)

/-- VOTE (04 R92). -/
def execVote (h : Hdr) (mode d a : Nat) (s : State) : Out :=
  withIssue (.vote h mode d a) s fun c s =>
    let m := c.g.p a &&& c.act
    let wr : Wr := match mode with
      | 0 => .pset d c.act (if m = c.act then c.act else 0)
      | 1 => .pset d c.act (if m = 0 then 0 else c.act)
      | 2 => .pset d (BitVec.allOnes 128) m
      | _ => .sset d (.ofNat 64 (lanesOf m).length)
    .next ((s.locked c [] [wr]).done c)

/-- RED (04 R93). -/
def execRed (h : Hdr) (op : Nat) (t : ITy) (o : Ops) (s : State) : Out :=
  withIssue (.red h op t o) s fun c s =>
    let xs := (lanesOf c.act).map fun l => c.g.opnd t.is64 o.n o.a l
    let r := match xs with
      | [] => 0
      | x :: rest => rest.foldl (redOp op t) x
    .next ((s.locked c [] [.sset o.d (toScalar t r)]).done c)

/-- Prefixes of a list under an operation, from an accumulator (04 R93). -/
def scanGo (f : W64 → W64 → W64) (ex : Bool) : W64 → List (Nat × W64) → List (Nat × W64)
  | _, [] => []
  | acc, (l, x) :: rest => let n := f acc x; (l, if ex then acc else n) :: scanGo f ex n rest

/-- SCAN (04 R93). -/
def execScan (h : Hdr) (ex : Bool) (op : Nat) (t : ITy) (o : Ops) (s : State) : Out :=
  withIssue (.scan h ex op t o) s fun c s =>
    let xs := (lanesOf c.act).map fun l => (l, c.g.opnd t.is64 o.n o.a l)
    let ys := scanGo (redOp op t) ex (redIdent op t) xs
    let v := fun l => ((ys.find? (·.1 == l)).map (·.2)).getD 0
    .next ((s.locked c [] (emitVec c t.is64 o.d false none v)).done c)

/-- BCAST (04 R94): a vector destination is uniform in all 128 lanes. -/
def execBcast (h : Hdr) (w64 fromS toS : Bool) (d a : Nat) (xa : Pat) (k : Nat) (s : State) : Out :=
  withIssue (.bcast h w64 fromS toS d a xa k) s fun c s =>
    let g := c.g
    let j := if fromS then (g.s k).toNat % 128 else k
    let x := g.opnd w64 0 (.vec a ⟨xa, xa.implied⟩) j
    let wr : List Wr :=
      if toS then [.sset d x]
      else .vset d (.uni (lo32 x)) :: (if w64 then [.vset (d + 1) (.uni (hi32 x))] else [])
    .next ((s.locked c [] wr).done c)

/-- SHAPE (04 R95): reads the tag of A, which no pattern changes, or forces a register to general. -/
def execShape (h : Hdr) (mode d : Nat) (x : VecSrc) (s : State) : Out :=
  withIssue (.shape h mode d x) s fun c s =>
    let g := c.g
    let wr : Wr := match mode with
      | 0 => .sset d (match g.v x.r with
        | .uni _ => 0
        | .aff .. => 1
        | .gen _ => 2)
      | 1 => .sset d (match g.v x.r with
        | .uni u => u.zeroExtend 64
        | .aff b t => t ++ b
        | .gen _ => 0)
      | _ => .vset d (.gen (mkLanes fun l => (g.v d).get l))
    .next ((s.locked c [] [wr]).done c)

/-- PACKL (04 R96): writes all 128 lanes. -/
def execPackl (h : Hdr) (w64 cnt : Bool) (o : Ops) (cr : Nat) (s : State) : Out :=
  withIssue (.packl h w64 cnt o cr) s fun c s =>
    let xs := (lanesOf c.act).map fun l => c.g.opnd w64 o.n o.a l
    let v := mkLanes fun l => (xs[l]?).getD 0
    let all := BitVec.allOnes 128
    let wr : List Wr := .vlanes o.d all (mkLanes fun l => lo32 (nth v l)) ::
      (if w64 then [.vlanes (o.d + 1) all (mkLanes fun l => hi32 (nth v l))] else [])
    .next ((s.locked c [] (wr ++ (if cnt then [.sset cr (.ofNat 64 xs.length)] else []))).done c)

end Sys2Proof.Machine
end

