-- ==== Sys2Proof/Machine/Stack.lean ====
section
/-! DEFINITION. Stack.lean: stack cores: tasks, channel accesses, refresh and repair, and their instruction set (13, 20 R380,
R381). A result commits in the step that issues it, for every result is interlocked (13 R288). -/

namespace Sys2Proof.Machine

open Sys2Proof

abbrev SMask := BitVec 64

/-! ### Tasks (13 R282, R284-R286) -/

namespace Task
def wr (t : Task) (r l : Nat) : W32 := nth (nth t.w r) l
def xr (t : Task) (r : Nat) : W64 := nth t.x r
/-- q0 reads all ones. -/
def pr (t : Task) (r : Nat) : SMask := if r = 0 then BitVec.allOnes 64 else nth t.q r
def setX (t : Task) (r : Nat) (v : W64) : Task := { t with x := put t.x r v }
/-- The lanes of m receive v. -/
def setW (t : Task) (r : Nat) (m : SMask) (v : Nat → W32) : Task :=
  { t with w := put t.w r (mkSLanes fun l => if m.getLsbD l then v l else t.wr r l) }
/-- Writes to q0 are discarded. -/
def setQ (t : Task) (r : Nat) (m v : SMask) : Task :=
  if r = 0 then t else { t with q := put t.q r ((nth t.q r &&& ~~~m) ||| (v &&& m)) }
/-- Bytes of the local scratch. -/
def scrSize (t : Task) : Nat := 4096 * t.kscr
end Task

def smaskOf (f : Nat → Bool) : SMask := (List.range 64).foldl (fun m l => if f l then m ||| BitVec.twoPow 64 l else m) 0
def slanesOf (m : SMask) : List Nat := (List.range 64).filter m.getLsbD

/-- Stack, channel, die and record fields of stack core sc (13 R278, R304, R306). -/
def stackOf (sc : Nat) : Nat := sc / 32
def channelOf (sc : Nat) : Nat := sc % 32
def recCore (sc : Nat) : Nat := 12 + stackOf sc % 2

namespace State
def task? (s : State) (sc : Nat) : Option Task := (s.stk sc).task
def setTask (s : State) (sc : Nat) (t : Task) : State := s.setStk sc { s.stk sc with task := some t }
def modTask (s : State) (sc : Nat) (f : Task → Task) : State :=
  match s.task? sc with
  | some t => s.setTask sc (f t)
  | none => s
def stackNow (s : State) (sc : Nat) : Nat := (s.die (dieOfStack sc)).cycle
def taskGrid? (s : State) (t : Task) : Option Grid := s.grid? t.grid
def taskCtx (s : State) (t : Task) : Nat := ((s.grid? t.grid).map (·.ctx)).getD 0
end State

/-- A task that the dispatcher stops: its row operations stop at a row boundary, its words drain (13 R285). -/
def Task.halt (t : Task) : Task :=
  if t.fin.isSome then t else { t with fin := some false, wait := .no, preempt := none, rowops := t.rowops.filter fun r => 2 ≤ r.kind }

/-- A stack core whose ended task has drained is free; the task counts if it ended at EXIT (13 R285, R293). -/
def State.settleTask (s : State) (sc : Nat) : State :=
  match s.task? sc with
  | none => s
  | some t =>
    match t.fin with
    | none => s
    | some good =>
      if !t.rowops.isEmpty then s
      else
        let s := s.setStk sc { s.stk sc with task := none }
        match s.grid? t.grid with
        | some k => s.setGrid { k with good := k.good + good.toNat, gone := k.gone + 1 }
        | none => s

/-- No row operation is in progress: the controller performs every refresh it owes (13 R308): every step ends at a boundary. -/
def State.refreshIdle (s : State) (ch : Nat) : State :=
  let c := s.chan ch
  match s.task? ch with
  | some t => if t.rowops.any (·.kind < 2) then s else s.setChan ch { c with debt := 0 }
  | none => s.setChan ch { c with debt := 0 }

/-- A stack kernel's ending: its tasks stop, those not started never start; the first ending decides (12 R269, 13 R285). -/
def State.endStack (s : State) (grid status fcode : Nat) (ffa : W64) : State :=
  match s.grid? grid with
  | none => s
  | some k =>
    if k.ending.isSome then s
    else
      let s := s.setGrid { k with ending := some (status, fcode), ffa, wait := none }
      let stop (c : StackCore) : StackCore :=
        let gone := (c.saved.filter (·.grid == grid)).flatMap fun t => (t.rowops.filter fun r => 2 ≤ r.kind).map fun r => (grid, r)
        { c with task := c.task.map fun (t : Task) => if t.grid = grid then t.halt else t, saved := c.saved.filter fun (t : Task) => t.grid != grid,
                 left := c.left ++ gone }
      let s := { s with stackCores := vmap stop s.stackCores }
      (List.range 256).foldl (fun s sc => (s.settleTask sc).refreshIdle sc) s

/-- The ending of a grid of either level. -/
def State.finishGrid (s : State) (grid status fcode : Nat) (ffa : W64) : State :=
  match s.grid? grid with
  | some k => if k.stack then s.endStack grid status fcode ffa else s.endGrid grid status fcode ffa
  | none => s

/-- The trap record of a stack task (14 R314). -/
def stackWords (sc : Nat) (grid : W64) (trapc : W64) (lanes : SMask) (after : Bool) (va : W64) : List W64 :=
  [0, .ofNat 64 (1 + 2 ^ 1 * dieOfStack sc + 2 ^ 5 * recCore sc + 2 ^ 9 * channelOf sc + 2 ^ 16 * after.toNat), 0, lanes, 0, trapc, grid, va]

/-- A trap of a task at its instruction `t.pc` (13 R285): the record, and the end of its kernel. -/
def State.trapTask (s : State) (t : Task) (sc cause lane : Nat) (lanes : SMask) (va : W64) : State :=
  let grid := ((s.taskGrid? t).map (·.gridid)).getD 0
  let trapc : W64 := .ofNat 64 (cause + 2 ^ 16 * lane + 2 ^ 32 * t.pc.toNat)
  let c := s.ctxD (s.taskCtx t)
  let s := s.setCtx { c with traps := c.traps ++
    [{ grp := 0, seq := none, words := stackWords sc grid trapc lanes false va, cause, stack := true, resolved := true, saved := false }] }
  s.endStack t.grid 9 cause 0

/-- A trap of the task that a stack core runs. -/
def State.stackTrap (s : State) (sc cause lane : Nat) (lanes : SMask) (va : W64) : State :=
  match s.task? sc with
  | none => s
  | some t => s.trapTask t sc cause lane lanes va

/-- A task asked to yield more than 1 ms ago is not taken any more (13 R286). -/
def State.late (s : State) (sc : Nat) (t : Task) : Bool := t.fin.isNone && (t.preempt.map fun x => decide (x + 1050000 < s.stackNow sc)).getD false

/-- A task that was not taken within 1 ms ends its kernel (13 R286). -/
def State.endLate (s : State) (sc : Nat) : State :=
  match s.task? sc with
  | none => s
  | some t => if s.late sc t then s.endStack t.grid 7 0 0 else s

/-- A task is taken at a safe point, a row boundary or a wait, within 1 ms (13 R286); refreshes owed at a row boundary come first (R308). Words that no
row operation precedes are no part of the save: the stack core's controller keeps them. -/
def State.takeTask (s : State) (sc : Nat) : State :=
  match s.task? sc with
  | none => s
  | some t =>
    if t.preempt.isNone || t.fin.isSome then s
    else if s.late sc t then s.endStack t.grid 7 0 0
    else
      let ch := s.chan sc
      let s := if ch.debt = 8 then s.setChan sc { ch with debt := 0 } else s
      let c := s.stk sc
      let (out, rest) := t.rowops.span fun r => 2 ≤ r.kind
      (s.setStk sc { c with task := none, saved := c.saved ++ [{ t with preempt := none, rowops := rest }],
                            left := c.left ++ out.map fun r => (t.grid, r) }).refreshIdle sc

/-- The task stands at a row boundary, between two rows of an operation in progress, or waits (13 R286, R299). -/
def Task.yields (t : Task) : Bool := t.wait != .no || (t.rowops.head?.map fun r => r.kind < 2 && r.rows != 0 && !r.pas.isEmpty).getD false

/-! ### Fetch (13 R287) -/

/-- The instruction of a task at its PC. -/
def State.fetchStack (s : State) (sc : Nat) (t : Task) : Fetch :=
  let x := t.pc.toNat
  if x % 4 ≠ 0 ∨ x % 32 = 28 then .trap Cause.fetchAlign
  else match s.taskGrid? t with
    | none => .trap Cause.prot
    | some k =>
      if k.csize ≤ x then .trap Cause.prot
      else
        let va := k.code + x / 32 * 32
        match s.permit (s.lookup none (dieOfStack sc) k.ctx va s.free) va 0 with
        | .fail .. => .trap Cause.prot
        | .ok base _ e =>
          if !pteX e then .trap Cause.prot
          else
            let w := s.homeRead (pteFrame e + (va - base) + x % 32) (32 - x % 32)
            match sizeOf w with
            | none => .trap Cause.illegal
            | some n =>
              if 32 < x % 32 + n then .trap Cause.fetchAlign
              else match decodeStack (w % 2 ^ (8 * n)) with
                | .ok i => .ok i
                | .error _ => .trap Cause.illegal

/-- Ends the wait on fault records that are all resolved. -/
def State.wakeTask (s : State) (t : Task) : Task :=
  match t.wait with
  | .fault rs => if rs.all fun r => !(s.ctxD (s.taskCtx t)).faults.any (·.uid == r) then { t with wait := .no } else t
  | _ => t

/-- The fetch of a task's instruction waits for a stopped channel (13 R309). -/
def State.fetchHeld (s : State) (t : Task) : Bool := ((s.taskGrid? t).map fun k => s.blockHeld k (t.pc.toNat / 32)).getD false

/-- A turn of a stack core: the instruction that its task executes, if one issues. -/
def State.pickStack (s : State) (sc : Nat) : State × Option Instr :=
  match s.task? sc with
  | none => (s, none)
  | some t0 =>
    let t := s.wakeTask t0
    let s := s.setTask sc t
    if t.fin.isSome || s.dieDown (dieOfStack sc) then (s, none)
    else if t.wait != .no then (s.takeTask sc, none)
    else if s.late sc t then (s.endLate sc, none)
    else if s.stackNow sc < t.nextIssue || s.fetchHeld t then (s, none)
    else match s.fetchStack sc t with
      | .trap cause => (s.stackTrap sc cause 0xFF (BitVec.allOnes 64) 0, none)
      | .ok i =>
        if t.preempt.isSome && (hdrOf i).sp then (s.takeTask sc, none)
        else ({ s with free := s.free + 1, cur := .task sc }, some i)

/-! ### The frame of an instruction (13 R287) -/

/-- An instruction of a task at issue: stack core, task, active lanes, size. -/
structure TIssue where
  sc   : Nat
  t    : Task
  a    : W32
  act  : SMask
  size : Nat
  h    : Hdr

/-- The executing task; an instruction without one does nothing. -/
def withTask (i : Instr) (s : State) (body : TIssue → State → Out) : Out :=
  match s.cur with
  | .task sc => match s.task? sc with
    | some t =>
      if t.fin.isSome || t.wait != .no then .next s
      else
        let h := hdrOf i
        let p := t.pr h.pr
        body ⟨sc, t, t.pc, if h.neg then ~~~p else p, i.size, h⟩ s
    | none => .next s
  | _ => .next s

/-- The task moves to an address. -/
def State.taskTo (s : State) (c : TIssue) (pc : W32) : State :=
  s.modTask c.sc fun t => { t with pc, nextIssue := s.stackNow c.sc + 1 + c.h.stall }
/-- The task moves on to the next instruction, with its registers changed. -/
def State.taskDone (s : State) (c : TIssue) (f : Task → Task) : State := (s.modTask c.sc f).taskTo c (nextPc c.a c.size)

/-- A predicated instruction: with no active lane it only moves on. -/
def withLanes (i : Instr) (s : State) (body : TIssue → State → Out) : Out :=
  withTask i s fun c s => if c.act = 0 then .next (s.taskDone c id) else body c s

/-! ### Control (13 R291-R294) -/

/-- STACK_NOP (13 R291). -/
def execSNop (h : Hdr) (s : State) : Out := withTask (.sNop h) s fun c s => .next (s.taskDone c id)

/-- A branch of a task, checked as R68 gives. -/
def State.taskBranch (s : State) (c : TIssue) (imm : W32) (f : Task → Task) : State :=
  let t := relTarget c.a imm
  match badTarget (((s.taskGrid? c.t).map Grid.csize).getD 0) t with
  | some cause => s.stackTrap c.sc cause 0xFF c.act 0
  | none => (s.modTask c.sc f).taskTo c (.ofNat 32 t.toNat)

/-- STACK_BRA (13 R292). -/
def execSBra (h : Hdr) (mode : Nat) (imm : W32) (s : State) : Out :=
  withTask (.sBra h mode imm) s fun c s =>
    let taken := match mode with
      | 0 => true
      | 1 => c.act != 0
      | 2 => c.act == BitVec.allOnes 64
      | _ => c.act == 0
    .next (if taken then s.taskBranch c imm id else s.taskDone c id)

/-- LOOP (13 R292). -/
def execLoop (h : Hdr) (d : Nat) (imm : W32) (s : State) : Out :=
  withTask (.loop h d imm) s fun c s =>
    let n := c.t.xr d - 1
    .next (if n != 0 then s.taskBranch c imm (·.setX d n) else s.taskDone c (·.setX d n))

/-- STACK_EXIT (13 R293): the task's channel writes still drain. -/
def execSExit (h : Hdr) (s : State) : Out :=
  withTask (.sExit h) s fun c s => .next ((s.modTask c.sc fun t => { t with fin := some true, preempt := none }).settleTask c.sc)

/-- The value of a special register (13 R282). -/
def State.srdVal (s : State) (c : TIssue) (num : Nat) : W64 :=
  let k := s.taskGrid? c.t
  match num with
  | 1 => .ofNat 64 c.t.taskid
  | 2 => .ofNat 64 ((k.map fun k => k.p.teams).getD 0)
  | 3 => .ofNat 64 (stackOf c.sc)
  | 4 => .ofNat 64 (channelOf c.sc)
  | 5 => .ofNat 64 (s.stackNow c.sc)
  | 6 => .ofNat 64 c.t.koob.toNat
  | 7 => c.t.kooba.zeroExtend 64
  | 8 => c.t.kfpf.zeroExtend 64
  | 9 => (k.map (·.gridid)).getD 0
  | _ => 0

/-- SRD (13 R291). -/
def execSrd (h : Hdr) (d num : Nat) (clr vec : Bool) (s : State) : Out :=
  withTask (.srd h d num clr vec) s fun c s =>
    let x := s.srdVal c num
    let clear (t : Task) : Task :=
      if !clr then t else if num = 6 then { t with koob := false, kooba := 0 } else { t with kfpf := 0 }
    .next (s.taskDone c fun t => clear (if vec then t.setW d (BitVec.allOnes 64) (.ofNat 32) else t.setX d x))

/-! ### Arithmetic (13 R295-R297) -/

/-- A source for lane l: `bits` is the width of an immediate, extended to the type. -/
def TIssue.src (c : TIssue) (t : ITy) (bits : Nat) (o : Src) (l : Nat) : W64 :=
  match o with
  | .none => 0
  | .imm v => immExt t bits v
  | .sca r => if t.is64 then c.t.xr r else (c.t.xr r).truncate 32 |>.zeroExtend 64
  | .vec r _ => (c.t.wr r l).zeroExtend 64

/-- An integer instruction: once on scalars, else lane by lane. -/
def stackInt (i : Instr) (f : IFn) (o : Ops) (bits : Nat) (fn : W64 → W64 → W64 → W64) (s : State) : Out :=
  withLanes i s fun c s =>
    let v (l : Nat) : W64 := fn (c.src f.t bits o.a l) (c.src f.t bits o.b l) (c.src f.t bits o.c l)
    .next (s.taskDone c fun t => if f.s then t.setX o.d (toScalar f.t (v 0)) else t.setW o.d c.act fun l => lo32 (v l))

/-- STACK_ADD (13 R295). -/
def execSAdd (h : Hdr) (f : IFn) (o : Ops) (s : State) : Out := stackInt (.sAdd h f o) f o 32 (fun a b _ => fnAdd f.t a b) s
/-- STACK_SUB (13 R295). -/
def execSSub (h : Hdr) (f : IFn) (o : Ops) (s : State) : Out := stackInt (.sSub h f o) f o 32 (fun a b _ => fnSub f.t a b) s
/-- STACK_MUL (13 R295). -/
def execSMul (h : Hdr) (f : IFn) (o : Ops) (s : State) : Out := stackInt (.sMul h f o) f o 32 (fun a b _ => fnMul f.t a b) s
/-- STACK_MAD (13 R295). -/
def execSMad (h : Hdr) (f : IFn) (o : Ops) (s : State) : Out := stackInt (.sMad h f o) f o 32 (fun a b c => fnMad f.t a b c) s
/-- STACK_AND (13 R295). -/
def execSAnd (h : Hdr) (f : IFn) (o : Ops) (s : State) : Out := stackInt (.sAnd h f o) f o 32 (fun a b _ => fnAnd f.t a b) s
/-- STACK_OR (13 R295). -/
def execSOr (h : Hdr) (f : IFn) (o : Ops) (s : State) : Out := stackInt (.sOr h f o) f o 32 (fun a b _ => fnOr f.t a b) s
/-- STACK_XOR (13 R295). -/
def execSXor (h : Hdr) (f : IFn) (o : Ops) (s : State) : Out := stackInt (.sXor h f o) f o 32 (fun a b _ => fnXor f.t a b) s
/-- STACK_SHL (13 R295). -/
def execSShl (h : Hdr) (f : IFn) (o : Ops) (s : State) : Out := stackInt (.sShl h f o) f o 32 (fun a b _ => fnShl f.t a b) s
/-- STACK_SHR (13 R295). -/
def execSShr (h : Hdr) (f : IFn) (o : Ops) (s : State) : Out := stackInt (.sShr h f o) f o 32 (fun a b _ => fnShr f.t a b) s

/-- STACK_CMP (13 R295): the scalar outcome goes to all 64 bits. -/
def execSCmp (h : Hdr) (f : IFn) (o : Ops) (s : State) : Out :=
  withLanes (.sCmp h f o) s fun c s =>
    let r (l : Nat) : Bool := fnCmp f.t f.m (c.src f.t 32 o.a l) (c.src f.t 32 o.b l)
    let all := BitVec.allOnes 64
    .next (s.taskDone c fun t => if f.s then t.setQ o.d all (if r 0 then all else 0) else t.setQ o.d c.act (smaskOf r))

/-- STACK_SEL (13 R295). -/
def execSSel (h : Hdr) (f : IFn) (o : Ops) (p : Nat) (s : State) : Out :=
  withLanes (.sSel h f o p) s fun c s =>
    let v (l : Nat) : W32 := lo32 (c.src f.t 32 (if (c.t.pr p).getLsbD l then o.a else o.b) l)
    .next (s.taskDone c fun t => t.setW o.d c.act v)

/-- STACK_MOV (13 R295): 32 bits a lane, or all 64 of a scalar. -/
def execSMov (h : Hdr) (f : IFn) (o : Ops) (s : State) : Out :=
  withLanes (.sMov h f o) s fun c s =>
    .next (s.taskDone c fun t => if f.s then t.setX o.d (c.src .n64 64 o.b 0) else t.setW o.d c.act fun l => lo32 (c.src .n32 32 o.b l))

/-- STACK_MOVI (13 R295). -/
def execSMovi (h : Hdr) (f : IFn) (o : Ops) (s : State) : Out := stackInt (.sMovi h f o) f o (moviBits h) (fun a _ _ => a) s

/-- A floating instruction: its lanes' results and the flags of all of them (13 R296). -/
def stackFp (i : Instr) (o : Ops) (fn : Nat → Nat → Nat → FRes) (s : State) : Out :=
  withLanes i s fun c s =>
    let r (l : Nat) : FRes := fn (c.src .n32 32 o.a l).toNat (c.src .n32 32 o.b l).toNat (c.src .n32 32 o.c l).toNat
    let rs := mkSLanes r
    let fl := flOr ((slanesOf c.act).map r)
    .next (s.taskDone c fun t => { t.setW o.d c.act (fun l => .ofNat 32 (nth rs l).1) with kfpf := t.kfpf ||| fl })

def low (F : Fmt) (x : Nat) : Nat := x % 2 ^ F.bits

/-- STACK_FADD (13 R296). -/
def execSFadd (h : Hdr) (f : FFn) (o : Ops) (s : State) : Out :=
  let F := FFn.fmt f
  stackFp (.sFadd h f o) o (fun a b _ => fnFadd F (FFn.mode f) false (low F a) (low F b)) s
/-- STACK_FMUL (13 R296). -/
def execSFmul (h : Hdr) (f : FFn) (o : Ops) (s : State) : Out :=
  let F := FFn.fmt f
  stackFp (.sFmul h f o) o (fun a b _ => fnFmul F (FFn.mode f) (low F a) (low F b)) s
/-- STACK_FFMA (13 R296). -/
def execSFfma (h : Hdr) (f : FFn) (o : Ops) (s : State) : Out :=
  let F := FFn.fmt f
  stackFp (.sFfma h f o) o (fun a b c => fnFfma F (FFn.mode f) f.n1 f.n2 (low F a) (low F b) (low F c)) s
/-- STACK_FMIN (13 R296). -/
def execSFmin (h : Hdr) (f : FFn) (o : Ops) (s : State) : Out :=
  let F := FFn.fmt f
  stackFp (.sFmin h f o) o (fun a b _ => (fnMinMax F false (low F a) (low F b), 0)) s
/-- STACK_FMAX (13 R296). -/
def execSFmax (h : Hdr) (f : FFn) (o : Ops) (s : State) : Out :=
  let F := FFn.fmt f
  stackFp (.sFmax h f o) o (fun a b _ => (fnMinMax F true (low F a) (low F b), 0)) s

/-- STACK_FCVT (13 R296): under `.rs` a draw a lane. -/
def execSFcvt (h : Hdr) (d a : Nat) (cv : CvtD) (s : State) : Out :=
  withLanes (.sFcvt h d a cv) s fun c s =>
    let r (l : Nat) : FRes := fnFcvt cv (rhoAt s l) (c.t.wr a l).toNat
    let rs := mkSLanes r
    let fl := flOr ((slanesOf c.act).map r)
    let s := if cv.rm = 4 then s.drew else s
    .next (s.taskDone c fun t => { t.setW d c.act (fun l => .ofNat 32 (nth rs l).1) with kfpf := t.kfpf ||| fl })

/-- One step of VRED on floats; `.add` collects flags as FADD does (13 R297). -/
def vredF (op : Nat) (x : FRes) (y : Nat) : FRes :=
  if op = 0 then let r := fnFadd .fp32 .rn false x.1 y; (r.1, x.2 ||| r.2) else (fnMinMax .fp32 (op == 2) x.1 y, x.2)

/-- VRED (13 R297); every NaN result is canonical (05 R103). -/
def execVred (h : Hdr) (fl : Bool) (op : Nat) (t : ITy) (d a : Nat) (s : State) : Out :=
  withLanes (.vred h fl op t d a) s fun c s =>
    let xs := (slanesOf c.act).map fun l => c.t.wr a l
    match xs with
    | [] => .next (s.taskDone c id)
    | x :: rest =>
      if fl then
        let first := if (fv x.toNat .fp32).isNan then canon .fp32 else x.toNat
        let r := rest.foldl (fun acc y => vredF op acc y.toNat) ((first, 0) : FRes)
        .next (s.taskDone c fun k => { k.setX d (.ofNat 64 r.1) with kfpf := k.kfpf ||| r.2 })
      else
        let r := rest.foldl (fun acc y => redOp op t acc (y.zeroExtend 64)) (x.zeroExtend 64)
        .next (s.taskDone c fun k => k.setX d (toScalar t r))

/-! ### Local scratch (13 R300, R302, R303) -/

/-- Offset of lane l (13 R298). -/
def TIssue.ea (c : TIssue) (o : KOp) (sh : Nat) (off : Int) (l : Nat) : W64 :=
  let i : W64 := if o.ix = 0 then 0 else ((c.t.wr o.b l).signExtend 64) <<< (if o.ix = 1 then sh else 0)
  c.t.xr o.a + i + .ofInt 64 off

/-- Scratch rows that operations of some kinds have still to touch overlap n bytes. -/
def Task.rowsBusy (t : Task) (kinds : List Nat) (a n : Nat) : Bool :=
  t.rowops.any fun r => kinds.contains r.kind && a < r.off + 2048 * r.pas.length && r.off < a + n

/-- The lanes of an LDK or STK: those within the scratch, the first one outside, a misaligned one. -/
structure KLanes where
  ins : List (Nat × Nat)
  oob : List (Nat × Nat)
  bad : Option (Nat × Nat)

def TIssue.kLanes (c : TIssue) (o : KOp) : KLanes :=
  let n := szBytes o.sz
  let ls := if o.sd then [0] else slanesOf c.act
  let es := ls.map fun l => (l, (c.ea o (log2Size o.sz) o.off.toInt l).toNat)
  ⟨es.filter fun x => x.2 + n ≤ c.t.scrSize, es.filter fun x => c.t.scrSize < x.2 + n, es.find? fun x => x.2 % n != 0⟩

/-- KOOB and KOOBA latch (13 R303). -/
def Task.latch (t : Task) (k : KLanes) : Task :=
  match k.oob with
  | [] => t
  | (_, o) :: _ => if t.koob then t else { t with koob := true, kooba := .ofNat 32 o }

/-- LDK (13 R302). -/
def execLdk (h : Hdr) (o : KOp) (s : State) : Out :=
  withLanes (.ldk h o) s fun c s =>
    let n := szBytes o.sz
    let k := c.kLanes o
    match k.bad with
    | some (l, a) => .next (s.stackTrap c.sc Cause.prot l c.act (.ofNat 64 a))
    | none =>
      if k.ins.any fun x => c.t.rowsBusy [0] x.2 n then .next s
      else
        let val (l : Nat) : Nat := match k.ins.find? (·.1 == l) with
          | some x => memReadN c.t.scr x.2 n
          | none => 0
        .next (s.taskDone c fun t =>
          (if o.sd then t.setX o.d (.ofNat 64 (extLoad o.sz 64 (val 0))) else t.setW o.d c.act fun l => .ofNat 32 (extLoad o.sz 32 (val l))).latch k)

/-- STK (13 R302): lanes in ascending order. -/
def execStk (h : Hdr) (o : KOp) (s : State) : Out :=
  withLanes (.stk h o) s fun c s =>
    let n := szBytes o.sz
    let k := c.kLanes o
    match k.bad with
    | some (l, a) => .next (s.stackTrap c.sc Cause.prot l c.act (.ofNat 64 a))
    | none =>
      if k.ins.any fun x => c.t.rowsBusy [0, 1] x.2 n then .next s
      else
        let val (l : Nat) : Nat := if o.sd then (c.t.xr o.d).toNat else (c.t.wr o.d l).toNat
        .next (s.taskDone c fun t =>
          { t with scr := k.ins.foldl (fun (m : List Host.Cell) (x : Nat × Nat) => memWriteAll m (leCells x.2 n (val x.1))) t.scr }.latch k)

/-! ### Translation and faults (13 R279, R306) -/

/-- What an address of a task names. -/
inductive STgt where
  | prot
  /-- Its walk waits for a stopped channel (13 R309). -/
  | wait
  | fault (w : Walk)
  | ok (pa : Nat)
  deriving DecidableEq, Repr

/-- An address of the task's channel, checked in the order of R279. -/
def State.chanTgt (s : State) (sc ctx i : Nat) (k : AccKind) (va : W64) : STgt :=
  if apert va != .trans then .prot
  else if s.walkStops ctx va.toNat then .wait
  else match s.lookup none (dieOfStack sc) ctx va.toNat (s.free + i) with
    | .fail c b z => .fault (.fail c b z)
    | .ok base z e =>
      let pa := pteFrame e + (va.toNat - base)
      if chanOf pa != some sc then .prot
      else match s.permit (.ok base z e) va.toNat k with
        | .fail c b z => .fault (.fail c b z)
        | .ok .. => .ok pa

/-- An address of POST or WAITEV, at its home point. -/
def State.homeTgt (s : State) (sc ctx : Nat) (k : AccKind) (va : W64) : STgt :=
  if apert va != .trans then .prot
  else if s.walkStops ctx va.toNat then .wait
  else match s.permit (s.lookup none (dieOfStack sc) ctx va.toNat s.free) va.toNat k with
    | .fail c b z => .fault (.fail c b z)
    | .ok base _ e => .ok (pteFrame e + (va.toNat - base))

/-- The task waits on a record a page: addresses with their lanes, the lowest first; `count` gives the number of lanes that a record names, `m` the
active lanes, which a refusal's trap names (14 R314). -/
def State.stackFault (s : State) (c : TIssue) (k : AccKind) (m : SMask) (xs : List (Nat × W64 × Walk)) (count : Nat → Nat) : State :=
  let ctx := s.taskCtx c.t
  let grid := ((s.taskGrid? c.t).map (·.gridid)).getD 0
  let (ids, s) := ((xs.map (·.2.2)).eraseDups).foldl (fun ((ids : List Nat), (s : State)) w =>
    let (u, s) := s.fresh
    let mine := xs.filter (·.2.2 == w)
    let (b, z, cause) := match w with
      | .fail ca b z => (b, z, ca)
      | .ok b z _ => (b, z, 0)
    let f : FaultRec :=
      { uid := u, seq := none, va := ((mine.head?).map (·.2.1)).getD 0, pc := c.a, grid, lanes := count mine.length, slot := channelOf c.sc,
        core := recCore c.sc, quad := 0, die := dieOfStack c.sc, cause, acc := k, page := b, psize := z, who := 4, grp := c.sc, checked := false,
        mask := m, low := ((mine.head?).map (·.1)).getD 0xFF }
    let x := s.ctxD ctx
    (ids ++ [u], s.setCtx { x with faults := x.faults ++ [f] })) (([] : List Nat), s)
  s.modTask c.sc fun t => { t with wait := .fault ids }

/-- Addresses of a task's instruction with their lanes: PROT at the lowest failing lane, fault records, or all translated. -/
def onTgts (c : TIssue) (s : State) (k : AccKind) (xs : List (Nat × W64 × STgt)) (count : Nat → Nat) (go : List (Nat × Nat) → State → Out) : Out :=
  if xs.any (·.2.2 == .wait) then .next s
  else match xs.find? (·.2.2 == .prot) with
  | some x => .next (s.stackTrap c.sc Cause.prot x.1 c.act x.2.1)
  | none =>
    let miss := xs.filterMap fun x => match x.2.2 with
      | .fault w => some (x.1, x.2.1, w)
      | _ => none
    if !miss.isEmpty then .next (({ s with free := s.free + 64 }).stackFault c k c.act miss count)
    else go (xs.filterMap fun x => match x.2.2 with
      | .ok pa => some (x.1, pa)
      | _ => none) { s with free := s.free + 64 }

/-! ### Channel accesses (13 R280, R299-R301, R308, R309) -/

/-- A write at the controller ends reservations on blocks whose home point it is (08 R193), and the host gives up the lines (15 R342). -/
def State.chanWrite (s : State) (pa n v : Nat) : State :=
  let s := (s.ctlWrite (leCells pa n v)).hostGone pa n
  (List.range ((n + 15) / 16)).foldl (fun s i =>
    let a := pa + 16 * i
    if (s.homeTile? a).isSome then s else s.killResv (.mem a 0) (min n 16) 0 0 0 128 true) s

/-- RLD and RST: checked, every row translated, then complete at issue. -/
def rowOp (i : Instr) (kind a b rows1 : Nat) (s : State) : Out :=
  withTask i s fun c s =>
    let n := rows1 + 1
    let va := c.t.xr a
    let off := (c.t.xr b).toNat
    if va.toNat % 2048 ≠ 0 || off % 16 ≠ 0 || c.t.scrSize < off + 2048 * n then .next (s.stackTrap c.sc Cause.prot 0xFF c.act va)
    else
      let xs := (List.range n).map fun k =>
        let x := va + .ofNat 64 (65536 * k)
        (0xFF, x, s.chanTgt c.sc (s.taskCtx c.t) k kind x)
      onTgts c s kind xs (fun _ => 0) fun ps s =>
        if c.t.rowsBusy (if kind = 0 then [0, 1] else [0]) off (2048 * n) then .next s
        else
          let (uid, s) := s.fresh
          .next (s.taskDone c fun t => { t with rowops := t.rowops ++ [⟨kind, ps.map (·.2), off, [], 0, va, c.a, c.act, uid, []⟩] })

/-- RLD (13 R299). -/
def execRld (h : Hdr) (a b rows1 : Nat) (s : State) : Out := rowOp (.rld h a b rows1) 0 a b rows1 s
/-- RST (13 R299). -/
def execRst (h : Hdr) (a b rows1 : Nat) (s : State) : Out := rowOp (.rst h a b rows1) 1 a b rows1 s

/-- The virtual addresses of the rows or words that are left of an operation, with the bytes of each. -/
def RowOp.pieces (r : RowOp) : List (Nat × Nat) :=
  if 2 ≤ r.kind then r.vas.map fun a => (a.toNat, if r.kind = 2 then 4 else 8)
  else (List.range r.pas.length).map fun k => (r.va.toNat + 65536 * k, 2048)

/-- An operation with its next row or word applied; none once nothing of it is left. -/
def RowOp.after (r : RowOp) : Option RowOp :=
  if r.pas.length ≤ 1 then none
  else some { r with pas := r.pas.tail, off := if 2 ≤ r.kind then r.off else r.off + 2048, data := r.data.drop 1, rows := r.rows + 1, vas := r.vas.drop 1,
                      va := if 2 ≤ r.kind then r.va else r.va + 65536 }

/-- The home point answers a stack core: no stamp and no ownership, but earlier accesses in a spiral come first (08 R176, 13 R281). -/
def State.stackOk (s : State) (pa _n : Nat) : Bool :=
  4 ≤ homeDie pa || (!s.dieDown (homeDie pa) && !s.repairing pa && !((s.quad (homeQuad pa)).accs.any fun a => tileOf a.req.pa == tileOf pa))

/-- POST's bytes at their home point: reservations there end, and the host gives up the line (08 R193, 15 R342). -/
def State.postWrite (s : State) (pa n v : Nat) : State :=
  ((s.homeWrite (leCells pa n v)).hostGone pa n).killResv (.mem pa 0) n 0 0 0 128 true

/-- A word of RSTX, or word 0 of a POST record as a release at `.dev` (13 R301, R304), is applied; none where its home cannot take it yet. -/
def State.wordStep (s : State) (sc : Nat) (r : RowOp) : Option State :=
  match r.pas.head? with
  | none => some s
  | some pa =>
    let v := (r.data.head?).getD 0
    if r.kind = 2 then (if (s.chan sc).repair then none else some (s.chanWrite pa 4 v))
    else if s.stackOk pa 8 then some (s.postWrite pa 8 v) else none

/-- ROW_STEP: the next write that tasks no longer running left behind, else the next row or word of the task's first operation in progress, is
applied. -/
def execRowStep (sc : Nat) (s : State) : Out :=
  match (s.stk sc).left with
  | (grid, r) :: more =>
    match s.wordStep sc r with
    | none => .next s
    | some s => .next (s.setStk sc { s.stk sc with left := (r.after.map fun r => (grid, r)).toList ++ more })
  | [] => match s.task? sc with
    | none => .next s
    | some t => match t.rowops with
      | [] => .next s
      | r :: rest =>
        let ch := s.chan sc
        let left := r.after.toList ++ rest
        match r.pas with
        | [] => .next ((s.modTask sc fun t => { t with rowops := rest }).settleTask sc)
        | pa :: pas =>
          if 2 ≤ r.kind then
            .next (match s.wordStep sc r with
              | none => s
              | some s => (s.modTask sc fun t => { t with rowops := left }).settleTask sc)
          else if ch.repair || ch.debt = 8 then .next s
          else
            let s := if r.kind = 0 then
                let v := s.ctlRead pa 2048
                s.modTask sc fun t => { t with scr := memWriteAll t.scr (leCells r.off 2048 v) }
              else s.chanWrite pa 2048 (memReadN t.scr r.off 2048)
            let s := ((s.modTask sc fun t => { t with rowops := left }).settleTask sc).refreshIdle sc
            .next (if pas.isEmpty then s else s.takeTask sc)

/-- Every earlier channel access, and every POST, of the task is applied. -/
def State.written (s : State) (c : TIssue) : Bool := c.t.rowops.isEmpty && (s.stk c.sc).left.isEmpty
/-- A channel access of words waits for the task's earlier ones, and for the controller. -/
def State.chanFree (s : State) (c : TIssue) : Bool := s.written c && !(s.chan c.sc).repair

/-- The addresses of the active lanes of a word access. -/
def State.wordTgts (s : State) (c : TIssue) (o : KOp) (off : Int) (k : AccKind) : List (Nat × W64 × STgt) :=
  (slanesOf c.act).map fun l =>
    let a := c.ea o 2 off l
    (l, a, if a.toNat % 4 ≠ 0 then .prot else s.chanTgt c.sc (s.taskCtx c.t) l k a)

/-- RLDX (13 R301). -/
def execRldx (h : Hdr) (o : KOp) (s : State) : Out :=
  withLanes (.rldx h o) s fun c s0 =>
    onTgts c s0 0 (s0.wordTgts c o o.off.toInt 0) id fun ps s =>
      if !s.chanFree c then .next s0
      else
        .next (s.taskDone c fun t => t.setW o.d c.act fun l => .ofNat 32 (((ps.find? (·.1 == l)).map fun x => s.ctlRead x.2 4).getD 0))

/-- RSTX (13 R301): its words are applied later, in ascending lane order. -/
def execRstx (h : Hdr) (o : KOp) (s : State) : Out :=
  withLanes (.rstx h o) s fun c s0 =>
    onTgts c s0 1 (s0.wordTgts c o o.off.toInt 1) id fun ps s =>
      let (uid, s) := s.fresh
      .next (s.taskDone c fun t => { t with rowops := t.rowops ++ [⟨2, ps.map (·.2), 0, ps.map fun x => (c.t.wr o.d x.1).toNat, 0, 0, 0, 0, uid, ps.map fun x => c.ea o 2 o.off.toInt x.1⟩] })

/-- The new value of RATOM (13 R301). -/
def ratomNew (op old x : Nat) : Nat :=
  match op with
  | 0 => atomNew 0 true 4 old x 0
  | 1 => atomNew 1 true 4 old x 0
  | 2 => atomNew 2 true 4 old x 0
  | 3 => x
  | _ => atomNew 8 false 4 old x 0

/-- RATOM (13 R301): lanes in ascending order, each one step at the controller. -/
def execRatom (h : Hdr) (op ix d a b cr : Nat) (s : State) : Out :=
  withLanes (.ratom h op ix d a b cr) s fun c s0 =>
    onTgts c s0 2 (s0.wordTgts c ⟨d, a, b, 0, 4, false, ix⟩ 0 2) id fun ps s =>
      if !s.chanFree c then .next s0
      else
        let (olds, s) := ps.foldl (fun ((acc : List (Nat × Nat)), (s : State)) x =>
          let old := s.ctlRead x.2 4
          (acc ++ [(x.1, old)], s.chanWrite x.2 4 (ratomNew op old (c.t.wr cr x.1).toNat))) ([], s)
        .next (s.taskDone c fun t => t.setW d c.act fun l => .ofNat 32 (((olds.find? (·.1 == l)).map (·.2)).getD 0))

/-! ### WAITEV, POST, FENCE (13 R294, R304, R305) -/

/-- The condition of WAITEV. -/
def evHolds (cond w v : Nat) : Bool :=
  match cond with
  | 0 => w == v
  | 1 => w != v
  | 2 => v ≤ w
  | _ => w < v

/-- A home point shows a stack core what is applied there, once it answers and its channel takes accesses (13 R294, R309). -/
def State.evSeen (s : State) (pa : Nat) : Bool := 4 ≤ homeDie pa || (!s.dieDown (homeDie pa) && !s.repairing pa)

/-- WAITEV's check of its word: satisfied, it moves on, no sooner than its gap allows; not, it waits. -/
def State.checkEv (s : State) (c : TIssue) (va v : W64) (cond : Nat) : State :=
  match s.homeTgt c.sc (s.taskCtx c.t) 0 va with
  | .prot => s.stackTrap c.sc Cause.prot 0xFF (BitVec.allOnes 64) va
  | .fault w => let (n, s) := s.draw; s.stackFault c 0 (BitVec.allOnes 64) [(0xFF, va, w)] (fun _ => n % 256)
  | .wait => s.modTask c.sc fun t => { t with wait := .ev va v cond }
  | .ok pa =>
    if s.evSeen pa && evHolds cond (s.homeRead pa 8) v.toNat then
      (s.noteAccess (dieOfStack c.sc) none pa).modTask c.sc fun t => { t with wait := .no, pc := nextPc c.a c.size, nextIssue := max t.nextIssue (s.stackNow c.sc + 1) }
    else (s.noteAccess (dieOfStack c.sc) none pa).modTask c.sc fun t => { t with wait := .ev va v cond }

/-- WAITEV (13 R294); STALL's gap counts from its issue (R288). -/
def execWaitev (h : Hdr) (a b cond : Nat) (s : State) : Out :=
  withTask (.waitev h a b cond) s fun c s =>
    let va := c.t.xr a
    if va.toNat % 8 ≠ 0 || apert va != .trans then .next (s.stackTrap c.sc Cause.prot 0xFF (BitVec.allOnes 64) va)
    else .next ((s.modTask c.sc fun t => { t with nextIssue := s.stackNow c.sc + 1 + c.h.stall }).checkEv c va (c.t.xr b) cond)

/-- The condition of a task that waits in WAITEV is looked at again; WAITEV has 8 bytes. -/
def State.recheckEv (s : State) (sc : Nat) : State :=
  match s.task? sc with
  | none => s
  | some t => match t.wait with
    | .ev va v cond => s.checkEv ⟨sc, t, t.pc, BitVec.allOnes 64, 8, ⟨.l64, 0, false, false, false, 0⟩⟩ va v cond
    | _ => s

/-- WAITEV_WAKE. The clock of the die looks too, every 1024 cycles: a value is seen within 1 µs of its application (13 R294). -/
def execWaitevWake (sc : Nat) (s : State) : Out := .next (s.recheckEv sc)

/-- POST (13 R304): bytes 31:8 are written here, word 0 afterwards. -/
def execPost (h : Hdr) (d a b st : Nat) (s : State) : Out :=
  withTask (.post h d a b st) s fun c s =>
    let va := c.t.xr a
    if va.toNat % 32 ≠ 0 || apert va != .trans then .next (s.stackTrap c.sc Cause.prot 0xFF (BitVec.allOnes 64) va)
    else match s.homeTgt c.sc (s.taskCtx c.t) 1 va with
      | .prot => .next (s.stackTrap c.sc Cause.prot 0xFF (BitVec.allOnes 64) va)
      | .fault w => let (n, s) := s.draw; .next (s.stackFault c 1 (BitVec.allOnes 64) [(0xFF, va, w)] (fun _ => n % 256))
      | .wait => .next s
      | .ok pa =>
        if !s.written c || !s.stackOk pa 32 then .next s
        else
          let prod := prodOf 3 (dieOfStack c.sc) (stackOf c.sc % 2) (channelOf c.sc)
          let v := st + 2 ^ 16 * prod + 2 ^ 64 * (c.t.xr b).toNat + 2 ^ 128 * (c.t.xr d).toNat
          let s := (s.postWrite (pa + 8) 24 (v / 2 ^ 64)).noteAccess (dieOfStack c.sc) none pa
          let (uid, s) := s.fresh
          .next (({ s with free := s.free + 1 }).taskDone c fun t => { t with rowops := [⟨3, [pa], 0, [v % 2 ^ 64], 0, 0, 0, 0, uid, [va]⟩] })

/-- STACK_FENCE (13 R305). -/
def execSFence (h : Hdr) (s : State) : Out :=
  withTask (.sFence h) s fun c s => if s.written c then .next (s.taskDone c id) else .next s

/-! ### Poisoned data (14 R340) -/

/-- A read of the next instruction meets poisoned data: RLDX and RATOM at the word of a lane, WAITEV at its word. -/
def poisonInstr (i : Instr) (lane : Nat) (s : State) : Out :=
  let word (c : TIssue) (s0 : State) (k : AccKind) (xs : List (Nat × W64 × STgt)) : Out :=
    onTgts c s0 k xs id fun ps s =>
      match xs.find? fun x => x.1 == lane && ps.any (·.1 == lane) with
      | some x => if s.chanFree c then .next (s.stackTrap c.sc Cause.memerr 0xFF c.act x.2.1) else .next s0
      | none => .next s0
  match i with
  | .rldx _ o => withLanes i s fun c s0 => word c s0 0 (s0.wordTgts c o o.off.toInt 0)
  | .ratom _ _ ix d a b _ => withLanes i s fun c s0 => word c s0 2 (s0.wordTgts c ⟨d, a, b, 0, 4, false, ix⟩ 0 2)
  | .waitev _ a _ _ => withTask i s fun c s =>
    match s.homeTgt c.sc (s.taskCtx c.t) 0 (c.t.xr a) with
    | .ok _ => .next (s.stackTrap c.sc Cause.memerr 0xFF (BitVec.allOnes 64) (c.t.xr a))
    | _ => .next s
  | _ => .next s

/-- A task reads poisoned data: at the next row of an RLD in progress, or else in its next instruction. -/
def State.poisonTask (s : State) (sc lane : Nat) : Out :=
  match s.task? sc with
  | none => .next s
  | some t =>
    if t.fin.isSome then .next s
    else match t.rowops with
    | r :: _ =>
      if r.kind = 0 && !r.pas.isEmpty then .next (s.trapTask { t with pc := r.pc } sc Cause.memerr 0xFF r.lanes r.va) else .next s
    | [] => match s.fetchStack sc t with
      | .ok i => poisonInstr i lane { s with cur := .task sc }
      | _ => .next s

/-- The next row or word of a stack core's writes meets an uncorrectable line: it is dropped, with an error record. -/
def State.dropRow (s : State) (sc : Nat) : State :=
  let rec' (grid pa : Nat) : State :=
    let k := s.grid? grid
    s.errorRec pa ((k.map (·.gridid)).getD 0) ((k.map (·.ctx)).getD 0) 4 (dieOfStack sc) 2
  let c := s.stk sc
  match c.left with
  | (grid, r) :: more => (rec' grid ((r.pas.head?).getD 0)).setStk sc { c with left := (r.after.map fun r => (grid, r)).toList ++ more }
  | [] => match s.task? sc with
    | none => s
    | some t => match t.rowops with
      | [] => s
      | r :: rest =>
        if r.kind = 0 || r.pas.isEmpty then s
        else (((rec' t.grid ((r.pas.head?).getD 0)).modTask sc fun t => { t with rowops := r.after.toList ++ rest }).settleTask sc).refreshIdle sc

/-! ### Launch, start, end, pre-emption (13 R284-R286) -/

/-- STACK_LAUNCH (13 R284). -/
def execStackLaunch (die ctx q : Nat) (s : State) : Out := takeLaunch true die ctx q s

/-- The next task of a kernel for a stack core. -/
def State.nextTask (s : State) (k : Grid) (sc : Nat) : Option Nat :=
  let e := s.stackSet k.header (ofWords k.pkt)
  if e.isEmpty then none
  else (List.range k.p.teams).find? fun i => !k.tasks.contains i && e[i % e.length]? == some sc

/-- How far the queue of a kernel stands, by context and number, after the one `last` served: 12 R263's rotation. -/
def Grid.turn (g : Grid) (last : Option (Nat × Nat)) : Nat :=
  let k := 64 * g.ctx + g.q
  match last with
  | none => k
  | some (c, q) => if 64 * c + q < k then k - (64 * c + q) else k + 2 ^ 40

/-- The kernel from which a free stack core takes its next task: of those ready, the highest priority; among equals the first queue, by context and
number, after the one it took from last, and of one queue the oldest (12 R263, 13 R284). -/
def State.nextKernel (s : State) (sc : Nat) : Option Grid :=
  let ready := s.grids.filter fun g => g.stack && g.ending.isNone && !s.gridHeld g && (s.nextTask g sc).isSome
  let pri := ready.foldl (fun m g => max m g.p.pri) 0
  let last := nth (s.stk sc).served pri
  (ready.filter (·.p.pri == pri)).foldl (fun best g => match best with
    | none => some g
    | some b => if g.turn last < b.turn last ∨ (g.turn last = b.turn last ∧ g.id < b.id) then some g else some b) none

/-- The kernel comes first at a free stack core; a saved task of its priority or above comes before it. -/
def State.stackFirst (s : State) (k : Grid) (sc : Nat) : Bool :=
  (s.nextKernel sc).map (·.id) == some k.id &&
    (s.stk sc).saved.all fun t => ((s.grid? t.grid).map fun g => decide (g.p.pri < k.p.pri)).getD true

/-- A task at its start: registers 0, q0 ones, scratch zeros, then the image, then the arguments. -/
def newTask (grid taskid kscr now : Nat) (entry : W32) (scr : List Host.Cell) : Task :=
  { grid, taskid, w := .replicate 64 (.replicate 64 0), x := .replicate 32 0, q := .replicate 4 0, pc := entry, kfpf := 0, koob := false,
    kooba := 0, scr, kscr, nextIssue := now, rowops := [], wait := .no, preempt := none, fin := none }

/-- STACK_TASK_START: a free stack core takes the next task of a kernel. -/
def execStackTaskStart (sc grid : Nat) (s : State) : Out :=
  match s.grid? grid with
  | none => .next s
  | some k =>
    if !k.stack || k.ending.isSome || s.gridHeld k || (s.stk sc).task.isSome || (s.die (dieOfStack sc)).phase != .run || !s.stackFirst k sc || !s.extQuiet then .next s
    else match s.nextTask k sc with
      | none => .next s
      | some i =>
        let h := k.h
        let n := if h.init = 0 then 0 else 16 * h.initsz
        let m := if k.p.arg = 0 then 0 else 16 * k.p.argsz
        match s.dispRead k.die k.ctx (.ofNat 64 h.init) n with
        | .miss va w _ s => .next (s.gridMiss k va w)
        | .err st fc _ => .next (if st = 4 then s.endStack k.id 4 fc 0 else s)
        | .wait => .next s
        | .ok init s => match s.dispRead k.die k.ctx k.p.arg m with
          | .miss va w _ s => .next (s.gridMiss k va w)
          | .err st fc _ => .next (if st = 4 then s.endStack k.id 4 fc 0 else s)
          | .wait => .next s
          | .ok arg s =>
            let scr := memWriteAll (memWriteAll [] (leCells 0 n init)) (leCells (16 * h.argoff) m arg)
            let t := newTask grid i (fld k.header 296 8) (s.stackNow sc) (.ofNat 32 h.entry) scr
            let s := s.setGrid { k with tasks := k.tasks ++ [i], next := k.next + 1, wait := none }
            let c := s.stk sc
            .next (s.setStk sc { c with task := some t, served := put c.served k.p.pri (some (k.ctx, k.q)) })

/-- No task of a kernel is left or still to start, and its writes are applied. -/
def State.stackOver (s : State) (k : Grid) : Bool :=
  (k.ending.isSome || k.p.teams ≤ k.tasks.length) &&
    s.stackCores.toList.all fun c => c.left.all (·.1 != k.id) && (c.task.map fun (t : Task) => t.grid != k.id).getD true && c.saved.all fun (t : Task) => t.grid != k.id

/-- STACK_KERNEL_END (13 R285). -/
def execStackKernelEnd (grid : Nat) (s : State) : Out :=
  match s.grid? grid with
  | none => .next s
  | some k =>
    if !k.stack || !s.stackOver k then .next s
    else
      let (st, fc) := k.ending.getD (1, 0)
      match s.putRecord (5000 + k.die) k.die k.ctx k.p.hdl ⟨st, fc, dispProd k.die, k.gridid.toNat, k.good, k.ffa⟩ with
      | none => .next s
      | some s => .next ((s.dropGrid k).engineDone (pktId k.ctx k.q k.seqno))

/-- STACK_PREEMPT: the dispatcher asks a task to yield; one at a row boundary or in a wait is taken at once. -/
def execStackPreempt (sc : Nat) (s : State) : Out :=
  match s.task? sc with
  | none => .next s
  | some t =>
    if t.fin.isSome then .next s
    else
      let s := s.setTask sc { t with preempt := t.preempt.or (some (s.stackNow sc)) }
      .next (if t.yields then s.takeTask sc else s)

/-- STACK_PREEMPT_TIMEOUT: a task not taken within 1 ms ends its kernel; the clock of its die looks too. -/
def execStackPreemptTimeout (sc : Nat) (s : State) : Out := .next (s.endLate sc)

/-- STACK_RESTORE: a free stack core takes back its saved task of the highest priority. -/
def execStackRestore (sc : Nat) (s : State) : Out :=
  let c := s.stk sc
  let pri (t : Task) : Nat := ((s.grid? t.grid).map fun k => k.p.pri).getD 0
  if c.task.isSome || (s.die (dieOfStack sc)).phase != .run then .next s
  else match c.saved.find? fun t => c.saved.all fun u => pri u ≤ pri t with
    | none => .next s
    | some t => .next (s.setStk sc { c with task := some { t with nextIssue := s.stackNow sc }, saved := c.saved.erase t })

/-! ### Refresh and repair (13 R308, R309) -/

/-- REFRESH_INTERVAL: one more refresh is owed, at most 8; with no row operation in progress it is performed at the boundary that stands. -/
def execRefreshInterval (ch : Nat) (s : State) : Out :=
  let c := s.chan ch
  .next ((s.setChan ch { c with debt := min 8 (c.debt + 1) }).refreshIdle ch)

/-- REFRESH: at a boundary the controller performs all it owes. -/
def execRefresh (ch : Nat) (s : State) : Out :=
  let c := s.chan ch
  .next (s.setChan ch { c with debt := 0 })

/-- LANE_REPAIR: the channel stops taking accesses, and resumes; every access of the model is whole within a step, so none is in
flight when it stops. -/
def execLaneRepair (ch : Nat) (phase : Repair) (s : State) : Out :=
  let c := s.chan ch
  .next (s.setChan ch { c with repair := decide (phase = .stop) })

end Sys2Proof.Machine
end

