-- ==== Sys2Proof/Machine/GroupEvents.lean ====
section
/-! DEFINITION. GroupEvents.lean: events of groups: ends of sleeps, rotation, trap and fault records, pre-emption, restoring, gang
aborts, the hidden register tier (02 R42, 03 R55, R63-R66, 06 R144, R145, 12 R268, R271, 14 R311-R317, R327). -/

namespace Sys2Proof.Machine

open Sys2Proof

/-- SLEEP_END: sleeping lanes whose cycles are over become ready behind their SLEEP (14 R327). -/
def execSleepEnd (gid : Nat) (s : State) : Out :=
  match s.grp? gid with
  | none => .next s
  | some g =>
    if g.res != .resident then .next s
    else
      let woke (l : Nat) : Option W32 := match nth g.lanes l with
        | .waiting (.sleep t nx _) => if t ≤ s.now g then some nx else none
        | _ => none
      .next (s.setGrp { g with
        lanes := mkLanes fun l => if (woke l).isSome then .ready else nth g.lanes l,
        pcv := mkLanes fun l => (woke l).getD (nth g.pcv l),
        woken := g.woken ||| maskOf fun l => (woke l).isSome })

/-- ROTATION_REQUEST: the fairness counter has reached 2^exp (03 R55). -/
def execRotationRequest (gid : Nat) (s : State) : Out :=
  match s.grp? gid with
  | none => .next s
  | some g =>
    let up := match g.issueAddr with
      | some a => g.above a != 0
      | none => false
    if g.res != .resident || g.rot.isSome || g.fair < 2 ^ g.friv || !up then .next s else .next (s.setGrp { g with rotReq := true })

/-! ### Traps and their records (14 R311, R314, R315) -/

/-- The trap of a saved group is delivered: its TRAPC goes into its image (14 R311, R313); none where the pool's home cannot answer yet. -/
def State.deliverSaved (s : State) (g : Group) : Option State :=
  match g.trapDue, g.img with
  | some t, some (off, _) =>
    (s.devPa (s.grpCtx g) ((s.desc (s.grpCtx g)).savebase + off + 0x18) 1).bind fun pa =>
      (s.directWrite 6000 0 pa 8 t.trapc.toNat).map fun s => s.putTrap g t
  | some t, none => some (s.putTrap g t)
  | none, _ => some s

/-- TRAP_DELIVER: the results of a trapped group have committed, or were when it was saved. -/
def execTrapDeliver (gid : Nat) (s : State) : Out :=
  match s.grp? gid with
  | none => .next s
  | some g =>
    if g.res == .saved then .next ((s.deliverSaved g).getD s)
    else if g.res != .resident then .next s
    else .next ((s.setGrp (g.flush (s.now g))).deliverTrap gid)

/-- The header of a trap or fault queue: its physical address, wr and rd. -/
def State.recHdr (s : State) (ctx base : Nat) : Option (Nat × Nat × Nat) :=
  (s.devPa ctx base 1).map fun pa => let w := s.homeRead pa 16; (pa, fld w 0 64, fld w 64 64)

/-- Writes a record of n bytes into a queue of 2^lsz, then advances wr; none while the queue is full or a home cannot answer. -/
def State.putRec (s : State) (ctx base lsz n v : Nat) : Option State :=
  (s.recHdr ctx base).bind fun (hp, wr, rd) =>
    if 2 ^ lsz ≤ (wr + 2 ^ 64 - rd) % 2 ^ 64 then none
    else (s.devPa ctx (base + 64 + n * (wr % 2 ^ lsz)) 1).bind fun pa =>
      (s.directWrite 6000 0 pa n v).bind fun s => s.directWrite 6000 0 hp 8 (wr + 1)

/-- An interrupt message of a vector (15 R345). -/
def State.signal (s : State) (vec : Nat) : State := { s with md := { s.md with msix := put s.md.msix vec (nth s.md.msix vec + 1) } }

/-- The sequence number after one: 32 bits, and never 0 (14 R314, 17 R370). -/
def nextSeq (n : Nat) : Nat := if (n + 1) % 2 ^ 32 = 0 then 1 else n + 1

/-- A trap record's number goes into its third word (14 R314). -/
def TrapRec.numbered (t : TrapRec) (seq : Nat) : TrapRec := { t with seq := some seq, words := t.words.set 2 (.ofNat 64 (seq % 2 ^ 32)) }

/-- TRAP_RECORD_WRITE: the oldest trap record of a context that is not yet written goes into its queue. -/
def execTrapRecordWrite (ctx : Nat) (s : State) : Out :=
  let s := s.checkDesc ctx
  let d := s.desc ctx
  let c := s.ctxD ctx
  match c.traps.findIdx? (·.seq.isNone) with
  | none => .next s
  | some i => match c.traps[i]? with
    | none => .next s
    | some t =>
      if !d.wellFormed then .next s
      else
        let t := t.numbered c.trapSeq
        match s.putRec ctx d.tqbase d.tqlsz 64 (ofWords t.words) with
        | none => .next s
        | some s =>
          let c := s.ctxD ctx
          let s := s.setCtx { c with traps := c.traps.set i t, trapSeq := nextSeq c.trapSeq }
          .next ((s.modGrp t.grp fun g => { g with trap := g.trap.map fun (x : TrapSt) => { x with seq := t.seq } }).signal 1)

/-- A fault record as a number (06 R144). -/
def FaultRec.word (f : FaultRec) (seq : Nat) : Nat :=
  2 ^ 35 * (f.acc % 4) + 2 ^ 37 * (f.cause % 16) + 2 ^ 41 * (f.die % 4) + 2 ^ 43 * (f.quad % 4) + 2 ^ 45 * (f.core % 16) +
    2 ^ 49 * (f.slot % 128) + 2 ^ 56 * (f.lanes % 256) + 2 ^ 64 * f.grid.toNat + 2 ^ 128 * (seq % 2 ^ 32) + 2 ^ 160 * f.pc.toNat + 2 ^ 192 * f.va.toNat

/-- FAULT_RECORD_WRITE: the oldest fault record of a context that is not yet written. -/
def execFaultRecordWrite (ctx : Nat) (s : State) : Out :=
  let s := s.checkDesc ctx
  let d := s.desc ctx
  let c := s.ctxD ctx
  match c.faults.find? (·.seq.isNone) with
  | none => .next s
  | some f =>
    if !d.wellFormed then .next s
    else match s.putRec ctx d.fqbase d.fqlsz 32 (f.word c.faultSeq) with
      | none => .next s
      | some s =>
        let c := s.ctxD ctx
        .next ((s.setCtx { c with faults := c.faults.map fun (x : FaultRec) => if x.uid = f.uid then { x with seq := some c.faultSeq } else x,
                                  faultSeq := nextSeq c.faultSeq }).signal 0)

/-! ### Resolution of fault records (06 R145, 10 R224, 11 R259, 12 R261, 13 R306, 14 R317) -/

/-- A record is resolved: what waits for it goes on. -/
def State.dropFault (s : State) (ctx uid : Nat) : State :=
  let c := s.ctxD ctx
  s.setCtx { c with faults := c.faults.filter (·.uid != uid) }

/-- A lane waits on a record. -/
def waitsOn (uid : Nat) : Lane → Bool
  | .waiting (.fault r) => r == uid
  | .waiting (.joint rs _) => rs.contains uid
  | _ => false

/-- A refused record of a group: its lanes stop waiting and the group takes PROT with the record's address (06 R145), after the traps it has taken
already. -/
def State.refuseGroup (s : State) (f : FaultRec) : State :=
  match s.grp? f.grp with
  | none => s
  | some g =>
    if g.res == .draining then s
    else
      let m := maskOf fun l => waitsOn f.uid (nth g.lanes l)
      let t : TrapSt := { cause := Cause.prot, pc := f.pc, code := 0, lane := (lowest m).getD 0xFF, lanes := m, va := f.va, after := false, size := 8,
                          delivered := false, seq := none }
      (s.setGrp { g with lanes := mkLanes fun l => if m.getLsbD l then .ready else nth g.lanes l, woken := g.woken ||| m }).raiseTrap g.id t

/-- A record is refused, with what that means for each kind of waiter. -/
def State.refuseFault (s : State) (ctx : Nat) (f : FaultRec) : State :=
  let done := fun (s : State) => s.dropFault ctx f.uid
  match f.who with
  | 0 => done (s.refuseGroup f)
  | 1 =>
    let stop (e : CopyEng) : CopyEng := { e with jobs := e.jobs.map fun (j : Job) => if j.uid = f.grp && j.wait = some f.uid then j.stop 3 f.cause f.va else j }
    done { s with copyEngs := vmap stop s.copyEngs }
  | 2 => match (s.engines.toList.flatMap (·.table)).find? fun r => r.uid == f.grp && r.wait == some f.uid && !r.done with
    | some r => done (s.reqFail r 3 f.cause f.va)
    | none => done s
  | 3 =>
    let c := s.ctxD ctx
    done (s.setCtx { c with held := c.held.map fun h => if h.2.1 = f.uid then (h.1, h.2.1, some (f.cause, f.va)) else h })
  | 4 =>
    let hit (t : Task) : Bool := match t.wait with
      | .fault rs => rs.contains f.uid
      | _ => false
    let s := done s
    let c := s.stk f.grp
    match (c.task.toList ++ c.saved).find? hit with
    | some t => s.trapTask t f.grp Cause.prot f.low f.mask f.va
    | none => s
  | _ => match s.grid? f.grp with
    | none => done s
    | some k =>
      if k.hdr.isEmpty then
        let s := { s with grids := s.grids.filter (·.id != k.id) }
        done (match k.remote with
          | some link => s.sendPeer link 2 k.pkt
          | none => s)
      else done (s.finishGrid k.id 3 f.cause f.va)

/-- The walk of a record's address as firmware makes it again; a copy engine may write LPDDR-6 units in fill state. -/
def State.rewalk (s : State) (ctx : Nat) (f : FaultRec) : Walk :=
  let w := s.walk ctx f.va.toNat
  let k := match w with
    | .ok base _ e => if f.who = 1 && tierOf (pteFrame e + (f.va.toNat - base)) == .lp then 0 else f.acc
    | .fail .. => f.acc
  s.permit w f.va.toNat k

/-- FIRMWARE_FAULT_CHECK: the controller walks a new record's address again and resolves it where access is now permitted; one
beyond a peer link that is down it refuses (14 R317, 15 R347). -/
def execFirmwareFaultCheck (ctx seq : Nat) (s : State) : Out :=
  let c := s.ctxD ctx
  match c.faults.find? fun f => f.seq == some seq && !f.checked with
  | none => .next s
  | some f =>
    let down := match s.walk ctx f.va.toNat with
      | .ok base _ e => s.peerDown (pteFrame e + (f.va.toNat - base))
      | .fail .. => false
    match s.rewalk ctx f with
    | .ok .. => .next (s.dropFault ctx f.uid)
    | .fail .. =>
      if down then .next (s.refuseFault ctx f)
      else .next (s.setCtx { c with faults := c.faults.map fun (x : FaultRec) => if x.uid = f.uid then { x with checked := true } else x })

/-! ### Pre-emption (03 R63-R65, 12 R268) -/

/-- A resident group that is not asked yet, of a team for whose images the pool has room, with its grid and priority (14 R330). -/
def State.askable (s : State) (g : Group) : Option (Grid × State) :=
  if g.res != .resident || g.preempt.isSome then none
  else match s.grpTeam? g, s.grpGrid? g with
    | some t, some k => (s.reserveTeam t).map fun s => (k, s)
    | _, _ => none

/-- PREEMPT_REQUEST: while a packet of a higher priority finds no place for its next team, the dispatcher asks a group to yield, of the youngest
grid first; the pool has room for its team's images (12 R268, 14 R330). -/
def execPreemptRequest (gid : Nat) (s : State) : Out :=
  match s.grp? gid with
  | none => .next s
  | some g => match s.askable g with
    | none => .next s
    | some (k, s') =>
      let younger (p : Nat) : Bool := s.groups.any fun x => match s.askable x with
        | some (y, _) => k.id < y.id && y.p.pri < p
        | none => false
      if !((List.range 4).any fun p => k.p.pri < p && s.starved p && !younger p) then .next s
      else .next (s'.modGrp gid fun g => s'.parkLanes { g with preempt := some (s'.now g) })

/-- A group counts as taken: trapped, or no lane of it ready (03 R63, 14 R311). -/
def Group.taken (g : Group) : Bool := (g.trap.map (·.delivered)).getD (g.readyMask == 0)

/-- PREEMPT_TAKE: a group under a request is saved, the bytes of its locks' ranges being written back first; the team's last group waits for the
records of the team's matrix requests. -/
def execPreemptTake (gid : Nat) (s0 : State) : Out :=
  match s0.grp? gid with
  | none => .next s0
  | some g0 =>
    let g := s0.parkLanes (s0.wakeLanes (g0.flush (s0.now g0)))
    let last := (s0.liveGroups g.team).all fun x => x.id == gid || x.res == .saved
    if g0.res != .resident || g.preempt.isNone || !g.taken || (last && s0.hasRequests g.team) then .next s0
    else if !s0.rangesClean g (s0.heldAll g) then .next (s0.cleanRanges g (s0.heldAll g))
    else match (s0.setGrp g).saveGroup gid with
      | none => .next s0
      | some s =>
        if !last then .next s
        else match s.team? g.team with
          | some t => .next ((s.saveTeam t).getD s0)
          | none => .next s

/-- PREEMPT_WITHDRAW: parked lanes become ready (03 R63); a die in warm reset withdraws nothing. -/
def execPreemptWithdraw (gid : Nat) (s : State) : Out :=
  match s.grp? gid with
  | none => .next s
  | some g =>
    if g.res != .resident || g.preempt.isNone || (s.die g.die).phase != .run then .next s
    else
      let lane (l : Nat) : Lane := if nth g.lanes l == .parked && !g.gangAbort then .ready else nth g.lanes l
      .next ((s.setGrp { g with preempt := none, lanes := mkLanes lane }).releasePool g.team)

/-- A record that takes no resolution: its TRAPC names no instruction, so pc and lanes are free values (14 R310). -/
def State.noteTrap (s : State) (g : Group) (cause : Nat) : State :=
  let (x, s) := s.draw
  let (m, s) := s.draw
  let t : TrapSt := { cause, pc := .ofNat 32 x, code := 0, lane := 0xFF, lanes := .ofNat 128 m, va := 0, after := false, size := 8,
                      delivered := true, seq := none }
  let c := s.ctxD (s.grpCtx g)
  s.setCtx { c with traps := c.traps ++
    [{ grp := g.id, seq := none, words := trapWords g (s.gridId g) t, cause, stack := false, resolved := true, saved := false }] }

/-- A group asked to yield and not taken: lanes that go on, or results outstanding (03 R63). -/
def State.untaken (s : State) (x : Group) : Bool :=
  let g := s.parkLanes (s.wakeLanes (x.flush (s.now x)))
  x.res == .resident && x.preempt.isSome && !(g.taken && g.pend.isEmpty)

/-- A group not taken within 1 ms ends its grid; each group asked and not taken has a record (03 R65). -/
def State.endUntaken (s : State) (gid : Nat) : State :=
  match s.grp? gid with
  | none => s
  | some g => match g.preempt, s.grpGrid? g with
    | some t, some k =>
      if s.now g ≤ t + 1050000 || !s.untaken g then s
      else
        let late := s.groups.filter fun x => s.untaken x && (s.grpGrid? x).map (·.id) == some k.id
        (late.foldl (fun s x => s.noteTrap x Cause.preemptTimeout) s).endGrid k.id 7 0 0
    | _, _ => s

/-- PREEMPTTIMEOUT (03 R65); the clock of the die looks too. -/
def execPreemptTimeout (gid : Nat) (s : State) : Out := .next (s.endUntaken gid)

/-- A group that TRAPACT save keeps: it stays saved until the driver resolves its trap (14 R312). -/
def State.trapSaved (s : State) (g : Group) : Bool := (s.ctxD (s.grpCtx g)).traps.any fun t => t.grp == g.id && t.saved && !t.resolved

/-- RESTORE: a saved group takes a slot; the first of a saved team places the teams of its cluster on an arc (03 R66, 12 R268, 14 R331). A group that
was trapped when it was taken is restored trapped; one that TRAPACT saved waits for the driver (14 R312). Nothing is restored on a die in warm reset
(15 R349). -/
def execRestore (gid core slot : Nat) (s : State) : Out :=
  match s.grp? gid with
  | none => .next s
  | some g => match s.grpTeam? g, s.grpGrid? g with
    | some t, some k =>
      if g.res != .saved || g.trapDue.isSome || s.trapSaved g || k.ending.isSome || !(s.freeSlots core).contains slot || (s.die (core / 48)).phase != .run then .next s
      else if t.saved then .next (((s.placeCluster k (s.clusterAt t core)).bind fun s => s.restoreGroup g core slot).getD s)
      else if t.core != core then .next s
      else .next ((s.restoreGroup g core slot).getD s)
    | _, _ => .next s

/-- GANGABORT: a group of an aborted gang ends at its safe points, with a record (12 R271, 14 R310). -/
def execGangAbort (gid : Nat) (s : State) : Out :=
  match s.grp? gid with
  | none => .next s
  | some g0 =>
    let g := s.parkLanes (g0.flush (s.now g0))
    if !g.gangAbort || g.res == .draining || (g.res == .resident && (!g.taken || !g.pend.isEmpty)) then .next s
    else .next (((s.setGrp g).noteTrap g Cause.gangAbort).endGroup gid false)

/-! ### The hidden register tier (02 R42) -/

/-- HIDDEN_MOVE_OUT: a group stalled for more than 2048 cycles; or, while another group of the core finds too few granules free, the one
longest without issuing of the others. -/
def execHiddenMoveOut (gid : Nat) (s : State) : Out :=
  match s.grp? gid with
  | none => .next s
  | some g =>
    let here := s.groups.filter fun x => x.core == g.core && x.res == .resident
    let stalled := g.lastIssue + 2048 < s.now g && g.pend.isEmpty
    let oldest (r : Group) : Bool := here.all fun x => x.hidden || x.id == r.id || g.lastIssue ≤ x.lastIssue
    let pressed := here.any fun r => r.id != g.id && r.room != 0 && 8192 < s.granulesUsed g.core + r.room && oldest r
    if g.res != .resident || g.hidden || !(stalled || pressed) then .next s
    else .next ((s.setGrp { g with hidden := true }).bumpCore g.core 0x03 1)

/-- HIDDEN_RECALL: the registers come back before the group next issues, once there is room for them. -/
def execHiddenRecall (gid : Nat) (s : State) : Out :=
  match s.grp? gid with
  | none => .next s
  | some g =>
    if g.res != .resident || !g.hidden then .next s
    else if 8192 < s.granulesUsed g.core + g.granules then .next (s.setGrp { g with room := g.granules })
    else .next ((s.setGrp { g with hidden := false, room := 0 }).bumpCore g.core 0x03 1)

end Sys2Proof.Machine
end

