-- ==== Sys2Proof/Machine/Clock.lean ====
section
/-! DEFINITION. Clock.lean: one cycle of a die (00 R1, 03 R55, 11 R245, 15 R353). -/

namespace Sys2Proof.Machine

open Sys2Proof

/-- The fairness counter over one cycle. -/
def Group.countFair (g : Group) : Group :=
  if g.rot.isSome then g
  else match g.issueAddr with
    | none => { g with fair := 0 }
    | some a => if g.above a = 0 then { g with fair := 0 } else { g with fair := g.fair + 1 }

/-- An engine whose array is idle, streaming nothing, while every MMA of its table, nothing else keeping it from acceptance, waits only for a set that an MWLD loads
(11 R245). -/
def State.wlate (s : State) (e : Nat) : Bool :=
  let ms := (s.eng e).table.filter fun r => Instr.isMma r.instr && !r.done
  let held (m : MReq) : List MReq :=
    s.engines.toList.flatMap fun x => x.table.filter fun a => a.team == m.team && a.uid < m.uid && !a.done && a.inTable && s.dependsOn m a
  (s.eng e).stream == 0 && !ms.isEmpty && ms.all fun m => m.passes == 0 && (s.accept m).isSome && !(held m).isEmpty && (held m).all fun x => Instr.isMwld x.instr

/-- A head of the die's apply queues whose stamp is not met (08 R174). -/
def State.headWaits (s : State) (d : Nat) : Bool :=
  (s.die d).applyq.toList.any fun q => (q.head?.map fun r => !stampOk (s.die d).dep d r).getD false

/-- The flits that a die sends in one cycle: a free number, drawn where a counter counts them, since the manual gives no message's length in flits
(log 23). -/
def State.flits (s : State) (d : Nat) : Nat × State := if (s.die d).ctrs.any (·.src == 0x23) then s.draw else (0, s)

/-- Some of a quadrant's arrays stream. -/
def State.streaming (s : State) (q : Nat) : Bool := (List.range 3).any fun j => (s.eng (3 * q + j)).stream != 0

/-- The event counters of a die, its quadrants and its cores over one cycle. -/
def State.countCycle (s : State) (d : Nat) : State :=
  let (n, s) := s.flits d
  let x := s.die d
  let waiting := s.headWaits d
  let die (c : Ctr) : Ctr :=
    State.bumpCtr 0x01 1 (State.bumpCtr 0x22 waiting.toNat (State.bumpCtr 0x23 n (State.bumpCtr 0x24 x.throttled.toNat c)))
  let s := s.setDie d { x with ctrs := vmap die x.ctrs }
  let late (q : Nat) : Nat := ((List.range 3).filter fun j => s.wlate (3 * q + j)).length
  { s with
    quads := Vector.ofFn fun i : Fin 16 =>
      let q := s.quads[i]
      if i.val / 4 = d && q.ctrs.any (·.src != 0) then
        { q with ctrs := vmap (fun c => State.bumpCtr 0x01 1 (State.bumpCtr 0x13 (late i.val) (State.bumpCtr 0x14 (s.streaming i.val).toNat c))) q.ctrs }
      else q,
    engines := Vector.ofFn fun i : Fin 48 =>
      let e := s.engines[i]
      if i.val / 12 = d && e.stream != 0 then { e with stream := e.stream - 1 } else e,
    cores := Vector.ofFn fun i : Fin 192 =>
      let c := s.cores[i]
      if i.val / 48 = d && c.ctrs.any (·.src != 0) then { c with ctrs := vmap (State.bumpCtr 0x01 1) c.ctrs } else c }

/-- MODPWR reads what the blocks draw, averaged: a free value in each cycle of die 0 (15 R343, R352, log 15). -/
def State.measure (s : State) : State :=
  { s with free := s.free + 1, md := { s.md with modpwr := .ofNat 64 (Config.modulePower s.free % 65536) } }

/-- One cycle of a die: the fronts of its spirals accept what the ending cycle still owes (07 R156); CYCLE, the fairness counters of its groups,
the accesses in its spirals, the event counters; budgets and releases at the banks (19 R375, 09 R206); pre-emptions whose 1 ms is over (03 R65, 13 R286);
every 1024 cycles the words that its stack cores wait for (13 R294). -/
def State.tick (s : State) (d : Nat) : State :=
  let s := [4 * d, 4 * d + 1, 4 * d + 2, 4 * d + 3].foldl State.acceptPromos s
  let x := s.die d
  let t := x.cycle + 1
  let s := s.setDie d { x with cycle := t }
  let s := if d = 0 then s.measure else s
  let count (g : Group) : Group := if g.res == .resident && g.die == d then g.countFair else g
  let quad (q : Nat) (s : State) : State := s.setQuad q ((s.quad q).tick t)
  let s := { s with groups := s.groups.map count }
  let s := (quad (4 * d + 3) (quad (4 * d + 2) (quad (4 * d + 1) (quad (4 * d) s)))).countCycle d
  let s := s.rebank fun x => x.core / 48 == d && x.bankq.any (·.watched)
  let s := ((s.groups.filter fun g => g.die == d && g.preempt.isSome).map (·.id)).foldl State.endUntaken s
  let s := (List.range 64).foldl (fun s i => if ((s.stk (64 * d + i)).task.bind (·.preempt)).isSome then s.endLate (64 * d + i) else s) s
  if t % 1024 = 0 then (List.range 64).foldl (fun s i => s.recheckEv (64 * d + i)) s else s

end Sys2Proof.Machine
end

