-- ==== Sys2Proof/Machine/System.lean ====
section
/-! DEFINITION. System.lean: TRAP, BKPT, SREAD, SWRITE, PMRD and SLEEP (02 R43, 03 R58, 14 R324-R328, R338, R339). -/

namespace Sys2Proof.Machine

open Sys2Proof

/-- A trap that the instruction itself raises, after = 1 (14 R328). -/
def trapNow (i : Instr) (cause : Nat) (code : Byte) (s : State) : Out :=
  withIssue i s fun c s =>
    let s := (s.setGrp (c.g.issued (s.now c.g) 0)).bumpCore c.g.core 0x02 1
    .next (s.raiseTrap c.g.id (c.trapSt cause c.act 0xFF 0 true code.toNat))

/-- TRAP (14 R328). -/
def execTrap (h : Hdr) (code : Byte) (s : State) : Out := trapNow (.trap h code) Cause.trap code s
/-- BKPT (14 R328). -/
def execBkpt (h : Hdr) (tag : Byte) (s : State) : Out := trapNow (.bkpt h tag) Cause.bkpt tag s

/-- The value of a special register of at most 64 bits (02 R43). -/
def State.special (s : State) (g : Group) (num : Nat) : W64 :=
  let t := s.grpTeam? g
  let of (f : Team → Nat) : W64 := .ofNat 64 ((t.map f).getD 0)
  match num with
  | 0x03 => .ofNat 64 g.gid
  | 0x04 => of (·.teamid)
  | 0x05 => of (·.cluster)
  | 0x06 => of (·.crank)
  | 0x07 => s.gridId g
  | 0x08 => .ofNat 64 g.die
  | 0x09 => .ofNat 64 (g.core / 12 % 4)
  | 0x0A => .ofNat 64 g.friv
  | 0x0B => .ofNat 64 g.sbchk.toNat
  | 0x0C => .ofNat 64 g.spoob.toNat
  | 0x0D => g.spooba
  | 0x0E => .ofNat 64 (s.now g)
  | 0x0F => g.trapc
  | _ => 0

/-- SREAD (14 R324): `kind` 0 scalar, 1 vector, 2 predicate, 3 scalar pair. -/
def execSread (h : Hdr) (d num kind : Nat) (s : State) : Out :=
  withIssue (.sread h d num kind) s fun c s =>
    let g := c.g
    let x := s.special g num
    let wrs : List Wr :=
      if kind = 3 then
        let r := (nth (s.ctxD (s.grpCtx g)).ncw (num % 16)).toNat
        [.sset d (.ofNat 64 r), .sset (d + 1) (.ofNat 64 (r / 2 ^ 64))]
      else if kind = 2 then [.pset d (BitVec.allOnes 128) g.donem]
      else if kind = 0 then [.sset d x]
      else if num = 0 then [.vset d (.gen g.pcv)]
      else if num = 2 then [.vset d (.aff 0 1)]
      else [.vset d (.uni (lo32 x))]
    .next ((s.locked c [] wrs).done c)

/-- SWRITE FRIV (03 R58). -/
def execSwriteFriv (h : Hdr) (a : Nat) (s : State) : Out :=
  withIssue (.swriteFriv h a) s fun c s =>
    let e := (c.g.s a).toNat % 32
    .next ((s.modGrp c.g.id fun g => { g with friv := if e < 8 then 8 else if 20 < e then 20 else e }).done c)

/-- SWRITE SBCHK: bit 0, effective from the next instruction (14 R325). -/
def execSwriteSbchk (h : Hdr) (a : Nat) (s : State) : Out :=
  withIssue (.swriteSbchk h a) s fun c s =>
    .next ((s.modGrp c.g.id fun g => { g with sbchk := (c.g.s a).getLsbD 0 }).done c)

/-- SWRITE SPOOB: any write clears SPOOB and SPOOBA (14 R325). -/
def execSwriteSpoob (h : Hdr) (a : Nat) (s : State) : Out :=
  withIssue (.swriteSpoob h a) s fun c s =>
    .next ((s.modGrp c.g.id fun g => { g with spoob := false, spooba := 0 }).done c)

/-- A window register's value breaks a rule (14 R338). -/
def ncwBad (r : Nat) : Bool := fld r 96 31 != 0 || r % 65536 != 0 || apert (.ofNat 64 r) != .trans

/-- A window line of a context whose virtual address, where the access's group saw it, lies in a register's range. -/
def ncwLine (ctx r : Nat) (l : Line) : Bool := match l.own with
  | some (k, va) => l.cls == 4 && k == ctx && ncwIn (.ofNat 128 r) va
  | none => false

/-- The window lines of a register's range, as runs of physical bytes. -/
def State.windowRuns (s : State) (ctx r : Nat) : List (Nat × Nat) :=
  ((List.range 192).flatMap fun c => ((s.core c).l1.filter (ncwLine ctx r)).map fun l => (l.addr, 128)).eraseDups

/-- They hold nothing dirty, and none of their bytes is on its way home. -/
def State.windowsClean (s : State) (ctx r : Nat) : Bool := s.runsClean (fun _ => true) (s.windowRuns ctx r)

/-- Their dirty bytes set out for their home points (14 R339). -/
def State.cleanWindows (s : State) (ctx r : Nat) : State := s.cleanRuns (fun _ => true) (s.windowRuns ctx r)

/-- The window lines of a register's range, clean by then, are dropped on every core; accesses that still wait for such a line look at the windows anew
(14 R339). -/
def State.dropWindows (s : State) (ctx r : Nat) : State :=
  let late (e : Entry) : Bool := e.stage == .filling && ncwIn (.ofNat 128 r) (lineOf e.va.toNat)
  let s := (List.range 192).foldl (fun s c => ((s.core c).l1.filter (ncwLine ctx r)).foldl (fun s l => s.setCore c ((s.core c).dropLine l.addr)) s) s
  { s with groups := s.groups.map fun (g : Group) =>
      if s.grpCtx g = ctx && g.obq.any late then { g with obq := g.obq.map fun e => if late e then { e with stage := .queued } else e } else g }

/-- A register takes its new value, the window lines of its old range gone. -/
def State.setWindow (s : State) (ctx w r : Nat) : State :=
  let s := s.dropWindows ctx (nth (s.ctxD ctx).ncw w).toNat
  let k := s.ctxD ctx
  s.setCtx { k with ncw := put k.ncw w (.ofNat 128 r) }

/-- SWRITE of an NCW register (14 R325, R338, R339): the dirty bytes of the old range are written back before it takes effect. -/
def execSwriteNcw (h : Hdr) (a w : Nat) (s : State) : Out :=
  withIssue (.swriteNcw h a w) s fun c s =>
    let ctx := s.grpCtx c.g
    let r := (c.g.s a).toNat + 2 ^ 64 * (c.g.s (a + 1)).toNat
    if !bit (s.desc ctx).flags 1 || ncwBad r then .next (s.trapExec c Cause.prot 0xFF 0)
    else if !c.g.obq.all (fun e => s.performedAt c.g e 4) then .next s
    else if !s.windowsClean ctx (nth (s.ctxD ctx).ncw w).toNat then .next (s.cleanWindows ctx (nth (s.ctxD ctx).ncw w).toNat)
    else .next ((s.setWindow ctx w r).done c)

/-- The counter that a selector names (14 R326). -/
def State.pmCtr (s : State) (core sel : Nat) : Ctr :=
  match sel / 64 with
  | 0 => nth (s.core core).ctrs (sel % 8)
  | 1 => nth (s.quad (quadOfCore core)).ctrs (sel % 8)
  | _ => nth (s.die (dieOfCore core)).ctrs (sel % 16)

/-- PMRD (14 R326). -/
def execPmrd (h : Hdr) (d sel : Nat) (s : State) : Out :=
  withIssue (.pmrd h d sel) s fun c s =>
    .next ((s.locked c [] [.sset d (s.pmCtr c.g.core sel).val]).done c)

/-- SLEEP (14 R327): the lanes are ready at t + 1 + n, behind it. -/
def execSleep (h : Hdr) (a : Src) (s : State) : Out :=
  withIssue (.sleep h a) s fun c s =>
    let n := (c.g.opnd true 0 a 0).toNat
    if n = 0 then .next (s.done c)
    else
      let (u, s) := s.fresh
      .next (s.finish c (fun _ => none) (fun _ => some (.sleep (s.now c.g + 1 + n) (nextPc c.a c.size) u)) 8)

end Sys2Proof.Machine
end

