-- ==== Sys2Proof/Machine/Controller.lean ====
section
/-! DEFINITION. Controller.lean: the commands of the control queue (14 R312, R316, R317, R321, R335-R339, 15 R353). -/

namespace Sys2Proof.Machine

open Sys2Proof

/-! ### Taking commands (14 R316) -/

/-- A command. -/
structure Command where
  op    : Nat
  flags : Nat
  ctx   : Nat
  a0    : Nat
  a1    : Nat
  a2    : Nat
  done  : Nat
  /-- A reserved field is set. -/
  bad   : Bool

def Command.of (w : Nat) : Command :=
  { op := fld w 0 8, flags := fld w 8 8, ctx := fld w 32 16, a0 := fld w 256 64, a1 := fld w 320 64, a2 := fld w 384 64, done := fld w 448 64,
    bad := fld w 10 6 != 0 || fld w 16 16 != 0 || fld w 48 208 != 0 }

/-- Bit 8 and bit 9 of a command. -/
def Command.flag8 (c : Command) : Bool := bit c.flags 0
def Command.flag9 (c : Command) : Bool := bit c.flags 1

/-- RESOLVE, TRAPACT, SHOOT and NCWSET name a context. -/
def Command.named (c : Command) : Bool := c.op == 1 || c.op == 2 || c.op == 3 || c.op == 8

/-- A command waits behind an earlier one: on one context, of two SHOOTs, of two PMCFGs. -/
def Command.behind (c x : Command) : Bool := (c.named && x.named && c.ctx == x.ctx) || (c.op == x.op && (c.op == 3 || c.op == 7))

/-- A command waits for a SHOOT in progress. -/
def State.behindShoot (s : State) (c : Command) : Bool := s.md.shoots.any fun x => c.op == 3 || (c.named && c.ctx == x.ctx)

/-- The completion word, written as a release, and vector 2; over a link that is down it is lost with an error record. Only copy engines write the
LPDDR-6 tier (01 R18): a word that the driver places there is not written (DESIGN CHOICE, log 109). None where the home cannot answer yet. -/
def State.writeDone (s : State) (done code : Nat) : Option State :=
  (if done = 0 || tierOf done == .lp then some s
   else if s.peerDown done then some (s.errorRec done 0 0 7 0 3)
   else s.directWrite 6000 0 done 8 code).map (·.signal 2)

/-- The head of the control queue: the address of its slot, its header's address, rd, and the command. It is taken with an acquire at `.sys`: external
writes accepted so far are applied (17 R371). A queue that the driver places in the LPDDR-6 tier, which the controller may not write, is not served (DESIGN
CHOICE, log 109). -/
def State.ctlHead? (s : State) : Option (Nat × Nat × Nat × Nat) :=
  let hp := s.md.ctlq.toNat
  let h := s.homeRead hp 32
  let base := fld h 0 64
  let wr := fld h 64 64
  let rd := fld h 128 64
  let lsz := fld h 192 8
  let pa := base + 64 * (rd % 2 ^ lsz)
  if lsz < 6 || 16 < lsz || wr == rd || !s.extQuiet || tierOf hp == .lp || tierOf pa == .lp then none
  else
    let w := s.homeRead pa 64
    if fld w 0 8 = 0 then none else some (pa, hp, rd, w)

/-- The slot is free and rd advances. -/
def State.takeCmd (s : State) (pa hp rd : Nat) : Option State :=
  (s.directWrite 6000 0 pa 1 0).bind fun s => s.directWrite 6000 0 (hp + 16) 8 ((rd + 1) % 2 ^ 64)

/-- A command that can be performed now: 0x04 for a reserved field or a context that does not exist, else its own effect. An answer
without a code completes later; none waits. -/
def State.perform1 (s : State) (c : Command) (body : Command → State → Option (State × Option Nat)) : Option State :=
  if s.behindShoot c then none
  else
    let r := if c.bad || (c.named && s.md.ctxcnt.toNat ≤ c.ctx) then some (s, some 4) else body c s
    r.bind fun (s, code) => match code with
      | some x => s.writeDone c.done x
      | none => some s

/-- The first of the commands that wait which can be performed now. -/
def tryHeld (mine : Command → Bool) (go : Nat → Option State) : List Nat → List Nat → Option State
  | _, [] => none
  | seen, w :: rest =>
    let c := Command.of w
    let r := if mine c && !(seen.any fun x => c.behind (Command.of x)) then go w else none
    r.or (tryHeld mine go (seen ++ [w]) rest)

/-- Performs a command of one kind: one that waits, or else the head of the queue, which is taken to wait where it cannot be
performed yet; `prep` sets out what the commands that wait need. -/
def withCmd (mine : Command → Bool) (s : State) (body : Command → State → Option (State × Option Nat))
    (prep : Command → State → State := fun _ s => s) : Out :=
  let s := ((s.md.held.map Command.of).filter mine).foldl (fun s c => prep c s) s
  let go (w : Nat) : Option State := { s with md := { s.md with held := s.md.held.erase w } }.perform1 (Command.of w) body
  match tryHeld mine go [] s.md.held with
  | some s => .next s
  | none =>
    match s.ctlHead? with
    | none => .next s
    | some (pa, hp, rd, w) =>
      let c := Command.of w
      if !mine c then .next s
      else if !populated pa then .fault (.unpopulated pa)
      else if c.done != 0 && !populated c.done then .fault (.unpopulated c.done)
      else
        match s.takeCmd pa hp rd with
        | none => .next s
        | some s1 =>
          let now := if s.md.held.any fun x => c.behind (Command.of x) then none else s1.perform1 c body
          .next (now.getD (prep c { s1 with md := { s1.md with held := s1.md.held ++ [w] } }))

/-! ### RESOLVE (14 R317) -/

/-- A refusal that R317 forces: a store to the LPDDR-6 tier, a store or atomic to an R page. -/
def State.forced (s : State) (ctx : Nat) (f : FaultRec) : Bool :=
  match s.walk ctx f.va.toNat with
  | .ok base _ e => f.acc != 0 && ((tierOf (pteFrame e + (f.va.toNat - base)) == .lp && f.who != 1) || pteClass e == 1)
  | .fail .. => false

/-- Resolves the record named, or with the page flag all written records of its page. -/
def resolveCmd (refuse : Bool) (c : Command) (s : State) : Option (State × Option Nat) :=
  let open' := (s.ctxD c.ctx).faults.filter (·.seq.isSome)
  match open'.find? (·.seq == some c.a0) with
  | none => some (s, some 4)
  | some f =>
    let fs := if c.flag9 then open'.filter fun x => x.page == f.page && x.psize == f.psize else [f]
    some (fs.foldl (fun s x => if refuse || s.forced c.ctx x then s.refuseFault c.ctx x else s.dropFault c.ctx x.uid) s, some 1)

/-- RESOLVE: the lanes of the records replay. -/
def execResolve (s : State) : Out := withCmd (fun c => c.op == 1 && !c.flag8) s (resolveCmd false)
/-- RESOLVE with the refuse flag. -/
def execResolveRefuse (s : State) : Out := withCmd (fun c => c.op == 1 && c.flag8) s (resolveCmd true)

/-! ### TRAPACT (14 R312) -/

/-- The group of a trap record that takes resolutions, and its trap. -/
def State.trapNamed (s : State) (c : Command) : Option (TrapRec × Group × TrapSt) :=
  match (s.ctxD c.ctx).traps.find? fun t => t.seq == some c.a0 && !t.resolved with
  | none => none
  | some t => match s.grp? t.grp with
    | none => none
    | some g => g.trap.bind fun x => if x.delivered && x.seq == t.seq then some (t, g, x) else none

def State.modTrap (s : State) (ctx : Nat) (seq : Option Nat) (f : TrapRec → TrapRec) : State :=
  let c := s.ctxD ctx
  s.setCtx { c with traps := c.traps.map fun (t : TrapRec) => if t.seq = seq then f t else t }

/-- The trap is over: the group issues again, unless its next trap follows; with `step` the record's lanes move on. A saved group's do so once
restored. -/
def State.endTrap (s : State) (ctx : Nat) (g : Group) (x : TrapSt) (step : Bool) : State :=
  let nx := nextPc x.pc x.size
  let go (l : Nat) : Bool := step && x.lanes.getLsbD l && nth g.pcv l == x.pc && !(nth g.lanes l).isExited
  let g := { g with trap := none }
  let g := if g.res == .saved then (if step then { g with adv := g.adv ++ [(x.lanes, nx)] } else g)
    else { g with pcv := mkLanes fun l => if go l then nx else nth g.pcv l }
  ((s.setGrp g).modTrap ctx x.seq fun t => { t with resolved := true }).nextTrap g.id

/-- One action of TRAPACT; a backing-area error accepts only the end. -/
def trapact (action : Nat) (s : State) (body : Command → Group → TrapSt → State → Option (State × Option Nat))
    (prep : Command → State → State := fun _ s => s) : Out :=
  withCmd (fun c => c.op == 2 && c.a1 % 4 == action) s (fun c s =>
    match s.trapNamed c with
    | none => some (s, some 4)
    | some (_, g, x) =>
      if 4 ≤ c.a1 || (x.cause = Cause.memerr && x.lanes = 0 && action != 2) then some (s, some 4) else body c g x s) prep

/-- TRAPACT resume. -/
def execTrapactResume (s : State) : Out := trapact 0 s fun c g x s => some (s.endTrap c.ctx g x x.after, some 1)
/-- TRAPACT retry. -/
def execTrapactRetry (s : State) : Out := trapact 1 s fun c g x s => some (s.endTrap c.ctx g x false, some 1)
/-- TRAPACT end. -/
def execTrapactEnd (s : State) : Out := trapact 2 s fun c g x s =>
  let s := s.modTrap c.ctx x.seq fun t => { t with resolved := true }
  match s.grpGrid? g with
  | some k => some (s.endGrid k.id 9 x.cause 0, some 1)
  | none => some (s, some 1)
/-- TRAPACT save: the group stays trapped; one already saved, or without room in the pool, is refused. The dirty bytes of its locks' ranges go home
first (09 R206). -/
def execTrapactSave (s : State) : Out :=
  trapact 3 s
    (fun c g x s =>
      if g.res != .resident || (s.reserveGroup g.id).isNone then some (s, some 4)
      else (s.saveGroup g.id).map fun s => (s.modTrap c.ctx x.seq fun t => { t with saved := true }, some 1))
    fun c s => match s.trapNamed c with
      | some (_, g, _) => s.cleanRanges g (s.heldAll g)
      | none => s

/-! ### SHOOT (14 R321, R322) -/

/-- n bytes from a lie in part in a range. -/
def crosses (base len a n : Nat) : Bool := a < base + len && base < a + n

/-- The operations that a stack core's tasks have in progress, with the grids they belong to: of the task that it runs, of those it holds saved, and
those it was left with. -/
def StackCore.ops (c : StackCore) : List (Nat × RowOp) :=
  ((c.task.toList ++ c.saved).flatMap fun t => t.rowops.map fun r => (t.grid, r)) ++ c.left

/-- The entries of translation caches that a SHOOT drops. -/
def State.shotBy (s : State) (x : Shoot) : List Tlb :=
  ((s.cores.toList.flatMap (·.tlb)) ++ s.dies.toList.flatMap (·.walker)).filter fun t => t.ctx == x.ctx && crosses x.base x.len t.base t.size

/-- Bytes lie in a SHOOT's range, or in a page whose entry it drops. -/
def State.shot (s : State) (x : Shoot) (va n : Nat) : Bool := crosses x.base x.len va n || (s.shotBy x).any fun t => crosses t.base t.size va n

/-- A SHOOT begins: caches of translations drop the range, and the accesses translated so far under the entries dropped are counted (14 R321). -/
def State.beginShoot (s : State) (x : Shoot) : State :=
  let keep (t : Tlb) : Bool := !(t.ctx == x.ctx && crosses x.base x.len t.base t.size)
  let own (grid : Nat) : Bool := (s.grid? grid).map (·.ctx) == some x.ctx
  let wait := (s.groups.filter fun g => s.grpCtx g == x.ctx).flatMap fun g => (g.obq.filter fun e => match e.loc, e.kind with
    | .mem .., _ => s.shot x e.va.toNat e.n
    | _, .range .. => s.shot x e.va.toNat e.data
    | _, _ => false).map fun e => (g.id, e.uid)
  let jobs := s.copyEngs.toList.flatMap fun e => (e.jobs.filter (·.ctx == x.ctx)).flatMap fun j => (j.lines.filter fun (l : DLine) => match l.loc with
    | .mem .. => s.shot x l.va.toNat 128
    | _ => false).map fun l => (j.uid, l.va)
  let tiles := s.engines.toList.flatMap fun e => (e.table.filter (·.ctx == x.ctx)).flatMap fun r => (r.own.filter fun y => match y.2.2 with
    | .mem .. => s.shot x y.2.1.toNat 16
    | _ => false).map fun y => (r.uid, y.2.1)
  let rows := (s.stackCores.toList.flatMap StackCore.ops).filterMap fun (grid, r) =>
    let n := (r.pieces.zipIdx).foldl (fun n p => if s.shot x p.1.1 p.1.2 then p.2 + 1 else n) 0
    if own grid && n != 0 then some (r.uid, r.rows + n) else none
  let x := { x with wait, jobs := jobs ++ tiles, rows }
  { s with
    cores := vmap (fun (c : Core) => { c with tlb := c.tlb.filter keep }) s.cores,
    dies := vmap (fun (d : Die) => { d with walker := d.walker.filter keep }) s.dies,
    md := { s.md with shoots := s.md.shoots ++ [x] } }

/-- SHOOT. -/
def execShoot (s : State) : Out :=
  withCmd (fun c => c.op == 3) s fun c s =>
    some (s.beginShoot { ctx := c.ctx, base := c.a0, len := c.a1, code := c.flag8, done := c.done, wait := [], jobs := [], rows := [] }, none)

/-- Every access that a SHOOT counts has been performed at its home point. -/
def State.shootOver (s : State) (x : Shoot) : Bool :=
  (x.wait.all fun (gid, uid) => match s.grp? gid with
    | none => true
    | some g => match g.ent? uid with
      | none => true
      | some e => s.performedAt g e 4) &&
  (x.jobs.all fun (uid, va) =>
    !(s.copyEngs.toList.any fun e => e.jobs.any fun j => j.uid == uid && j.lines.any (·.va == va)) &&
    !(s.engines.toList.any fun e => e.table.any fun r => r.uid == uid && r.own.any (·.2.1 == va))) &&
  x.rows.all fun (uid, n) => (s.stackCores.toList.flatMap StackCore.ops).all fun (_, r) => r.uid != uid || n ≤ r.rows

/-- SHOOT_COMPLETE: with the code flag, instruction caches drop the range and the context's buffers empty. -/
def execShootComplete (i : Nat) (s : State) : Out :=
  match s.md.shoots[i]? with
  | none => .next s
  | some x =>
    if !s.shootOver x then .next s
    else match s.writeDone x.done 1 with
      | none => .next s
      | some s =>
        let s := { s with md := { s.md with shoots := s.md.shoots.eraseIdx i } }
        if !x.code then .next s
        else
          let keep (b : Nat × Nat × List Byte) : Bool := !(b.1 == x.ctx && crosses x.base x.len b.2.1 32)
          .next { s with
            cores := vmap (fun (c : Core) => { c with icache := c.icache.filter keep }) s.cores,
            groups := s.groups.map fun (g : Group) => if s.grpCtx g = x.ctx then { g with ibuf := none, iblk := [] } else g }

/-! ### MOVE, EVICT, FILL (14 R335-R337) -/

def State.modDie (s : State) (d : Nat) (f : Die → Die) : State := s.setDie d (f (s.die d))

/-- An operation on the unit is in progress or waits. -/
def State.unitBusy (s : State) (u : Nat) : Bool := (s.die (homeDie u)).unitOps.any (·.unit == u)
def State.pushUnit (s : State) (kind u dst cmd : Nat) : State :=
  s.modDie (homeDie u) fun d => { d with unitOps := d.unitOps ++ [⟨kind, u, dst, cmd⟩] }
/-- The staged copy of a unit is dropped. -/
def State.unstage (s : State) (u : Nat) : State := s.modDie (homeDie u) fun d => { d with staged := d.staged.filter (·.1 != u) }
/-- Every cached copy of the unit's tiles is dropped as SPINV drops it. -/
def State.dropUnit (s : State) (u : Nat) : State := (List.range 64).foldl (fun s i => s.rangeTile 1 (u + 1024 * i)) s
/-- A copy engine still has writes to the unit. -/
def State.unitWritten (s : State) (u : Nat) : Bool :=
  s.copyEngs.toList.any fun e => e.jobs.any fun j => j.lines.any fun (l : DLine) => match l.loc with
    | .mem pa _ => unitOf pa == u
    | _ => false

def State.enterFill (s : State) (u : Nat) : State := ((s.unstage u).dropUnit u).modDie (homeDie u) fun d => { d with fill := d.fill.filter (· != u) ++ [u] }
def State.leaveFill (s : State) (u : Nat) : State := ((s.unstage u).dropUnit u).modDie (homeDie u) fun d => { d with fill := d.fill.filter (· != u) }

/-- The unit's bytes go from the tier into a frame, which then serves it; the host gives up the frame's lines (15 R342). -/
def State.stage (s : State) (u f : Nat) : State :=
  let s := (s.dropUnit f).hostGone f 65536
  let cells := (s.dram.filter fun c => u ≤ c.1 && c.1 < u + 65536).map fun c => (c.1 - u + f, c.2)
  let rest := s.dram.filter fun c => !(f ≤ c.1 && c.1 < f + 65536)
  ({ s with dram := memWriteAll rest cells }.unstage u).modDie (homeDie u) fun d => { d with staged := d.staged ++ [(u, f)] }

/-- Evictions and fill changes that wait for a unit are performed until a move, or a write still under way, stands first. -/
def State.runUnit (s : State) (u : Nat) : Nat → State
  | 0 => s
  | fuel + 1 =>
    let d := s.die (homeDie u)
    match d.unitOps.findIdx? (·.unit == u) with
    | none => s
    | some i =>
      let s' := s.setDie (homeDie u) { d with unitOps := d.unitOps.eraseIdx i }
      match (d.unitOps[i]?).map (·.kind) with
      | some 1 => (s'.unstage u).runUnit u fuel
      | some 2 => if s.unitWritten u then s else (s'.leaveFill u).runUnit u fuel
      | some 3 => (s'.enterFill u).runUnit u fuel
      | _ => s

/-- Completes the commands whose units are all treated: 0x08 where an eviction followed a move. -/
def State.reapCmds (s : State) : State :=
  s.md.cmds.foldl (fun s x =>
    if s.dies.toList.any fun d => d.unitOps.any (·.cmd == x.id) then s
    else match s.writeDone x.done (if x.moved then 8 else 1) with
      | none => s
      | some s => { s with md := { s.md with cmds := s.md.cmds.filter (·.id != x.id) } }) s

/-- An eviction behind a move of the unit changes what the move reports. -/
def State.noteEvict (s : State) (u : Nat) : State :=
  let ids := ((s.die (homeDie u)).unitOps.filter fun o => o.kind == 0 && o.unit == u).map (·.cmd)
  { s with md := { s.md with cmds := s.md.cmds.map fun (x : Cmd) => if ids.contains x.id then { x with moved := true } else x } }

/-- An eviction of one unit. -/
def State.evictUnit (s : State) (u cmd : Nat) : State := if s.unitBusy u then (s.noteEvict u).pushUnit 1 u 0 cmd else s.unstage u

/-- Units of a command: aligned, in the tier, and behind channels that are present (15 R344). -/
def State.unitsOk (s : State) (base n : Nat) : Bool :=
  base % 65536 == 0 && n ≤ 2 ^ 27 && (n == 0 || (tierOf base == .lp && tierOf (base + 65536 * n - 1) == .lp)) &&
    (List.range (16 * n)).all fun i => !s.absentMem (base + 4096 * i)
def unitList (base n : Nat) : List Nat := (List.range n).map fun i => base + 65536 * i

/-- A command over units: refused where `ok` fails, else performed unit by unit; it completes once nothing of it waits. -/
def unitCmd (mine : Command → Bool) (s : State) (ok : Command → State → Bool) (one : Command → State → Nat → Nat → State) : Out :=
  withCmd mine s fun c s =>
    if !s.unitsOk c.a0 c.a1 || !ok c s then some (s, some 4)
    else
      let (id, s) := s.fresh
      let s := { s with md := { s.md with cmds := s.md.cmds ++ [⟨id, c.done, false⟩] } }
      some (((unitList c.a0 c.a1).foldl (fun s u => one c s u id) s).reapCmds, none)

/-- A frame for a unit: in HBM4E of its home die, or in that die's stacked weight memory, whose columns are present (15 R344). -/
def State.frameOk (s : State) (swm : Bool) (u f : Nat) : Bool :=
  let at' (a : Nat) : Bool := match tierOf a with
    | .hbm st => !swm && st / 2 == homeDie u
    | .swm d => swm && d == homeDie u
    | _ => false
  at' f && at' (f + 65535) && (List.range 64).all fun i => !s.absentMem (f + 1024 * i)

/-- Staged units and moves under way at a die, without a given unit. -/
def Die.stagedBut (d : Die) (us : List Nat) : Nat :=
  (((d.staged.map (·.1)) ++ (d.unitOps.filter (·.kind == 0)).map (·.unit)).eraseDups.filter fun u => !us.contains u).length

/-- MOVE: the units are staged once MOVE_COMPLETE finishes them. -/
def execMove (s : State) : Out :=
  unitCmd (fun c => c.op == 4) s
    (fun c s =>
      let us := unitList c.a0 c.a1
      c.a2 % 65536 == 0 && us.all fun u => s.frameOk c.flag8 u (c.a2 + (u - c.a0)) &&
        decide ((s.die (homeDie u)).stagedBut us + (us.filter fun x => homeDie x == homeDie u).length ≤ 65536))
    (fun c s u id => s.pushUnit 0 u (c.a2 + (u - c.a0)) id)

/-- EVICT. -/
def execEvict (s : State) : Out := unitCmd (fun c => c.op == 5) s (fun _ _ => true) (fun _ s u id => s.evictUnit u id)

/-- FILL, entering: it evicts behind a move of the unit as EVICT does (14 R336, R337). -/
def execFillEnter (s : State) : Out :=
  unitCmd (fun c => c.op == 6 && c.flag8) s (fun _ _ => true) (fun _ s u id => if s.unitBusy u then (s.noteEvict u).pushUnit 3 u 0 id else s.enterFill u)

/-- FILL, leaving: waits for the copy engines' writes; leaves that wait go on first. -/
def execFillLeave (s : State) : Out :=
  let us := (s.dies.toList.flatMap fun d => (d.unitOps.filter (·.kind == 2)).map (·.unit)).eraseDups
  let s := (us.foldl (fun s u => s.runUnit u (s.die (homeDie u)).unitOps.length) s).reapCmds
  unitCmd (fun c => c.op == 6 && !c.flag8) s (fun _ _ => true)
    (fun _ s u id => if s.unitBusy u || s.unitWritten u then (s.noteEvict u).pushUnit 2 u 0 id else s.leaveFill u)

/-- MOVE_COMPLETE: move i of a die finishes; what waits for its unit follows. -/
def execMoveComplete (die i : Nat) (s : State) : Out :=
  let d := s.die die
  match d.unitOps[i]? with
  | none => .next s.reapCmds
  | some o =>
    if o.kind != 0 || (d.unitOps.take i).any (·.unit == o.unit) then .next s.reapCmds
    else
      let s := (s.setDie die { d with unitOps := d.unitOps.eraseIdx i }).stage o.unit o.dst
      .next (s.runUnit o.unit d.unitOps.length).reapCmds

/-- STAGED_EVICT: the controller evicts a unit on its own. -/
def execStagedEvict (die unit : Nat) (s : State) : Out :=
  let u := unitOf unit
  if tierOf u != .lp || homeDie u != die then .next s else .next (s.evictUnit u 0)

/-! ### PMCFG, NCWSET, unknown ops -/

/-- Sources at each level (15 R353). -/
def pmSource (level src : Nat) : Bool :=
  src == 0 || src == 1 || (level == 0 && 2 ≤ src && src ≤ 7) || (level == 1 && 0x10 ≤ src && src ≤ 0x14) || (level == 2 && 0x20 ≤ src && src ≤ 0x24)

/-- PMCFG: the counter is 0 and counts its new source; on a die in warm reset it waits; of a core or die that is absent, it is refused (15 R344). -/
def execPmcfg (s : State) : Out :=
  withCmd (fun c => c.op == 7) s fun c s =>
    let sel := fld c.a0 0 8
    let die := fld c.a0 14 2
    let core := fld c.a0 8 6
    let quad := fld c.a0 8 2
    let level := sel / 64
    let x : Ctr := ⟨0, c.a1⟩
    if !pmSelOk sel || !pmSource level c.a1 || (level == 0 && (48 ≤ core || !s.corePresent (48 * die + core))) || !s.diePresent die then some (s, some 4)
    else if (s.die die).phase != .run then none
    else match level with
      | 0 => let k := s.core (48 * die + core); some (s.setCore (48 * die + core) { k with ctrs := put k.ctrs (sel % 8) x }, some 1)
      | 1 => let k := s.quad (4 * die + quad); some (s.setQuad (4 * die + quad) { k with ctrs := put k.ctrs (sel % 8) x }, some 1)
      | _ => some (s.modDie die fun d => { d with ctrs := put d.ctrs (sel % 16) x }, some 1)

/-- NCWSET (14 R316, R338). -/
def execNcwset (s : State) : Out :=
  withCmd (fun c => c.op == 8) s (prep := fun c s => s.cleanWindows c.ctx (nth (s.ctxD c.ctx).ncw c.a0).toNat) fun c s =>
    let v := c.a1 + 2 ^ 64 * c.a2
    let placed := s.grids.any fun k => k.ctx == c.ctx && (k.next != 0 || !k.tasks.isEmpty)
    if placed || 15 < c.a0 || ncwBad v then some (s, some 4)
    else if !s.windowsClean c.ctx (nth (s.ctxD c.ctx).ncw c.a0).toNat then none
    else some (s.setWindow c.ctx c.a0 v, some 1)

/-- UNKNOWN_OP_COMMAND. -/
def execUnknownOpCommand (s : State) : Out := withCmd (fun c => 8 < c.op) s fun _ s => some (s, some 4)

end Sys2Proof.Machine
end

