-- ==== Sys2Proof/Machine/Module.lean ====
section
/-! DEFINITION. Module.lean: the module around the dies: registers, warm reset, routes, peer links, notices and error records, memory
errors, drift, throttling, firmware and measurement (14 R333, R334, R340, 15 R342-R356). -/

namespace Sys2Proof.Machine

open Sys2Proof

/-! ### Warm reset of a die (15 R349-R351) -/

/-- MODSTAT shows a state of a die, and vector 5 is sent. -/
def State.setStat (s : State) (die v : Nat) : State :=
  { s with md := { s.md with modstat := .ofNat 64 (setFld s.md.modstat.toNat (2 * die) 2 v) } }.signal 5
def State.stat (s : State) (die : Nat) : Nat := fld s.md.modstat.toNat (2 * die) 2

/-- A team on the die is pre-empted, or its grid ends where the save pool has no room; one whose grid has ended meanwhile is left. -/
def State.clearTeam (s : State) (die id : Nat) : State :=
  match s.team? id with
  | none => s
  | some t =>
    if t.left = 0 || t.saved then s
    else match s.reserveTeam t with
      | none => s.endGrid t.grid 5 die 0
      | some s =>
        (s.groups.filter fun g => g.team == t.id && g.res == .resident && g.preempt.isNone).foldl (fun s g =>
          s.modGrp g.id fun g => s.parkLanes { g with preempt := some (s.now g) }) s

/-- A team of a draining die whose groups are all saved is saved too. -/
def State.saveRest (s : State) (die : Nat) : State :=
  (s.teams.filter fun t => t.core / 48 == die && t.left != 0 && !t.saved).foldl (fun s t =>
    let gs := s.liveGroups t.id
    if gs.isEmpty || gs.any (·.res != .saved) || s.hasRequests t.id then s else (s.saveTeam t).getD s) s

/-- A stack task is asked to yield. -/
def State.askTask (s : State) (sc : Nat) : State :=
  match s.task? sc with
  | none => s
  | some t =>
    if t.fin.isSome then s
    else
      let s := s.setTask sc { t with preempt := t.preempt.or (some (s.stackNow sc)) }
      if t.yields then s.takeTask sc else s

/-- Step 1: the die is marked, its teams and tasks yield. -/
def State.startReset (s : State) (die : Nat) : State :=
  if !s.diePresent die || (s.die die).phase != .run then s
  else
    let s := (s.modDie die fun d => { d with phase := .draining }).setStat die 2
    let here := (s.teams.filter fun t => t.core / 48 == die && t.left != 0 && !t.saved).map (·.id)
    let s := here.foldl (fun s t => s.clearTeam die t) s
    (List.range 64).foldl (fun s i => s.askTask (64 * die + i)) s

/-- Nothing of the die is left to drain before step 2. -/
def State.drained (s : State) (die : Nat) : Bool :=
  let d := s.die die
  (s.groups.all fun g => g.die != die || g.res == .saved) && (s.teams.all fun t => t.core / 48 != die || t.left == 0 || t.saved) &&
  ((List.range 8).all fun i => (s.cpe (8 * die + i)).jobs.isEmpty) &&
  ((List.range 12).all fun i => (s.eng (12 * die + i)).table.isEmpty) &&
  ((List.range 64).all fun i => (s.task? (64 * die + i)).isNone) &&
  d.applyq.toList.all List.isEmpty && d.extq.isEmpty && d.snoop.isEmpty &&
  ((List.range 4).all fun q => (s.quad (4 * die + q)).accs.isEmpty && (s.quad (4 * die + q)).pulls.isEmpty) &&
  (s.net.all fun r => r.home != die || r.srcDie != die)

/-- A line or tile is homed on a die. -/
def homedOn (die a : Nat) : Bool := homeDie a == die

/-- Step 3: the other dies write back what they hold of memory homed on the die, and drop it. -/
def State.flushHomes (s : State) (die : Nat) : State :=
  let s := (List.range 192).foldl (fun s c => if dieOfCore c = die then s
    else (((s.core c).l1.map (·.addr)).filter (homedOn die)).foldl (fun s a => s.wbLine c a true) s) s
  (List.range 16).foldl (fun s q => if q / 4 = die then s
    else (((s.quad q).tiles.filter fun t => t.copy && homedOn die t.addr).map (·.addr)).foldl (fun s a => s.dropCopy q a) s) s

/-- Step 4, first: the die writes back and drops its copies of other dies' tiles. -/
def State.flushCopies (s : State) (die : Nat) : State :=
  (List.range 4).foldl (fun s i =>
    let q := 4 * die + i
    (((s.quad q).tiles.filter (·.copy)).map (·.addr)).foldl (fun s a => s.dropCopy q a) s) s

/-- Another die still holds something homed on the die, or the die holds a copy. -/
def State.heldElsewhere (s : State) (die : Nat) : Bool :=
  ((List.range 192).any fun c => dieOfCore c != die && (s.core c).l1.any fun l => homedOn die l.addr) ||
  (List.range 16).any fun q => (s.quad q).tiles.any fun t => t.copy && (q / 4 == die || homedOn die t.addr)

/-- Traffic of a die that the ports let through, or turn away, is still under way. -/
def State.portsBusy (s : State) (die : Nat) : Bool :=
  let busy (r : Req) : Bool := r.home != r.srcDie && (r.home == die || r.srcDie == die) && (r.write || r.home == die)
  s.net.any busy || s.dies.toList.any (fun d => d.applyq.toList.any (·.any busy) || d.snoop.any busy) ||
    s.quads.toList.any fun q => q.accs.any (fun a => busy a.req) || q.pulls.any fun p => busy p.req

/-- Step 4: the die writes its dirty tiles to its controllers, and its L1 lines go. -/
def State.flushDie (s : State) (die : Nat) : State :=
  let s := (List.range 4).foldl (fun s i =>
    s.ctlWrite (((s.quad (4 * die + i)).tiles.filter fun t => !t.copy).flatMap Tile.dirtyCells)) s
  (List.range 48).foldl (fun s i => let c := 48 * die + i; s.setCore c { s.core c with l1 := [] }) s

/-- A dirty tile of the die waits for a stopped channel (13 R309). -/
def State.flushStopped (s : State) (die : Nat) : Bool :=
  (List.range 4).any fun i => (s.quad (4 * die + i)).tiles.any fun t => !t.copy && !t.dirty.isEmpty && s.stopped t.addr

def Ctr.zero (c : Ctr) : Ctr := { c with val := 0 }

/-- Step 5: spirals, cores, engines and the die's logic are reset, CYCLE restarts, counters keep their sources; directories, and what
the system controller keeps of saved groups, stay. -/
def State.resetLogic (s : State) (die : Nat) : State :=
  { s with
    quads := Vector.ofFn fun i : Fin 16 => if i.val / 4 = die then { Quad.reset with ctrs := vmap Ctr.zero s.quads[i].ctrs } else s.quads[i],
    cores := Vector.ofFn fun i : Fin 192 =>
      if i.val / 48 = die then { Core.reset with ctrs := vmap Ctr.zero s.cores[i].ctrs, held := s.cores[i].held } else s.cores[i],
    engines := Vector.ofFn fun i : Fin 48 => if i.val / 12 = die then Engine.reset else s.engines[i],
    dies := put s.dies die { s.die die with cycle := 0, walker := [], ctrs := vmap Ctr.zero (s.die die).ctrs, phase := .reset } }

/-- WARM_RESET: a request starts the reset; once the die has drained, its ports stop accepting (step 2) and the other dies write back (step 3); once
that has been applied at the die, it writes its tiles to its controllers (step 4) and is reset (step 5). -/
def execWarmReset (die : Nat) (byDriver : Bool) (s : State) : Out :=
  if 4 ≤ die || (byDriver && s.md.recovery) then .next s
  else match (s.die die).phase with
  | .run => .next (s.startReset die)
  | .draining =>
    let s := s.saveRest die
    .next (if s.drained die then (s.modDie die fun d => { d with phase := .flush }).flushHomes die else s)
  | .flush =>
    let s := (s.flushHomes die).flushCopies die
    .next (if s.heldElsewhere die || s.portsBusy die || s.flushStopped die then s else (s.flushDie die).resetLogic die)
  | .reset => .next s

/-- The table of a re-admitted die: the greatest of the others' entries; in its own column also what it applied and what the ports
dropped. -/
def State.readmitDep (s : State) (die : Nat) : List (List Nat) :=
  let others := (List.range 4).filter (· != die)
  let d := s.die die
  (List.range 5).map fun x => (List.range 4).map fun h =>
    let m := others.foldl (fun m o => max m (depAt (s.die o).dep x h)) 0
    if h = die then max m (depAt d.dep x die + (d.drops[x]?).getD 0) else m

/-- WARM_RESET_READMIT: step 6, once the traffic of the die that the ports let through has arrived; or the reset has failed. -/
def execWarmResetReadmit (die : Nat) (ok : Bool) (s : State) : Out :=
  if 4 ≤ die || (s.die die).phase != .reset || s.stat die != 2 then .next s
  else if !ok then .next (s.setStat die 3)
  else if s.portsBusy die then .next s
  else .next ((s.modDie die fun d => { d with dep := s.readmitDep die, drops := [0, 0, 0, 0, 0], phase := .run }).setStat die 0)

/-- The pair of dies whose route passes through a die (01 R11, 15 R348). -/
def routePair (die : Nat) : Option (Nat × Nat) :=
  match die with
  | 0 => some (1, 2)
  | 1 => some (0, 3)
  | _ => none

/-- ROUTE_SWITCH: the pair's route leaves a die in warm reset, and comes back, once the route it leaves holds nothing of the pair. -/
def execRouteSwitch (die : Nat) (s : State) : Out :=
  match routePair die with
  | none => .next s
  | some (a, b) =>
    let hit (r : Req) : Bool := (r.srcDie == a && r.home == b) || (r.srcDie == b && r.home == a)
    let d := s.die die
    let want := d.phase == .run
    if d.viaOld == want || s.net.any hit || s.replies.any (fun p => hit p.req) then .next s
    else .next (s.setDie die { d with viaOld := want })

/-! ### Registers (15 R343) -/

/-- A context is enabled. -/
def State.anyEnabled (s : State) : Bool := (List.range s.md.ctxcnt.toNat).any s.descOk

/-- A register that the driver may change only while no context is enabled: at other times its old or new value, by a free choice. -/
def State.guarded (s : State) (old v : W64) : W64 × State :=
  if s.anyEnabled then
    let (n, s) := s.draw
    (if n % 2 = 0 then old else v, s)
  else (v, s)

/-- REGISTER_WRITE: read-only and unlisted offsets take no effect. -/
def execRegisterWrite (off : Nat) (v : W64) (s : State) : Out :=
  if s.md.recovery then .next s
  else match off with
  | 0x078 => .next ((List.range 4).foldl (fun s d => if v.getLsbD d then s.startReset d else s) s)
  | 0x080 => let (x, s) := s.guarded s.md.ctxbase v; .next { s with md := { s.md with ctxbase := x } }
  | 0x088 => .next { s with md := { s.md with ctxcnt := v } }
  | 0x090 => let (x, s) := s.guarded s.md.ctlq v; .next { s with md := { s.md with ctlq := x } }
  | 0x098 => let (x, s) := s.guarded s.md.notq v; .next { s with md := { s.md with notq := x } }
  | 0x0A0 => let (x, s) := s.guarded s.md.errq v; .next { s with md := { s.md with errq := x } }
  | 0x0A8 => .next { s with md := { s.md with acthr := v &&& 0xFFFF } }
  | _ => .next s

/-- A read of the module register block: MODCTL, which can only be written, and unlisted offsets give 0. -/
def State.registerRead (s : State) (off : Nat) : W64 :=
  let md := s.md
  let word (x i : Nat) : W64 := .ofNat 64 (fld x (64 * i) 64)
  if off % 8 ≠ 0 then 0
  else if off < 0x040 then word (nth md.capdie (off / 16)).toNat (off / 8 % 2)
  else if off < 0x060 then word md.capstk.toNat (off / 8 % 4)
  else if 0x0B0 ≤ off && off < 0x0D0 then .ofNat 64 (s.die ((off - 0x0B0) / 8)).cycle
  else match off with
    | 0x060 => md.caplp
    | 0x068 => md.cappeer
    | 0x070 => md.modstat
    | 0x080 => md.ctxbase
    | 0x088 => md.ctxcnt
    | 0x090 => md.ctlq
    | 0x098 => md.notq
    | 0x0A0 => md.errq
    | 0x0A8 => md.acthr
    | 0x0D0 => md.modpwr
    | _ => 0

/-! ### Directories, access counters, throttling, links -/

/-- DRIFT: a tile whose leading count is 16 moves to the leading column (14 R334). -/
def execDrift (die tile : Nat) (s : State) : Out :=
  let d := s.die die
  match d.dirs.find? (·.1 == tile) with
  | none => .next s
  | some (_, col, lead, n) =>
    if n < 16 || col = lead then .next s
    else .next ((s.setDie die { d with dirs := d.dirs.map fun x => if x.1 = tile then (tile, lead, lead, 0) else x }).bumpDie die 0x20 1)

/-- ACCESS_NOTICE: a counter at or above a threshold that the driver has lowered makes its notice; one that reaches the threshold by an access does so
with that access (14 R333). `host`: the host's accesses to device memory. -/
def execAccessNotice (die : Nat) (host : Bool) (region : Nat) (s : State) : Out := .next (s.noticeAt die host region)

/-- The oldest record of a kind goes into its queue (14 R315, R333, 15 R346): notices of 16 bytes, error records of 32. A queue that the driver places in
the LPDDR-6 tier, which the controller may not write, takes none (DESIGN CHOICE, log 109). -/
def sysRecord (notice : Bool) (s : State) : Out :=
  let base := (if notice then s.md.notq else s.md.errq).toNat
  match s.md.recs.findIdx? fun r => r.notice == notice with
  | none => .next s
  | some i =>
    let words := ((s.md.recs[i]?).map (·.words)).getD []
    let n := if notice then 16 else 32
    let h := s.homeRead base 16
    let wr := fld h 0 64
    let rd := fld h 64 64
    let lsz := Config.sysQueueSize notice
    let pa := base + 64 + n * (wr % 2 ^ lsz)
    if !populated base then .fault (.unpopulated base)
    else if tierOf base == .lp || tierOf pa == .lp then .next s
    else if 2 ^ lsz ≤ (wr + 2 ^ 64 - rd) % 2 ^ 64 then .next s
    else if !populated pa then .fault (.unpopulated pa)
    else match (s.directWrite 6000 0 pa n (ofWords words)).bind fun s => s.directWrite 6000 0 base 8 ((wr + 1) % 2 ^ 64) with
      | none => .next s
      | some s => .next ({ s with md := { s.md with recs := s.md.recs.eraseIdx i } }.signal (if notice then 3 else 4))

/-- ERROR_RECORD_WRITE. -/
def execErrorRecordWrite (s : State) : Out := sysRecord false s
/-- NOTICE_RECORD_WRITE. -/
def execNoticeRecordWrite (s : State) : Out := sysRecord true s

/-- THROTTLE: a die has a block throttled, or none any longer (15 R352). -/
def execThrottle (die : Nat) (on : Bool) (s : State) : Out := .next (s.modDie die fun d => { d with throttled := on })

/-- PEER_LINK_STATE: a link present goes up or down; vector 6 tells of the change (15 R343, R345, R347). -/
def execPeerLinkState (link : Nat) (up : Bool) (s : State) : Out :=
  if 16 ≤ link || !s.md.cappeer.getLsbD link then .next s
  else
    let l := nth s.md.links link
    if l.up = up then .next s
    else .next ({ s with md := { s.md with links := put s.md.links link { l with up },
                                           cappeer := .ofNat 64 (setFld s.md.cappeer.toNat (16 + link) 1 up.toNat) } }.signal 6)

/-- SOFT_ERROR_CORRECTED (14 R340, 15 R353). -/
def execSoftErrorCorrected (die : Nat) (s : State) : Out := .next (s.bumpDie die 0x21 1)

/-! ### Uncorrectable errors (14 R340) -/

/-- A request that changes nothing any more: it arrives, and is counted, as a read; an SC still answers whether its reservation held (14 R340). -/
def Req.void (r : Req) : Req := if r.kind == .sc then { r with n := 0, cells := [] } else { r with kind := .load, cells := [] }

/-- The requests of one entry change nothing. -/
def State.voidEntry (s : State) (g uid : Nat) : State :=
  let v (r : Req) : Req := if r.grp = g && r.ent = uid then r.void else r
  { s with
    net := s.net.map v,
    dies := vmap (fun (d : Die) => { d with applyq := vmap (fun q => q.map v) d.applyq, snoop := d.snoop.map v }) s.dies,
    quads := vmap (fun (q : Quad) => { q with accs := q.accs.map fun (a : Acc) => { a with req := v a.req } }) s.quads }

/-- Registers whose values are lost: free values from a counter on. -/
def lostRegs (n : Nat) : Vector VReg 256 :=
  Vector.ofFn fun r => .gen (mkLanes fun l => .ofNat 32 (Config.freeNat (n + 128 * r.val + l)))

/-- Who made a write, as an error record names it. -/
def State.writerOf (s : State) (r : Req) : Nat :=
  if r.src < 192 then (if ((s.grp? r.grp).map fun g => g.res == Res.draining).getD false then 1 else 0)
  else if r.src < 2000 then 2 else if r.src < 3000 then 3 else if r.src < 4000 then 4 else if r.src = 4016 then 5 else if r.src < 5000 then 6 else 0

/-- The error record of a write that is dropped at an uncorrectable line. -/
def State.lostWrite (s : State) (r : Req) : State :=
  let who := s.writerGrid r
  s.errorRec r.pa who.1 who.2 (s.writerOf r) r.srcDie 2

/-- MEMERR: an uncorrectable error, by what it strikes. -/
def execMemerr (e : MemErr) (s : State) : Out :=
  match e with
  | .entry gid i =>
    match (s.grp? gid).bind fun g => g.obq[i]? with
    | none => .next s
    | some x =>
      if !x.kind.isRead || x.kind.unreached || x.stage == .done || x.stage == .applied then .next s
      else .next ((s.voidEntry gid x.uid).failEntry gid x Cause.memerr)
  | .store i =>
    match s.net[i]? with
    | none => .next s
    | some r =>
      if !r.write || !(r.kind == .store || r.kind == .sc) then .next s
      else .next ({ s.lostWrite r with net := s.net.set i r.void })
  | .outside die i =>
    let d := s.die die
    match d.extq[i]? with
    | none => .next s
    | some r => .next ((s.lostWrite r).setDie die { d with extq := d.extq.set i r.void })
  | .row sc => .next (s.dropRow sc)
  | .job cpe i va =>
    match (s.cpe cpe).jobs[i]? with
    | none => .next s
    | some j =>
      if j.status != 0 || !s.jobReady j || !j.sources.contains (.ofNat 64 va) then .next s
      else .next (s.modJob cpe j.uid fun j => j.stop 3 3 (.ofNat 64 va))
  | .request eng i va =>
    match (s.eng eng).table[i]? with
    | none => .next s
    | some r =>
      let left := (r.source.zipIdx).filter fun x => ((r.got[x.2]?).bind id).isNone
      if r.status != 0 || r.done || r.data.isSome || !(r.started || (s.accept r).isSome) || !left.any (·.1 == .ofNat 64 va) then .next s
      else .next (s.reqFail r 3 3 (.ofNat 64 va))
  | .piece eng i va =>
    match (s.eng eng).table[i]? with
    | none => .next s
    | some r =>
      let lost := r.own.findSome? fun x => match x.2.2 with
        | .mem pa _ => if x.2.1 == .ofNat 64 va then some pa else none
        | _ => none
      (match lost with
       | none => .next s
       | some pa =>
         if r.done then .next s
         else .next ((s.errorRec pa r.grid r.ctx 3 (engDie r.eng) 2).modReq eng r.uid fun r =>
           { r with own := r.own.map fun x => if x.2.1 == .ofNat 64 va then (x.1, x.2.1, .nowhere) else x }))
  | .task sc lane => s.poisonTask sc lane
  | .backing gid =>
    match s.grp? gid with
    | none => .next s
    | some g =>
      if g.res != .resident || !g.hidden then .next s
      else
        let (pc, s) := s.draw
        let s := { s.setGrp { g with vregs := lostRegs s.free } with free := s.free + 32768 }
        .next (s.raiseTrap gid { cause := Cause.memerr, pc := .ofNat 32 pc, code := 0, lane := 0xFF, lanes := 0, va := 0, after := false, size := 8,
                                 delivered := false, seq := none })

/-! ### Firmware and identity (15 R355, R356) -/

/-- The stages of a boot from a list on: each image is verified by the stage before it, which measures it before it runs it; the first that is refused,
or lies below the fused minimum, leaves the module in recovery (15 R355, R356). -/
def Module.boot (m : Module) : List Nat → Module
  | [] => m
  | i :: is =>
    let x := nth m.images i
    if Config.imageVerifies x && m.minVer ≤ Config.imageVersion x then
      { m with meas := put m.meas 0 (.ofNat 256 (Config.sha256 ((nth m.meas 0).toNat + 2 ^ 256 * Config.sha256 x))) }.boot is
    else { m with recovery := true }

/-- The boot stages (DESIGN CHOICE, log 108). -/
def bootStages : List Nat := [0, 1, 2]

/-- The module at power-on, its fuses kept, with the images that take effect: the driver's where it has loaded one. -/
def Module.powerOn (m : Module) (absent : List Nat) : Module :=
  { Module.reset with
    capdie := m.capdie, capstk := m.capstk, caplp := m.caplp, cappeer := .ofNat 64 (fld m.cappeer.toNat 0 16),
    modstat := .ofNat 64 (absent.foldl (fun a d => a + 2 ^ (2 * d)) 0), minVer := m.minVer,
    images := Vector.ofFn fun i : Fin 3 => m.loaded[i].getD m.images[i] }

/-- COLD_RESET: memory, fuses and images stay; the images that the driver has loaded, `ctl`, `disp` and `ldr` last, take effect. The stages boot in
turn; images loaded raise the fused minimum once all have booted (15 R355, R356). -/
def execColdReset (ctl disp ldr : Option Nat) (s : State) : Out :=
  let s := ([ctl, disp, ldr].zipIdx).foldl (fun s x => (x.1.map fun y => s.loadImage x.2 y).getD s) s
  let m := (s.md.powerOn ((List.range 4).filter fun d => !s.diePresent d)).boot bootStages
  let md := if m.recovery then m
    else { m with minVer := bootStages.foldl (fun v i => ((nth s.md.loaded i).map fun x => max v (Config.imageVersion x)).getD v) m.minVer }
  .next { State.reset with sched := s.sched, free := s.free, nextId := s.nextId, dram := s.dram, md }

/-- SPDM_REQUEST: the report covers the eight measurement registers and the nonce, signed over SHA-256. -/
def execSpdmRequest (nonce : Nat) (s : State) : Out :=
  let ms := (s.md.meas.toList.foldr (fun x acc => x.toNat + 2 ^ 256 * acc) 0)
  let d := Config.sha256 (ms + 2 ^ 2048 * nonce)
  .next { s with md := { s.md with report := some (d, Config.reportSignature d) } }

end Sys2Proof.Machine
end

