-- ==== Sys2Proof/Machine/Dispatch.lean ====
section
/-! DEFINITION. Dispatch.lean: one arm per step of the opcode table. -/

namespace Sys2Proof.Machine

open Sys2Proof

/-- What each instruction and event does. -/
def exec (i : Instr) (s : State) : Host.Outcome State Fault Refusal :=
  match i with
  | .nop h => Sys2Proof.Machine.execNop h s
  | .bra h imm => Sys2Proof.Machine.execBra h imm s
  | .brx h a n => Sys2Proof.Machine.execBrx h a n s
  | .call h d imm => Sys2Proof.Machine.execCall h d imm s
  | .callx h d a n => Sys2Proof.Machine.execCallx h d a n s
  | .ret h a n => Sys2Proof.Machine.execRet h a n s
  | .exit h => Sys2Proof.Machine.execExit h s
  | .tail h => Sys2Proof.Machine.execTail h s
  | .yield h rot => Sys2Proof.Machine.execYield h rot s
  | .iadd h f o => Sys2Proof.Machine.execIadd h f o s
  | .isub h f o => Sys2Proof.Machine.execIsub h f o s
  | .imul h f o => Sys2Proof.Machine.execImul h f o s
  | .imulh h f o => Sys2Proof.Machine.execImulh h f o s
  | .imad h f o => Sys2Proof.Machine.execImad h f o s
  | .imin h f o => Sys2Proof.Machine.execImin h f o s
  | .imax h f o => Sys2Proof.Machine.execImax h f o s
  | .iabs h f o => Sys2Proof.Machine.execIabs h f o s
  | .shl h f o => Sys2Proof.Machine.execShl h f o s
  | .shr h f o => Sys2Proof.Machine.execShr h f o s
  | .sra h f o => Sys2Proof.Machine.execSra h f o s
  | .and h f o => Sys2Proof.Machine.execAnd h f o s
  | .or h f o => Sys2Proof.Machine.execOr h f o s
  | .xor h f o => Sys2Proof.Machine.execXor h f o s
  | .andn h f o => Sys2Proof.Machine.execAndn h f o s
  | .popc h f o => Sys2Proof.Machine.execPopc h f o s
  | .clz h f o => Sys2Proof.Machine.execClz h f o s
  | .brev h f o => Sys2Proof.Machine.execBrev h f o s
  | .bfx h f o => Sys2Proof.Machine.execBfx h f o s
  | .bfi h f o => Sys2Proof.Machine.execBfi h f o s
  | .isel h f o p => Sys2Proof.Machine.execIsel h f o p s
  | .icmp h f o => Sys2Proof.Machine.execIcmp h f o s
  | .lea h f o => Sys2Proof.Machine.execLea h f o s
  | .mov h f o => Sys2Proof.Machine.execMov h f o s
  | .movi h f o => Sys2Proof.Machine.execMovi h f o s
  | .movw h f d imm piece => Sys2Proof.Machine.execMovw h f d imm piece s
  | .plop h d a b c lut => Sys2Proof.Machine.execPlop h d a b c lut s
  | .perm h w64 o => Sys2Proof.Machine.execPerm h w64 o s
  | .vote h mode d a => Sys2Proof.Machine.execVote h mode d a s
  | .red h op t o => Sys2Proof.Machine.execRed h op t o s
  | .scan h ex op t o => Sys2Proof.Machine.execScan h ex op t o s
  | .bcast h w64 fromS toS d a xa c => Sys2Proof.Machine.execBcast h w64 fromS toS d a xa c s
  | .shape h mode d a => Sys2Proof.Machine.execShape h mode d a s
  | .packl h w64 cnt o c => Sys2Proof.Machine.execPackl h w64 cnt o c s
  | .fadd h f o => Sys2Proof.Machine.execFadd h f o s
  | .fsub h f o => Sys2Proof.Machine.execFsub h f o s
  | .fmul h f o => Sys2Proof.Machine.execFmul h f o s
  | .ffma h f o => Sys2Proof.Machine.execFfma h f o s
  | .fmin h f o => Sys2Proof.Machine.execFmin h f o s
  | .fmax h f o => Sys2Proof.Machine.execFmax h f o s
  | .fcmp h cond f o => Sys2Proof.Machine.execFcmp h cond f o s
  | .fcmpRflg h d => Sys2Proof.Machine.execFcmpRflg h d s
  | .fcmpCflg h d => Sys2Proof.Machine.execFcmpCflg h d s
  | .frcp h f o => Sys2Proof.Machine.execFrcp h f o s
  | .frsq h f o => Sys2Proof.Machine.execFrsq h f o s
  | .fsqrt h f o => Sys2Proof.Machine.execFsqrt h f o s
  | .fexp2 h f o => Sys2Proof.Machine.execFexp2 h f o s
  | .flog2 h f o => Sys2Proof.Machine.execFlog2 h f o s
  | .fsin h f o => Sys2Proof.Machine.execFsin h f o s
  | .fcos h f o => Sys2Proof.Machine.execFcos h f o s
  | .ftanh h f o => Sys2Proof.Machine.execFtanh h f o s
  | .fcvt h d a xa n c => Sys2Proof.Machine.execFcvt h d a xa n c s
  | .fround h f o => Sys2Proof.Machine.execFround h f o s
  | .qnt h push rm bf out d a xa b c => Sys2Proof.Machine.execQnt h push rm bf out d a xa b c s
  | .dqnt h rm bf inp d a xa c => Sys2Proof.Machine.execDqnt h rm bf inp d a xa c s
  | .amax h run f d a xa n => Sys2Proof.Machine.execAmax h run f d a xa n s
  | .ld h o => Sys2Proof.Machine.execLd h o s
  | .st h o => Sys2Proof.Machine.execSt h o s
  | .ldu h o => Sys2Proof.Machine.execLdu h o s
  | .stu h o => Sys2Proof.Machine.execStu h o s
  | .lds h o => Sys2Proof.Machine.execLds h o s
  | .sts h o => Sys2Proof.Machine.execSts h o s
  | .feset h o => Sys2Proof.Machine.execFeset h o s
  | .fetest h o => Sys2Proof.Machine.execFetest h o s
  | .pf h o => Sys2Proof.Machine.execPf h o s
  | .spdist h d a bv xa n => Sys2Proof.Machine.execSpdist h d a bv xa n s
  | .sppin h d a => Sys2Proof.Machine.execSppin h d a s
  | .spunpin h a => Sys2Proof.Machine.execSpunpin h a s
  | .sppull h a t => Sys2Proof.Machine.execSppull h a t s
  | .spclean h a b => Sys2Proof.Machine.execSpclean h a b s
  | .spinv h a b => Sys2Proof.Machine.execSpinv h a b s
  | .spflush h a b => Sys2Proof.Machine.execSpflush h a b s
  | .fence h kind scope => Sys2Proof.Machine.execFence h kind scope s
  | .atom h o => Sys2Proof.Machine.execAtom h o s
  | .atoms h o => Sys2Proof.Machine.execAtoms h o s
  | .lr h o => Sys2Proof.Machine.execLr h o s
  | .sc h o => Sys2Proof.Machine.execSc h o s
  | .barinit h a b lock trap => Sys2Proof.Machine.execBarinit h a b lock trap s
  | .bararv h d a n lanes scope => Sys2Proof.Machine.execBararv h d a n lanes scope s
  | .barwt h d a b c scope => Sys2Proof.Machine.execBarwt h d a b c scope s
  | .barq h d a clr => Sys2Proof.Machine.execBarq h d a clr s
  | .lkacq h a scope => Sys2Proof.Machine.execLkacq h a scope s
  | .lktry h d a scope => Sys2Proof.Machine.execLktry h d a scope s
  | .lkrel h a scope => Sys2Proof.Machine.execLkrel h a scope s
  | .grset h a b => Sys2Proof.Machine.execGrset h a b s
  | .cvinit h cv b => Sys2Proof.Machine.execCvinit h cv b s
  | .cvsign h d cv wt => Sys2Proof.Machine.execCvsign h d cv wt s
  | .chsend h a c scope => Sys2Proof.Machine.execChsend h a c scope s
  | .channelSlotWrite g idx => Sys2Proof.Machine.execChannelSlotWrite g idx s
  | .chrecv h d a scope => Sys2Proof.Machine.execChrecv h d a scope s
  | .xcopy h o => Sys2Proof.Machine.execXcopy h o s
  | .xfill h o => Sys2Proof.Machine.execXfill h o s
  | .xgath h o => Sys2Proof.Machine.execXgath h o s
  | .xcoll h o => Sys2Proof.Machine.execXcoll h o s
  | .qput h d a q rec pd => Sys2Proof.Machine.execQput h d a q rec pd s
  | .ftest h d a => Sys2Proof.Machine.execFtest h d a s
  | .fwait h d a w => Sys2Proof.Machine.execFwait h d a w s
  | .fcancel h a => Sys2Proof.Machine.execFcancel h a s
  | .fexp h d a => Sys2Proof.Machine.execFexp h d a s
  | .fimp h d a => Sys2Proof.Machine.execFimp h d a s
  | .mplane h d a c r srs fmt nw => Sys2Proof.Machine.execMplane h d a c r srs fmt nw s
  | .mwld h o => Sys2Proof.Machine.execMwld h o s
  | .mma h o => Sys2Proof.Machine.execMma h o s
  | .macz h en mask => Sys2Proof.Machine.execMacz h en mask s
  | .macrd h o => Sys2Proof.Machine.execMacrd h o s
  | .macwr h o => Sys2Proof.Machine.execMacwr h o s
  | .mchain h n1 => Sys2Proof.Machine.execMchain h n1 s
  | .mstat h d en rel => Sys2Proof.Machine.execMstat h d en rel s
  | .launch h d a q c dh gang ord pd => Sys2Proof.Machine.execLaunch h d a q c dh gang ord pd s
  | .wapp h d a pd => Sys2Proof.Machine.execWapp h d a pd s
  | .wtake h d b pg pq => Sys2Proof.Machine.execWtake h d b pg pq s
  | .widle h => Sys2Proof.Machine.execWidle h s
  | .trap h code => Sys2Proof.Machine.execTrap h code s
  | .bkpt h tag => Sys2Proof.Machine.execBkpt h tag s
  | .sread h d num kind => Sys2Proof.Machine.execSread h d num kind s
  | .swriteFriv h a => Sys2Proof.Machine.execSwriteFriv h a s
  | .swriteSbchk h a => Sys2Proof.Machine.execSwriteSbchk h a s
  | .swriteSpoob h a => Sys2Proof.Machine.execSwriteSpoob h a s
  | .swriteNcw h a w => Sys2Proof.Machine.execSwriteNcw h a w s
  | .pmrd h d sel => Sys2Proof.Machine.execPmrd h d sel s
  | .sleep h a => Sys2Proof.Machine.execSleep h a s
  | .sleepEnd g => Sys2Proof.Machine.execSleepEnd g s
  | .barwtTimeout g => Sys2Proof.Machine.execBarwtTimeout g s
  | .resultCommit g idx => Sys2Proof.Machine.execResultCommit g idx s
  | .rotationRequest g => Sys2Proof.Machine.execRotationRequest g s
  | .trapDeliver g => Sys2Proof.Machine.execTrapDeliver g s
  | .trapRecordWrite ctx => Sys2Proof.Machine.execTrapRecordWrite ctx s
  | .faultRecordWrite ctx => Sys2Proof.Machine.execFaultRecordWrite ctx s
  | .firmwareFaultCheck ctx seq => Sys2Proof.Machine.execFirmwareFaultCheck ctx seq s
  | .preemptRequest g => Sys2Proof.Machine.execPreemptRequest g s
  | .preemptTake g => Sys2Proof.Machine.execPreemptTake g s
  | .preemptWithdraw g => Sys2Proof.Machine.execPreemptWithdraw g s
  | .preemptTimeout g => Sys2Proof.Machine.execPreemptTimeout g s
  | .restore g core slot => Sys2Proof.Machine.execRestore g core slot s
  | .gangAbort g => Sys2Proof.Machine.execGangAbort g s
  | .hiddenMoveOut g => Sys2Proof.Machine.execHiddenMoveOut g s
  | .hiddenRecall g => Sys2Proof.Machine.execHiddenRecall g s
  | .drydownFree g => Sys2Proof.Machine.execDrydownFree g s
  | .gridEnd grid => Sys2Proof.Machine.execGridEnd grid s
  | .queueLeave g idx copy => Sys2Proof.Machine.execQueueLeave g idx copy s
  | .homeApply idx => Sys2Proof.Machine.execHomeApply idx s
  | .applyQueueHead die src => Sys2Proof.Machine.execApplyQueueHead die src s
  | .replyMerge idx => Sys2Proof.Machine.execReplyMerge idx s
  | .writeBack w => Sys2Proof.Machine.execWriteBack w s
  | .externalWrite e => Sys2Proof.Machine.execExternalWrite e s
  | .hostRead pa n => Sys2Proof.Machine.execHostRead pa n s
  | .bisnpResponse die => Sys2Proof.Machine.execBisnpResponse die s
  | .promotionAccept quad => Sys2Proof.Machine.execPromotionAccept quad s
  | .spiralAccessApply quad idx => Sys2Proof.Machine.execSpiralAccessApply quad idx s
  | .pullApply quad idx => Sys2Proof.Machine.execPullApply quad idx s
  | .rangeStep g idx => Sys2Proof.Machine.execRangeStep g idx s
  | .copyPacket cpe ctx q => Sys2Proof.Machine.execCopyPacket cpe ctx q s
  | .fillPacket cpe ctx q => Sys2Proof.Machine.execFillPacket cpe ctx q s
  | .gatherPacket cpe ctx q => Sys2Proof.Machine.execGatherPacket cpe ctx q s
  | .collectivePacket cpe ctx q => Sys2Proof.Machine.execCollectivePacket cpe ctx q s
  | .engineLineWrite cpe job line => Sys2Proof.Machine.execEngineLineWrite cpe job line s
  | .engineComplete cpe job => Sys2Proof.Machine.execEngineComplete cpe job s
  | .leaseGrant engine => Sys2Proof.Machine.execLeaseGrant engine s
  | .weightLoad engine idx => Sys2Proof.Machine.execWeightLoad engine idx s
  | .arrayPass engine idx => Sys2Proof.Machine.execArrayPass engine idx s
  | .tilePortServe engine idx => Sys2Proof.Machine.execTilePortServe engine idx s
  | .launchPacket die ctx q => Sys2Proof.Machine.execLaunchPacket die ctx q s
  | .teamPlace grid => Sys2Proof.Machine.execTeamPlace grid s
  | .gangPacket link ctx pkt => Sys2Proof.Machine.execGangPacket link ctx pkt s
  | .gangAck grid link ok => Sys2Proof.Machine.execGangAck grid link ok s
  | .gangTimeout grid => Sys2Proof.Machine.execGangTimeout grid s
  | .gangAbortMsg grid => Sys2Proof.Machine.execGangAbortMsg grid s
  | .gangEndReport grid link => Sys2Proof.Machine.execGangEndReport grid link s
  | .itemArrive die idx => Sys2Proof.Machine.execItemArrive die idx s
  | .quiescenceReport grid => Sys2Proof.Machine.execQuiescenceReport grid s
  | .stackLaunch die ctx q => Sys2Proof.Machine.execStackLaunch die ctx q s
  | .stackTaskStart sc grid => Sys2Proof.Machine.execStackTaskStart sc grid s
  | .stackKernelEnd grid => Sys2Proof.Machine.execStackKernelEnd grid s
  | .stackPreempt sc => Sys2Proof.Machine.execStackPreempt sc s
  | .stackPreemptTimeout sc => Sys2Proof.Machine.execStackPreemptTimeout sc s
  | .stackRestore sc => Sys2Proof.Machine.execStackRestore sc s
  | .rowStep sc => Sys2Proof.Machine.execRowStep sc s
  | .waitevWake sc => Sys2Proof.Machine.execWaitevWake sc s
  | .refreshInterval ch => Sys2Proof.Machine.execRefreshInterval ch s
  | .refresh ch => Sys2Proof.Machine.execRefresh ch s
  | .laneRepair ch phase => Sys2Proof.Machine.execLaneRepair ch phase s
  | .sNop h => Sys2Proof.Machine.execSNop h s
  | .sBra h mode imm => Sys2Proof.Machine.execSBra h mode imm s
  | .loop h d imm => Sys2Proof.Machine.execLoop h d imm s
  | .sExit h => Sys2Proof.Machine.execSExit h s
  | .waitev h a b cond => Sys2Proof.Machine.execWaitev h a b cond s
  | .srd h d num clr vec => Sys2Proof.Machine.execSrd h d num clr vec s
  | .sAdd h f o => Sys2Proof.Machine.execSAdd h f o s
  | .sSub h f o => Sys2Proof.Machine.execSSub h f o s
  | .sMul h f o => Sys2Proof.Machine.execSMul h f o s
  | .sMad h f o => Sys2Proof.Machine.execSMad h f o s
  | .sAnd h f o => Sys2Proof.Machine.execSAnd h f o s
  | .sOr h f o => Sys2Proof.Machine.execSOr h f o s
  | .sXor h f o => Sys2Proof.Machine.execSXor h f o s
  | .sShl h f o => Sys2Proof.Machine.execSShl h f o s
  | .sShr h f o => Sys2Proof.Machine.execSShr h f o s
  | .sCmp h f o => Sys2Proof.Machine.execSCmp h f o s
  | .sSel h f o p => Sys2Proof.Machine.execSSel h f o p s
  | .sMov h f o => Sys2Proof.Machine.execSMov h f o s
  | .sMovi h f o => Sys2Proof.Machine.execSMovi h f o s
  | .sFadd h f o => Sys2Proof.Machine.execSFadd h f o s
  | .sFmul h f o => Sys2Proof.Machine.execSFmul h f o s
  | .sFfma h f o => Sys2Proof.Machine.execSFfma h f o s
  | .sFmin h f o => Sys2Proof.Machine.execSFmin h f o s
  | .sFmax h f o => Sys2Proof.Machine.execSFmax h f o s
  | .sFcvt h d a c => Sys2Proof.Machine.execSFcvt h d a c s
  | .rld h a b rows1 => Sys2Proof.Machine.execRld h a b rows1 s
  | .rst h a b rows1 => Sys2Proof.Machine.execRst h a b rows1 s
  | .rldx h o => Sys2Proof.Machine.execRldx h o s
  | .rstx h o => Sys2Proof.Machine.execRstx h o s
  | .ratom h op ix d a b c => Sys2Proof.Machine.execRatom h op ix d a b c s
  | .vred h fl op t d a => Sys2Proof.Machine.execVred h fl op t d a s
  | .ldk h o => Sys2Proof.Machine.execLdk h o s
  | .stk h o => Sys2Proof.Machine.execStk h o s
  | .post h d a b st => Sys2Proof.Machine.execPost h d a b st s
  | .sFence h => Sys2Proof.Machine.execSFence h s
  | .resolve => Sys2Proof.Machine.execResolve s
  | .resolveRefuse => Sys2Proof.Machine.execResolveRefuse s
  | .trapactResume => Sys2Proof.Machine.execTrapactResume s
  | .trapactRetry => Sys2Proof.Machine.execTrapactRetry s
  | .trapactEnd => Sys2Proof.Machine.execTrapactEnd s
  | .trapactSave => Sys2Proof.Machine.execTrapactSave s
  | .shoot => Sys2Proof.Machine.execShoot s
  | .shootComplete idx => Sys2Proof.Machine.execShootComplete idx s
  | .move => Sys2Proof.Machine.execMove s
  | .moveComplete die idx => Sys2Proof.Machine.execMoveComplete die idx s
  | .evict => Sys2Proof.Machine.execEvict s
  | .stagedEvict die unit => Sys2Proof.Machine.execStagedEvict die unit s
  | .fillEnter => Sys2Proof.Machine.execFillEnter s
  | .fillLeave => Sys2Proof.Machine.execFillLeave s
  | .pmcfg => Sys2Proof.Machine.execPmcfg s
  | .ncwset => Sys2Proof.Machine.execNcwset s
  | .registerWrite off v => Sys2Proof.Machine.execRegisterWrite off v s
  | .warmReset die byDriver => Sys2Proof.Machine.execWarmReset die byDriver s
  | .warmResetReadmit die ok => Sys2Proof.Machine.execWarmResetReadmit die ok s
  | .routeSwitch die => Sys2Proof.Machine.execRouteSwitch die s
  | .drift die tile => Sys2Proof.Machine.execDrift die tile s
  | .accessNotice die host region => Sys2Proof.Machine.execAccessNotice die host region s
  | .memerr e => Sys2Proof.Machine.execMemerr e s
  | .throttle die on => Sys2Proof.Machine.execThrottle die on s
  | .peerLinkState link up => Sys2Proof.Machine.execPeerLinkState link up s
  | .coldReset ctl disp ldr => Sys2Proof.Machine.execColdReset ctl disp ldr s
  | .spdmRequest nonce => Sys2Proof.Machine.execSpdmRequest nonce s
  | .errorRecordWrite => Sys2Proof.Machine.execErrorRecordWrite s
  | .noticeRecordWrite => Sys2Proof.Machine.execNoticeRecordWrite s
  | .reservedKindPacket unit ctx q copyEngine => Sys2Proof.Machine.execReservedKindPacket unit ctx q copyEngine s
  | .unknownOpCommand => Sys2Proof.Machine.execUnknownOpCommand s
  | .softErrorCorrected die => Sys2Proof.Machine.execSoftErrorCorrected die s

end Sys2Proof.Machine
end

