-- ==== Sys2Proof/Machine/Step.lean ====
section
/-! DEFINITION. Step.lean: one step of the machine: the next turn of the schedule (log 1). -/

namespace Sys2Proof.Machine

open Sys2Proof

/-- One step. With nothing scheduled, a cycle of every die passes. -/
def step (s : State) : Out :=
  match s.sched with
  | [] => .next ((((s.tick 0).tick 1).tick 2).tick 3)
  | t :: rest =>
    let s := { s with sched := rest, cur := .none }
    match t with
    | .tick d => .next (s.tick d)
    | .event i => exec i s
    | .issue c k => s.issueTurn exec c k
    | .stack sc =>
      match s.pickStack sc with
      | (s, none) => .next s
      | (s, some i) => exec i s

/-- A machine whose memory holds a context, its page tables and one page of code with the given word, and whose core 0 holds a
group about to issue it (log 12). -/
def State.withFetchWord (s : State) (nbits w : Nat) : State :=
  let code := 0x20000
  let cells := leCells 0x1000 8 0x10000 ++ leCells (0x1000 + 49) 3 0x040401 ++
    leCells 0x10000 8 0x11001 ++ leCells 0x11000 8 0x12001 ++ leCells 0x12000 8 0x13001 ++ leCells 0x13000 8 0x14001 ++
    leCells 0x14000 8 (code + 0xE3) ++ leCells code 16 (w % 2 ^ nbits)
  let k := s.nextId
  let grid : Grid :=
    { id := k, gridid := 1, ctx := 0, q := 0, die := 0, seqno := 0, hdr := toWords 8 (2 ^ 416 * 256), pkt := [], stack := false,
      next := 1, good := 0, gone := 0, ending := none, gang := false, acks := [], ends := [], aborted := false, sentAt := 0,
      remote := none, tasks := [], ffa := 0, quiet := false, wait := none }
  let team : Team :=
    { id := k + 1, grid := k, teamid := 0, cluster := 0, crank := 0, ctag := 1, core := 0, base := 0, size := 4096, pwr := 1,
      win := [], full := [], cvs := .replicate 8 emptyCv, bankq := [], groups := 1, left := 1, bad := false, saved := false,
      area := none }
  let g : GroupAt := { id := k + 2, team := k + 1, gid := 0, core := 0, slot := 0, nv := 256, ns := 192, live := 128, entry := 0,
                       friv := 12, priv := privBase (k + 2) 0, now := 0 }
  { s with
    sched := [.issue 0 0], nextId := k + 3, dram := memWriteAll s.dram cells,
    md := { s.md with ctxbase := 0x1000, ctxcnt := 1 },
    grids := s.grids ++ [grid], teams := s.teams ++ [team], groups := s.groups ++ [{ g.group with ibuf := some 0 }] }

end Sys2Proof.Machine
end

