-- ==== Sys2Proof/Safety.lean ====
section
/-! DEFINITION. Safety.lean: the words that claims use: a step that goes on, an instruction that issues, what it leaves as it was. -/

namespace Sys2Proof.Machine

open Sys2Proof

/-- The step went on. -/
def Goes (o : Out) : Prop := ∃ s, o = .next s

/-- Every memory of the machine is in canonical form: addresses strictly rising, no entry that reads as an unlisted byte. -/
def State.memOk (s : State) : Bool :=
  Memory.wf s.dram && s.teams.all (fun t => Memory.wf t.win) &&
    s.stackCores.toList.all fun c => (c.task.toList ++ c.saved).all fun t => Memory.wf t.scr

/-! ### An instruction that issues (02 R34, R38-R40, 03 R53) -/

/-- The executing group may issue `i`: `g` is the group with its due results committed, `a` its issue address; no request parks it,
no interlock holds it, and no check of 02 R40 fails. -/
structure Issues (i : Instr) (s : State) (g : Group) (a : W32) : Prop where
  cur   : s.curGrp? = some g
  addr  : g.issueAddr = some a
  runs  : ((hdrOf i).sp && g.yielding) = false
  ready : g.interlocked i = false
  index : g.badIdx (i.reads ++ i.writes) = false
  unif  : ((hdrOf i).u && g.notUniform i.reads) = false
  stall : g.stallShort i (latency i) (s.now g) = false

/-- The active lanes of `i` at `a`. -/
def actOf (i : Instr) (g : Group) (a : W32) : Mask := g.active i (g.lanesAt a)

/-- What the meaning of `i` sees of the group that issues it. -/
def issueOf (i : Instr) (g : Group) (a : W32) : Issue :=
  { g := g.onPath a, a, lns := g.lanesAt a, act := actOf i g a, size := i.size, h := hdrOf i }

/-- The state in which the meaning of an instruction that issues begins. -/
def startOf (s : State) (g : Group) (a : W32) : State := (s.setGrp g).path g a

/-- `i` issues with an active lane, or is unpredicated. -/
def Acts (i : Instr) (s : State) (g : Group) (a : W32) : Prop := Issues i s g a ∧ (actOf i g a ≠ 0 ∨ unpredicated i = true)

/-! ### What is left as it was -/

/-- A core of which only event counters may count and reservations of one group may end. -/
def CoreKept (gid : Nat) (x y : Core) : Prop :=
  y.l1 = x.l1 ∧ y.tlb = x.tlb ∧ y.icache = x.icache ∧ y.leaving = x.leaving ∧ y.pins = x.pins ∧ y.held = x.held ∧ y.slots = x.slots ∧
  (∀ r ∈ y.resv, r ∈ x.resv) ∧ (∀ r ∈ x.resv, r.grp ≠ gid → r ∈ y.resv)

/-- Everything outside one group and its core: memories, spirals, windows, other groups, grids, contexts, engines, stack cores,
requests on the way, the module. -/
structure Around (gid core : Nat) (s t : State) : Prop where
  dram  : t.dram = s.dram
  dies  : t.dies = s.dies
  quads : t.quads = s.quads
  teams : t.teams = s.teams
  grids : t.grids = s.grids
  ctxs  : t.ctxs = s.ctxs
  engs  : t.engines = s.engines
  cpes  : t.copyEngs = s.copyEngs
  stks  : t.stackCores = s.stackCores
  chans : t.chans = s.chans
  net   : t.net = s.net
  reps  : t.replies = s.replies
  savd  : t.saved = s.saved
  md    : t.md = s.md
  grps  : ∀ n, n ≠ gid → t.grp? n = s.grp? n
  cores : ∀ c < 192, c ≠ core → t.core c = s.core c
  own   : CoreKept gid (s.core core) (t.core core)

/-- A group's registers, and what it asked of memory, engines and the driver. -/
structure RegsKept (g g' : Group) : Prop where
  vregs  : g'.vregs = g.vregs
  sregs  : g'.sregs = g.sregs
  preds  : g'.preds = g.preds
  hnds   : g'.hnds = g.hnds
  fpf    : g'.fpf = g.fpf
  freed  : g'.freed = g.freed
  donem  : g'.donem = g.donem
  spoob  : g'.spoob = g.spoob
  spooba : g'.spooba = g.spooba
  friv   : g'.friv = g.friv
  sbchk  : g'.sbchk = g.sbchk
  trapc  : g'.trapc = g.trapc
  trap   : g'.trap = g.trap
  uids   : g'.obq.map (·.uid) = g.obq.map (·.uid)
  engs   : g'.engines = g.engines

/-- The lanes at `a` stand behind the instruction; every other lane stays; no lane starts to wait (03 R53). -/
def Fell (i : Instr) (g g' : Group) (a : W32) : Prop :=
  g'.lanes = g.lanes ∧
  ∀ l < 128, nth g'.pcv l = if (g.lanesAt a).getLsbD l then nextPc a i.size else nth g.pcv l

/-- `i` completes in one step: it issues result `p`, and its lanes fall through. -/
def Completes (i : Instr) (s : State) (g : Group) (a : W32) (p : Pend) : Prop :=
  ∃ t g', exec i s = .next t ∧ t.grp? g.id = some g' ∧ g'.pend = g.pend ++ [p] ∧ Fell i g g' a

/-! ### Values of registers -/

/-- The operand or result of lane l in a vector register, or in a pair. -/
def laneOf (g : Group) (two : Bool) (d l : Nat) : W64 :=
  if two then (g.v (d + 1)).get l ++ (g.v d).get l else ((g.v d).get l).zeroExtend 64

/-- The bits of a result of 64 or 32 bits. -/
def clip (two : Bool) (x : W64) : W64 := if two then x else (lo32 x).zeroExtend 64

/-- `g'` is `g` but for the vector register d, of a pair also d + 1. Without U the active lanes hold their values and the other lanes
that have not exited keep theirs (02 R36); with U every lane holds the value of the lowest active lane (02 R35). -/
def VecWritten (g g' : Group) (u two : Bool) (act : Mask) (d : Nat) (f : Nat → W64) : Prop :=
  (∀ l < 128, if u then laneOf g' two d l = clip two (f ((lowest act).getD 0))
    else if act.getLsbD l then laneOf g' two d l = clip two (f l)
    else (nth g.lanes l).isExited = false → laneOf g' two d l = laneOf g two d l) ∧
  (∀ r < 256, r ≠ d → (two = true → r ≠ d + 1) → g'.v r = g.v r) ∧
  g'.sregs = g.sregs ∧ g'.preds = g.preds ∧ g'.hnds = g.hnds

/-- `g'` is `g` but for the scalar register d. -/
def ScaWritten (g g' : Group) (d : Nat) (x : W64) : Prop :=
  g'.s d = x ∧ (∀ r < 192, r ≠ d → g'.s r = g.s r) ∧ g'.vregs = g.vregs ∧ g'.preds = g.preds ∧ g'.hnds = g.hnds

/-- `g'` is `g` but for the bits of predicate d in m; p0 reads all ones whatever is written (02 R41). -/
def PrdWritten (g g' : Group) (d : Nat) (m : Mask) (f : Nat → Bool) : Prop :=
  (∀ l < 128, (g'.p d).getLsbD l = if d = 0 then true else if m.getLsbD l then f l else (g.p d).getLsbD l) ∧
  (∀ r < 8, r ≠ d → g'.p r = g.p r) ∧ g'.vregs = g.vregs ∧ g'.sregs = g.sregs ∧ g'.hnds = g.hnds

end Sys2Proof.Machine
end

