-- ==== Sys2Proof/Certificates/Slice0/Obligations.lean ====
section
/-! DEFINITION. Obligations.lean: the statements for the provers, and the words they use. -/

open Sys2Proof Sys2Proof.Machine

namespace Sys2Proof.Machine

/-- The number whose bit k is f k. -/
def ofBits (f : Nat → Bool) : W64 := (List.range 64).foldl (fun x k => if f k then x ||| BitVec.twoPow 64 k else x) 0

/-! ### The integer class -/

/-- Number of bits k < w of x with the given value that stand above every bit of the other one. -/
def leadingZeros (x : W64) : Nat → Nat
  | 0 => 0
  | w + 1 => if x.getLsbD w then 0 else leadingZeros x w + 1

/-- Result of an integer instruction of one lane as 04 R80 to R88 give it: header, FN, operands, whether B and C have the type's width,
the value from the operands of a lane. -/
def intRow : Instr → Option (Hdr × IFn × Ops × Bool × Bool × (Args → W64))
  | .iadd h f o => some (h, f, o, true, true, fun x => x.a + x.b)
  | .isub h f o => some (h, f, o, true, true, fun x => x.a - x.b)
  | .imul h f o => some (h, f, o, true, true, fun x => x.a * x.b)
  | .imulh h f o => some (h, f, o, true, true, fun x => .ofInt 64 (ival f.t x.a * ival f.t x.b / 2 ^ f.t.bits))
  | .imad h f o => some (h, f, o, true, true, fun x => x.a * x.b + x.c)
  | .imin h f o => some (h, f, o, true, true, fun x => if ival f.t x.a ≤ ival f.t x.b then x.a else x.b)
  | .imax h f o => some (h, f, o, true, true, fun x => if ival f.t x.a ≤ ival f.t x.b then x.b else x.a)
  | .iabs h f o => some (h, f, o, true, true, fun x => if ival f.t x.a < 0 then -x.a else x.a)
  | .shl h f o => some (h, f, o, false, true, fun x => if (lo32 x.b).toNat < f.t.bits then x.a <<< (lo32 x.b).toNat else 0)
  | .shr h f o => some (h, f, o, false, true, fun x =>
      if (lo32 x.b).toNat < f.t.bits then clip f.t.is64 x.a >>> (lo32 x.b).toNat else 0)
  | .sra h f o => some (h, f, o, false, true, fun x =>
      let n := min (lo32 x.b).toNat (f.t.bits - 1)
      if f.t.is64 then x.a.sshiftRight n else ((lo32 x.a).sshiftRight n).zeroExtend 64)
  | .and h f o => some (h, f, o, true, true, fun x => x.a &&& x.b)
  | .or h f o => some (h, f, o, true, true, fun x => x.a ||| x.b)
  | .xor h f o => some (h, f, o, true, true, fun x => x.a ^^^ x.b)
  | .andn h f o => some (h, f, o, true, true, fun x => x.a &&& ~~~x.b)
  | .popc h f o => some (h, f, o, true, true, fun x => .ofNat 64 ((List.range f.t.bits).filter x.a.getLsbD).length)
  | .clz h f o => some (h, f, o, true, true, fun x => .ofNat 64 (leadingZeros x.a f.t.bits))
  | .brev h f o => some (h, f, o, true, true, fun x => ofBits fun k => k < f.t.bits && x.a.getLsbD (f.t.bits - 1 - k))
  | .bfx h f o => some (h, f, o, false, false, fun x =>
      let p := (lo32 x.b).toNat
      let n := min (lo32 x.c).toNat (f.t.bits - p)
      if n = 0 ∨ f.t.bits ≤ p then 0
      else ofBits fun k => if k < n then x.a.getLsbD (p + k) else f.t.signed && x.a.getLsbD (p + n - 1))
  | .lea h f o => some (h, f, { o with c := .none }, false, true, fun x =>
      x.a + (if f.t.is64 && f.t.signed then (lo32 x.b).signExtend 64 else (lo32 x.b).zeroExtend 64) <<< f.m +
        .ofInt 64 (leaOff h f o.c))
  | .mov h f o => some (h, f, o, true, true, fun x => x.a)
  | .movi h f o => some (h, f, o, true, true, fun x =>
      match h.len with
      | .l64 => if f.t.signed then ((x.a.truncate 8 : Byte)).signExtend 64 else (x.a.truncate 8 : Byte).zeroExtend 64
      | .l96 => if f.t.signed then (lo32 x.a).signExtend 64 else (lo32 x.a).zeroExtend 64
      | .l128 => x.a)
  | _ => none

end Sys2Proof.Machine

/-- 04 R79 to R84, R87, R88: an integer instruction with an active lane completes, and its result, due the stated number of cycles
later, holds for each active lane what the manual computes from that lane's operands, for every source form and every tag of the
sources; the scalar form computes once, from the lowest active lane, and extends to 64 bits.
Model's choices: that BFX of a 64-bit type reads B and C as single registers (log 83), and position, width and shift counts as 32-bit
values (log 18). -/
def Obligations.IntegerResults : Prop :=
  ∀ (i : Instr) (h : Hdr) (f : IFn) (o : Ops) (wb wc : Bool) (val : Args → W64) (s : State) (g : Group) (a : W32),
    intRow i = some (h, f, o, wb, wc, val) → i.WfCore → Acts i s g a →
    let w := f.t.is64
    let v := fun l => val (g.args o w (w && wb) (w && wc) l)
    ∃ ws, Completes i s g a ⟨some (s.now g + (if f.s then 3 else 4) + (if crossed o then 2 else 0)), [], ws⟩ ∧
      if f.s then ScaWritten g (g.commitAll ws) o.d (toScalar f.t (v ((lowest (actOf i g a)).getD 0)))
      else VecWritten g (g.commitAll ws) h.u w (actOf i g a) o.d v

namespace Sys2Proof.Machine

/-- A result of fixed latency or interlocked (none), whose writes turn g into a group of which P holds. -/
def Yields (i : Instr) (s : State) (g : Group) (a : W32) (lat : Option Nat) (P : Group → Prop) : Prop :=
  ∃ ws, Completes i s g a ⟨lat.map (s.now g + ·), [], ws⟩ ∧ P (g.commitAll ws)

/-- The lowest active lane. -/
def lane0 (i : Instr) (g : Group) (a : W32) : Nat := (lowest (actOf i g a)).getD 0

/-- Conditions of ICMP (04 R86). -/
def icmpCond (m : Nat) (x y : Int) : Prop :=
  match m with
  | 0 => x = y
  | 1 => x ≠ y
  | 2 => x < y
  | 3 => x ≤ y
  | 4 => y < x
  | _ => y ≤ x

/-- The bits of `x` from p on, n of them, replaced by the lowest n bits of `y`. -/
def inserted (x y : W64) (p n : Nat) : W64 := ofBits fun k => if p ≤ k ∧ k < p + n then y.getLsbD (k - p) else x.getLsbD k

/-- Bits of BFI and MOVW: where they go, how many, and from what. -/
def insertion (g : Group) : Instr → Option (Hdr × IFn × Nat × Nat × (Nat → Nat × Nat × W64))
  | .bfi h f o => some (h, f, o.d, iLat f.s o, fun l =>
      let p := (lo32 (g.opnd false o.n o.b l)).toNat
      (p, min (lo32 (g.opnd false o.n o.c l)).toNat (f.t.bits - p), g.opnd f.t.is64 o.n o.a l))
  | .movw h f d imm k => some (h, f, d, if f.s then 3 else 4, fun _ => (16 * k, 16, imm.zeroExtend 64))
  | _ => none

end Sys2Proof.Machine

/-- 04 R84, R88: BFI and MOVW replace bits of the old value of D, read by each lane; bits outside the field keep their values.
Model's choices: that BFI of a 64-bit type reads position and width as single registers (log 83), and as 32-bit values (log 18). -/
def Obligations.InsertionResults : Prop :=
  ∀ (i : Instr) (s : State) (g : Group) (a : W32) (h : Hdr) (f : IFn) (d lat : Nat) (ins : Nat → Nat × Nat × W64),
    insertion g i = some (h, f, d, lat, ins) → i.WfCore → Acts i s g a →
    let v := fun (old : W64) l => inserted old (ins l).2.2 (ins l).1 (ins l).2.1
    Yields i s g a (some lat) fun g' =>
      if f.s then ScaWritten g g' d (toScalar f.t (v (g.s d) (lane0 i g a)))
      else VecWritten g g' h.u f.t.is64 (actOf i g a) d fun l => v (laneOf g f.t.is64 d l) l

/-- 04 R85, R86, R89: ISEL picks each lane's operand by its bit of p[C]; ICMP writes the bits of the active lanes of p[D], with U the
one outcome of its compare; PLOP looks each active lane's three bits up in its table; a write to p0 is discarded. -/
def Obligations.SelectAndCompareResults : Prop :=
  ∀ (h : Hdr) (f : IFn) (o : Ops) (s : State) (g : Group) (a : W32),
    (∀ p : Nat, (Instr.isel h f o p).WfCore → Acts (.isel h f o p) s g a →
      Yields (.isel h f o p) s g a (some (4 + if crossed o then 2 else 0)) fun g' =>
        VecWritten g g' false f.t.is64 (actOf (.isel h f o p) g a) o.d fun l =>
          g.opnd f.t.is64 o.n (if (g.p p).getLsbD l then o.a else o.b) l) ∧
    ((Instr.icmp h f o).WfCore → Acts (.icmp h f o) s g a →
      let y := fun l => ival f.t (g.opnd f.t.is64 o.n o.a l)
      let z := fun l => ival f.t (g.opnd f.t.is64 o.n o.b l)
      Yields (.icmp h f o) s g a (some (4 + if crossed o then 2 else 0)) fun g' =>
        ∃ b : Nat → Bool, PrdWritten g g' o.d (actOf (.icmp h f o) g a) b ∧
          ∀ l < 128, (actOf (.icmp h f o) g a).getLsbD l →
            (b l = true ↔ icmpCond f.m (y (if h.u then lane0 (.icmp h f o) g a else l)) (z (if h.u then lane0 (.icmp h f o) g a else l)))) ∧
    (∀ (d p q r : Nat) (lut : Byte), (Instr.plop h d p q r lut).WfCore → Acts (.plop h d p q r lut) s g a →
      Yields (.plop h d p q r lut) s g a (some 4) fun g' =>
        PrdWritten g g' d (actOf (.plop h d p q r lut) g a) fun l =>
          lut.getLsbD (4 * ((g.p p).getLsbD l).toNat + 2 * ((g.p q).getLsbD l).toNat + ((g.p r).getLsbD l).toNat))

namespace Sys2Proof.Machine

/-- Operands of the active lanes that a condition admits, ascending. -/
def operands (m : Mask) (p : Nat → Bool) (f : Nat → W64) : List W64 := ((List.range 128).filter fun l => m.getLsbD l && p l).map f

/-- A vector register or pair of which every lane is written. -/
def AllLanes (g' : Group) (two : Bool) (d : Nat) (f : Nat → W64) : Prop := ∀ l < 128, laneOf g' two d l = clip two (f l)

/-- The predicated instructions of lane movement (04 R90). -/
def lanesRow : Instr → Bool
  | .perm .. | .vote .. | .red .. | .scan .. | .bcast .. | .packl .. => true
  | _ => false

end Sys2Proof.Machine

/-- 04 R90 to R93: PERM reads the lane that B names, VOTE counts or tests p[A] among the active lanes, RED and SCAN combine the active
lanes' values in ascending order; all are interlocked. -/
def Sys2Proof.Machine.LaneCombinationResults : Prop :=
  ∀ (h : Hdr) (o : Ops) (s : State) (g : Group) (a : W32),
    (∀ w : Bool, (Instr.perm h w o).WfCore → Acts (.perm h w o) s g a →
      Yields (.perm h w o) s g a none fun g' =>
        VecWritten g g' false w (actOf (.perm h w o) g a) o.d fun l => g.opnd w o.n o.a ((g.opnd false o.n o.b l).toNat % 128)) ∧
    (∀ d p, ∀ m < 4, (Instr.vote h m d p).WfCore → Acts (.vote h m d p) s g a →
      let act := actOf (.vote h m d p) g a
      let hit := fun l => act.getLsbD l && (g.p p).getLsbD l
      Yields (.vote h m d p) s g a none fun g' =>
        if m = 3 then ScaWritten g g' d (.ofNat 64 ((List.range 128).filter hit).length)
        else PrdWritten g g' d (if m = 2 then BitVec.allOnes 128 else act) fun l =>
          if m = 0 then (List.range 128).all fun k => !act.getLsbD k || (g.p p).getLsbD k
          else if m = 1 then (List.range 128).any hit else hit l) ∧
    (∀ op t, (Instr.red h op t o).WfCore → Acts (.red h op t o) s g a →
      Yields (.red h op t o) s g a none fun g' =>
        ScaWritten g g' o.d (toScalar t ((operands (actOf (.red h op t o) g a) (fun _ => true) (g.opnd t.is64 o.n o.a)).foldl
          (redOp op t) (redIdent op t)))) ∧
    (∀ ex op t, (Instr.scan h ex op t o).WfCore → Acts (.scan h ex op t o) s g a →
      Yields (.scan h ex op t o) s g a none fun g' =>
        VecWritten g g' false t.is64 (actOf (.scan h ex op t o) g a) o.d fun l =>
          (operands (actOf (.scan h ex op t o) g a) (fun k => if ex then k < l else k ≤ l) (g.opnd t.is64 o.n o.a)).foldl
            (redOp op t) (redIdent op t))

/-- 04 R94 to R96: BCAST gives every lane, or a scalar, one lane's value; SHAPE reads a register's tag, its uniform or affine value,
or makes it general; PACKL moves the active lanes' values together and writes zeros behind them, with their count on demand. -/
def Sys2Proof.Machine.LaneSpreadResults : Prop :=
  ∀ (h : Hdr) (s : State) (g : Group) (a : W32),
    (∀ w fromS toS d r xa k, (Instr.bcast h w fromS toS d r xa k).WfCore → Acts (.bcast h w fromS toS d r xa k) s g a →
      let x := g.opnd w 0 (.vec r ⟨xa, xa.implied⟩) (if fromS then (g.s k).toNat % 128 else k)
      Yields (.bcast h w fromS toS d r xa k) s g a none fun g' =>
        if toS then ScaWritten g g' d x
        else AllLanes g' w d (fun _ => x) ∧ (g'.v d).isUni = true ∧ (∀ q < 256, q ≠ d → (w = true → q ≠ d + 1) → g'.v q = g.v q) ∧
          g'.sregs = g.sregs) ∧
    (∀ d r xa n, (Instr.shape h 0 d ⟨r, xa, n⟩).WfCore → Acts (.shape h 0 d ⟨r, xa, n⟩) s g a →
      Yields (.shape h 0 d ⟨r, xa, n⟩) s g a none fun g' =>
        ScaWritten g g' d (match g.v r with | .uni _ => 0 | .aff .. => 1 | .gen _ => 2)) ∧
    (∀ d r xa n, (Instr.shape h 1 d ⟨r, xa, n⟩).WfCore → Acts (.shape h 1 d ⟨r, xa, n⟩) s g a →
      Yields (.shape h 1 d ⟨r, xa, n⟩) s g a none fun g' =>
        ScaWritten g g' d (match g.v r with | .uni u => u.zeroExtend 64 | .aff b t => t ++ b | .gen _ => 0)) ∧
    (∀ d, (Instr.shape h 2 d ⟨0, .id, 0⟩).WfCore → Acts (.shape h 2 d ⟨0, .id, 0⟩) s g a →
      Yields (.shape h 2 d ⟨0, .id, 0⟩) s g a none fun g' =>
        (g'.v d).isGen = true ∧ (∀ l < 128, (g'.v d).get l = (g.v d).get l) ∧ (∀ q < 256, q ≠ d → g'.v q = g.v q) ∧
          g'.sregs = g.sregs) ∧
    (∀ w cnt o k, (Instr.packl h w cnt o k).WfCore → Acts (.packl h w cnt o k) s g a →
      let xs := operands (actOf (.packl h w cnt o k) g a) (fun _ => true) (g.opnd w o.n o.a)
      Yields (.packl h w cnt o k) s g a none fun g' =>
        AllLanes g' w o.d (fun l => (xs[l]?).getD 0) ∧ (cnt = true → g'.s k = .ofNat 64 xs.length) ∧
          (∀ q < 256, q ≠ o.d → (w = true → q ≠ o.d + 1) → g'.v q = g.v q) ∧
          (∀ q < 192, (cnt = true → q ≠ k) → g'.s q = g.s q))

/-- 04 R90 to R93: PERM reads the lane that B names, VOTE counts or tests p[A] among the active lanes, RED and SCAN combine the active
lanes' values in ascending order; all are interlocked. 04 R94 to R96: BCAST gives every lane, or a scalar, one lane's value; SHAPE reads a
register's tag, its uniform or affine value, or makes it general; PACKL moves the active lanes' values together and writes zeros behind
them, with their count on demand. With no active lane they commit nothing.
Model's choices: that PERM of 64 bits reads its index as a single register (log 85), and PACKL's C that holds the count (log 86). -/
def Obligations.LanesCombineAndSpread : Prop := LaneCombinationResults ∧ LaneSpreadResults ∧
  ∀ (i : Instr) (s : State) (g : Group) (a : W32), lanesRow i = true → i.WfCore → Issues i s g a → actOf i g a = 0 →
    ∃ t g', exec i s = .next t ∧ t.grp? g.id = some g' ∧ Fell i g g' a ∧ g'.pend = g.pend ∧ RegsKept g g' ∧ Around g.id g.core s t

namespace Sys2Proof.Machine

/-! ### The floating class -/

/-- Result of a floating instruction of one lane, with its flags: header, format, operands, latency, function of the operand bits
(05 R105 to R115). -/
def floatRow : Instr → Option (Hdr × FTy × Ops × Nat × (Nat → Nat → Nat → FRes))
  | .fadd h f o => some (h, f.f, o, fLat f.f o, fun a b _ => fnFadd (FFn.fmt f) (FFn.mode f) false a b)
  | .fsub h f o => some (h, f.f, o, fLat f.f o, fun a b _ => fnFadd (FFn.fmt f) (FFn.mode f) true a b)
  | .fmul h f o => some (h, f.f, o, fLat f.f o, fun a b _ => fnFmul (FFn.fmt f) (FFn.mode f) a b)
  | .ffma h f o => some (h, f.f, o, fLat f.f o, fun a b c => fnFfma (FFn.fmt f) (FFn.mode f) f.n1 f.n2 a b c)
  | .fmin h f o => some (h, f.f, o, fLat f.f o, fun a b _ => (fnMinMax (FFn.fmt f) false a b, 0))
  | .fmax h f o => some (h, f.f, o, fLat f.f o, fun a b _ => (fnMinMax (FFn.fmt f) true a b, 0))
  | .frcp h f o => some (h, f.f, o, tLat f.f o, fun a _ _ => fnFrcp (FFn.fmt f) (FFn.mode f) a)
  | .fsqrt h f o => some (h, f.f, o, tLat f.f o, fun a _ _ => fnFsqrt (FFn.fmt f) (FFn.mode f) a)
  | .frsq h f o => some (h, f.f, o, tLat f.f o, fun a _ _ => fnFaith .rsq (FFn.fmt f) a)
  | .fexp2 h f o => some (h, f.f, o, tLat f.f o, fun a _ _ => fnFaith .exp2 (FFn.fmt f) a)
  | .flog2 h f o => some (h, f.f, o, tLat f.f o, fun a _ _ => fnFaith .log2 (FFn.fmt f) a)
  | .fsin h f o => some (h, f.f, o, tLat f.f o, fun a _ _ => fnFaith .sin (FFn.fmt f) a)
  | .fcos h f o => some (h, f.f, o, tLat f.f o, fun a _ _ => fnFaith .cos (FFn.fmt f) a)
  | .ftanh h f o => some (h, f.f, o, tLat f.f o, fun a _ _ => fnFaith .tanh (FFn.fmt f) a)
  | .fround h f o => some (h, f.f, o, if crossed o then 8 else 6, fun a _ _ => fnFround (FFn.fmt f) (FFn.mode f) a)
  | _ => none

/-- FPF gathers the flags of the lanes that compute: the active ones, with U the lowest of them (05 R104). -/
def FlagsGathered (g g' : Group) (u : Bool) (act : Mask) (r : Nat → FRes) : Prop :=
  ∀ k < 6, g'.fpf.getLsbD k =
    (g.fpf.getLsbD k || (List.range 128).any fun l =>
      (if u then l == (lowest act).getD 0 else act.getLsbD l) && (r l).2.getLsbD k)

/-- The exact value of a finite number. -/
def Num.rat : Num → Option Rat
  | .fin n m e => some ((if n then -1 else 1) * (m : Rat) * (2 : Rat) ^ e)
  | _ => none

end Sys2Proof.Machine

/-- 05 R104 to R115: a floating instruction with an active lane completes; its result holds, for each active lane, the function of that
lane's operands that its rule gives, and committing it adds the lanes' flags to FPF. -/
def Obligations.FloatResults : Prop :=
  ∀ (i : Instr) (h : Hdr) (f : FTy) (o : Ops) (lat : Nat) (fn : Nat → Nat → Nat → FRes) (s : State) (g : Group) (a : W32),
    floatRow i = some (h, f, o, lat, fn) → i.WfCore → Acts i s g a →
    let w := f == .f64
    let r := fun l => fn (g.opnd w o.n o.a l).toNat (g.opnd w o.n o.b l).toNat (g.opnd w o.n o.c l).toNat
    Yields i s g a (some lat) fun g' =>
      VecWritten g g' h.u w (actOf i g a) o.d (fun l => .ofNat 64 (r l).1) ∧ FlagsGathered g g' h.u (actOf i g a) r

/-- 05 R102, R107: of finite operands FADD, FSUB, FMUL and FFMA give the rounding of the exact sum, difference, product and fused sum,
whatever the format and mode. -/
def Obligations.ExactThenRounded : Prop :=
  ∀ (F : Fmt) (rm : Rm) (a b c : Nat) (x y z : Rat), Num.rat (fv a F) = some x → Num.rat (fv b F) = some y → Num.rat (fv c F) = some z →
    (∀ sub : Bool, ∃ n, Num.rat n = some (if sub then x - y else x + y) ∧ fnFadd F rm sub a b = round n F rm) ∧
    (∃ n, Num.rat n = some (x * y) ∧ fnFmul F rm a b = round n F rm) ∧
    (∀ n1 n2 : Bool, ∃ n, Num.rat n = some ((if n1 then -(x * y) else x * y) + (if n2 then -z else z)) ∧
      fnFfma F rm n1 n2 a b c = round n F rm)

/-- 05 R102: a value that a format holds rounds to its own encoding, in every mode, without a flag. -/
def Sys2Proof.Machine.RoundingIsExactOnFormat : Prop :=
  ∀ F ∈ [Fmt.fp64, Fmt.fp32, Fmt.fp16, Fmt.bf16, Fmt.e5m2, Fmt.e4m3, Fmt.e2m1, Fmt.e3m5], ∀ (rm : Rm) (c : Nat),
    c < 2 ^ F.bits → (Num.rat (fv c F)).isSome → round (fv c F) F rm = (c, 0)

/-- 05 R102: with `.rz` a finite value rounds toward zero: the result's magnitude does not exceed the value's, and the next code above,
where there is one, has a larger magnitude. -/
def Sys2Proof.Machine.RoundTowardZero : Prop :=
  ∀ F ∈ [Fmt.fp64, Fmt.fp32, Fmt.fp16, Fmt.bf16, Fmt.e5m2], ∀ (m : Nat) (e : Int),
    let c := (round (.fin false m e) F .rz).1
    ∃ x, Num.rat (fv c F) = some x ∧ x ≤ (m : Rat) * (2 : Rat) ^ e ∧
      ∀ y, Num.rat (fv (c + 1) F) = some y → (m : Rat) * (2 : Rat) ^ e < y

/-- 05 R108, R109: a NaN is unordered and unequal to everything; two other values stand in exactly one of less, equal and greater, and
the conditions `.le`, `.ge`, `.ne` and `.ord` follow from those. -/
def Sys2Proof.Machine.CompareConditions : Prop :=
  ∀ (F : Fmt) (a b : Nat),
    ((fv a F).isNan = true ∨ (fv b F).isNan = true →
      (∀ k, k = 0 ∨ k = 2 ∨ k = 3 ∨ k = 4 ∨ k = 5 ∨ k = 7 → fnFcmp F k a b = false) ∧ fnFcmp F 1 a b = true ∧ fnFcmp F 6 a b = true) ∧
    ((fv a F).isNan = false → (fv b F).isNan = false →
      [fnFcmp F 0 a b, fnFcmp F 2 a b, fnFcmp F 4 a b].count true = 1 ∧
      fnFcmp F 3 a b = (fnFcmp F 2 a b || fnFcmp F 0 a b) ∧ fnFcmp F 5 a b = (fnFcmp F 4 a b || fnFcmp F 0 a b) ∧
      fnFcmp F 1 a b = !fnFcmp F 0 a b ∧ fnFcmp F 6 a b = false ∧ fnFcmp F 7 a b = true ∧
      fnFcmp F 4 a b = fnFcmp F 2 b a)

/-- 05 R109, R113, R114, R122, R123: FCMP writes the active lanes' outcomes to a predicate; its flag forms read FPF, and `.cflg` clears
it, once no floating instruction is open; FCVT converts each lane, under `.rs` with some draw of rho below 2^16; DQNT rounds each
lane's product of factors; AMAX combines the active lanes' magnitudes into bits 31:0 of s[D]. -/
def Obligations.FloatSideResults : Prop :=
  ∀ (h : Hdr) (s : State) (g : Group) (a : W32),
    (∀ cond f o, (Instr.fcmp h cond f o).WfCore → Acts (.fcmp h cond f o) s g a →
      let w := f == .f64
      Yields (.fcmp h cond f o) s g a (some (fLat f o)) fun g' =>
        PrdWritten g g' o.d (actOf (.fcmp h cond f o) g a) fun l =>
          let k := if h.u then lane0 (.fcmp h cond f o) g a else l
          fnFcmp f.fmt cond (g.opnd w o.n o.a k).toNat (g.opnd w o.n o.b k).toNat) ∧
    (∀ d, (Instr.fcmpRflg h d).WfCore → Acts (.fcmpRflg h d) s g a → g.fpOpen = false →
      Yields (.fcmpRflg h d) s g a none fun g' => ScaWritten g g' d (g.fpf.zeroExtend 64)) ∧
    (∀ d, (Instr.fcmpCflg h d).WfCore → Acts (.fcmpCflg h d) s g a → g.fpOpen = false →
      ∃ t g', exec (.fcmpCflg h d) s = .next t ∧ t.grp? g.id = some g' ∧ g'.fpf = 0 ∧
        g'.pend = g.pend ++ [⟨none, [], [.sset d (g.fpf.zeroExtend 64)]⟩] ∧ Fell (.fcmpCflg h d) g g' a) ∧
    (∀ d r xa n c, (Instr.fcvt h d r xa n c).WfCore → Acts (.fcvt h d r xa n c) s g a →
      ∃ rho : Nat → Nat, (∀ l, rho l < 65536) ∧
        let x := fun l => fnFcvt c (rho l) (g.opnd (cvtRegs c.st == 2) n (.vec r ⟨xa, xa.implied⟩) l).toNat
        Yields (.fcvt h d r xa n c) s g a (some (if xa = .id then 6 else 8)) fun g' =>
          VecWritten g g' h.u (cvtRegs c.dt == 2) (actOf (.fcvt h d r xa n c) g a) d (fun l => .ofNat 64 (x l).1) ∧
          FlagsGathered g g' h.u (actOf (.fcvt h d r xa n c) g a) x) ∧
    (∀ rm bf inp d r xa k, (Instr.dqnt h rm bf inp d r xa k).WfCore → Acts (.dqnt h rm bf inp d r xa k) s g a →
      let x := fun l => dqProd (if bf then Fmt.bf16 else .fp32) (Rm.ofCode rm 0) (dqFactors g inp r xa (bandScale (g.s k)) l)
      Yields (.dqnt h rm bf inp d r xa k) s g a (some (if xa = .id then 6 else 8)) fun g' =>
        VecWritten g g' false false (actOf (.dqnt h rm bf inp d r xa k) g a) d (fun l => .ofNat 64 (x l).1) ∧
        FlagsGathered g g' false (actOf (.dqnt h rm bf inp d r xa k) g a) x) ∧
    (∀ run f d r xa n, (Instr.amax h run f d r xa n).WfCore → Acts (.amax h run f d r xa n) s g a →
      let xs := operands (actOf (.amax h run f d r xa n) g a) (fun _ => true) fun l => (g.xread r ⟨xa, xa.implied⟩ (g.s n) l).zeroExtend 64
      let m := runMax (if run then (lo32 (g.s d)).toNat else 0) (xs.map fun x => fv (x.toNat % 2 ^ f.fmt.bits) f.fmt)
      Yields (.amax h run f d r xa n) s g a none fun g' =>
        ScaWritten g g' d (hi32 (g.s d) ++ BitVec.ofNat 32 (round m .fp32 .rn).1))

/-- 05 R102, R108, R109: a value that a format holds rounds to its own encoding in every mode without a flag; with `.rz` a finite value
rounds toward zero to the nearest magnitude not above it; a NaN is unordered and unequal to everything, two other values stand in exactly one
of less, equal and greater, and `.le`, `.ge`, `.ne` and `.ord` follow from those. -/
def Obligations.RoundingAndComparing : Prop := RoundingIsExactOnFormat ∧ RoundTowardZero ∧ CompareConditions

namespace Sys2Proof.Machine

/-! ### Issue, traps, control -/

/-- A trap of a cause is raised for the lanes `m` at `a`; no lane moves and no result is added (03 R53, 14 R310, R314). -/
def TrapRaised (s t : State) (g : Group) (cause : Nat) (m : Mask) (a : W32) : Prop :=
  ∃ g' tr, t.grp? g.id = some g' ∧ g'.trap = some tr ∧ tr.cause = cause ∧ tr.pc = a ∧ tr.lanes = m ∧ tr.after = false ∧
    g'.pcv = g.pcv ∧ g'.lanes = g.lanes ∧ g'.pend = g.pend ∧ g'.vregs = g.vregs ∧ g'.sregs = g.sregs ∧ g'.preds = g.preds ∧
    g'.hnds = g.hnds ∧ t.dram = s.dram ∧ t.quads = s.quads ∧ t.teams = s.teams

/-- Transfer instructions: the target of each lane (03 R69, R70), and the register of the link. -/
def transferRow (g : Group) (a : W32) : Instr → Option (Option Nat × (Nat → Int))
  | .bra _ imm => some (none, fun _ => a.toNat + imm.toInt)
  | .brx _ src n => some (none, fun l => (g.opnd false n src l).toNat % 2 ^ 32)
  | .ret _ src n => some (none, fun l => (g.opnd false n src l).toNat % 2 ^ 32)
  | .call _ d imm => some (some d, fun _ => a.toNat + imm.toInt)
  | .callx _ d src n => some (some d, fun l => (g.opnd false n src l).toNat % 2 ^ 32)
  | _ => none

/-- A target inside the code segment at which an instruction may begin (03 R68). -/
def GoodTarget (codeEnd : Nat) (t : Int) : Prop := 0 ≤ t ∧ t % 4 = 0 ∧ t % 32 ≠ 28 ∧ t < codeEnd

end Sys2Proof.Machine

/-- 03 R53: outside a rotation the issue address is the smallest PC among the ready lanes, and one of them stands at it. -/
def Obligations.IssueAddressIsLeastReadyPc : Prop :=
  ∀ (g : Group) (a : W32), g.rot = none →
    (g.issueAddr = some a ↔
      (∃ l < 128, nth g.lanes l = .ready ∧ nth g.pcv l = a) ∧ ∀ l < 128, nth g.lanes l = .ready → a.toNat ≤ (nth g.pcv l).toNat)

/-- 02 R34, 03 R53: an encoded instruction without an active lane, unless it is unpredicated, only moves the lanes at its address on:
registers, results, memory, windows and every other group stay. -/
def Obligations.InactiveInstructionFallsThrough : Prop :=
  ∀ (i : Instr) (s : State) (g : Group) (a : W32), i.WfCore → Issues i s g a → actOf i g a = 0 → unpredicated i = false →
    ∃ t g', exec i s = .next t ∧ t.grp? g.id = some g' ∧ Fell i g g' a ∧ g'.pend = g.pend ∧ RegsKept g g' ∧ Around g.id g.core s t

/-- 02 R38 to R40: an instruction held by an interlock changes nothing of its group; otherwise the first of REGIDX, UNIFORM and
STALLSHORT whose check fails is raised for every ready lane at the issue address, and nothing is committed. -/
def Sys2Proof.Machine.ChecksAtIssueInOrder : Prop :=
  ∀ (i : Instr) (s : State) (g : Group) (a : W32), i.WfCore → s.curGrp? = some g → g.issueAddr = some a →
    ((hdrOf i).sp && g.yielding) = false →
    (g.interlocked i = true → exec i s = .next (s.setGrp g)) ∧
    (g.interlocked i = false →
      let idx := g.badIdx (i.reads ++ i.writes)
      let uni := (hdrOf i).u && g.notUniform i.reads
      let stl := g.stallShort i (latency i) (s.now g)
      (idx = true → ∃ t, exec i s = .next t ∧ TrapRaised s t g 0x04 (g.lanesAt a) a) ∧
      (idx = false → uni = true → ∃ t, exec i s = .next t ∧ TrapRaised s t g 0x03 (g.lanesAt a) a) ∧
      (idx = false → uni = false → stl = true → ∃ t, exec i s = .next t ∧ TrapRaised s t g 0x05 (g.lanesAt a) a))

/-- 03 R63: an instruction with SP = 1 met under a request to yield is not executed; the lanes at it are parked. -/
def Sys2Proof.Machine.SafePointParks : Prop :=
  ∀ (i : Instr) (s : State) (g : Group) (a : W32), i.WfCore → s.curGrp? = some g → g.issueAddr = some a →
    (hdrOf i).sp = true → g.yielding = true →
    ∃ t g', exec i s = .next t ∧ t.grp? g.id = some g' ∧ g'.pcv = g.pcv ∧ g'.pend = g.pend ∧ RegsKept g g' ∧ Around g.id g.core s t ∧
      ∀ l < 128, nth g'.lanes l = if (g.lanesAt a).getLsbD l then .parked else nth g.lanes l

/-- 03 R68 to R71: where the target of every active lane passes the checks, the active lanes of BRA, BRX, RET, CALL and CALLX go to their
targets, lanes at the address that are inactive fall through, and CALL and CALLX issue the link, the address of the next instruction,
for the active lanes. -/
def Sys2Proof.Machine.TransfersMoveActiveLanes : Prop :=
  ∀ (i : Instr) (s : State) (g : Group) (a : W32) (link : Option Nat) (tgt : Nat → Int),
    transferRow g a i = some (link, tgt) → i.WfCore → Acts i s g a →
    (∀ l < 128, (actOf i g a).getLsbD l → GoodTarget (s.codeEnd g) (tgt l)) →
    ∃ t g', exec i s = .next t ∧ t.grp? g.id = some g' ∧ RegsKept g g' ∧ Around g.id g.core s t ∧ g'.lanes = g.lanes ∧
      (∀ l < 128, nth g'.pcv l =
        if (actOf i g a).getLsbD l then BitVec.ofNat 32 (tgt l).toNat
        else if (g.lanesAt a).getLsbD l then nextPc a i.size else nth g.pcv l) ∧
      match link with
      | none => g'.pend = g.pend
      | some d => ∃ ws, g'.pend = g.pend ++ [⟨none, [], ws⟩] ∧
          VecWritten g (g.commitAll ws) false false (actOf i g a) d fun _ => (nextPc a i.size).zeroExtend 64

/-- 03 R68: where the target of an active lane fails, the first failing lane decides between FETCHALIGN and PROT, no lane moves and no
link is written. -/
def Sys2Proof.Machine.BadTargetTraps : Prop :=
  ∀ (i : Instr) (s : State) (g : Group) (a : W32) (link : Option Nat) (tgt : Nat → Int) (l : Nat),
    transferRow g a i = some (link, tgt) → i.WfCore → Acts i s g a → l < 128 → (actOf i g a).getLsbD l = true →
    ¬ GoodTarget (s.codeEnd g) (tgt l) → (∀ k < l, (actOf i g a).getLsbD k → GoodTarget (s.codeEnd g) (tgt k)) →
    ∃ t, exec i s = .next t ∧
      TrapRaised s t g (if 0 ≤ tgt l ∧ (tgt l % 4 ≠ 0 ∨ tgt l % 32 = 28) then 0x02 else 0x06) (actOf i g a) a

/-- 02 R45, 03 R75: NOP and YIELD only move lanes on; YIELD ends the slot's greedy run, with `.rot` only where a ready lane stands above,
and then asks for a rotation unless one lasts. -/
def Sys2Proof.Machine.NopAndYield : Prop :=
  ∀ (h : Hdr) (s : State) (g : Group) (a : W32),
    ((Instr.nop h).WfCore → Acts (.nop h) s g a →
      ∃ t g', exec (.nop h) s = .next t ∧ t.grp? g.id = some g' ∧ Fell (.nop h) g g' a ∧ g'.pend = g.pend ∧ RegsKept g g' ∧
        Around g.id g.core s t) ∧
    (∀ rot, (Instr.yield h rot).WfCore → Acts (.yield h rot) s g a → g.core < 192 →
      ∃ t g', exec (.yield h rot) s = .next t ∧ t.grp? g.id = some g' ∧ Fell (.yield h rot) g g' a ∧ g'.pend = g.pend ∧ RegsKept g g' ∧
        t.dram = s.dram ∧ t.teams = s.teams ∧ t.quads = s.quads ∧
        ((rot = false ∨ g.above a ≠ 0) → (nth (t.core g.core).slots (g.slot % 4)).cur = none) ∧
        (rot = true → g.above a ≠ 0 → g.rot = none → g'.rotReq = true))

/-- 03 R72, R73: EXIT that leaves a live lane moves its active lanes to the exited state and the other lanes at its address on; EXIT of the
last live lanes and TAIL end the group while the drydown tracker has room: every lane exits, the handles go, and the group is gone or
drains. -/
def Sys2Proof.Machine.GroupsEnd : Prop :=
  ∀ (i : Instr) (s : State) (g : Group) (a : W32), i.WfCore → Acts i s g a →
    ((∃ h, i = .exit h) → g.live &&& ~~~(actOf i g a) ≠ 0 →
      ∃ t g', exec i s = .next t ∧ t.grp? g.id = some g' ∧ g'.vregs = g.vregs ∧ g'.sregs = g.sregs ∧ g'.pend = g.pend ∧ t.dram = s.dram ∧
        (∀ l < 128, nth g'.lanes l = if (actOf i g a).getLsbD l then .exited else nth g.lanes l) ∧
        (∀ l < 128, (actOf i g a).getLsbD l = false →
          nth g'.pcv l = if (g.lanesAt a).getLsbD l then nextPc a i.size else nth g.pcv l)) ∧
    (((∃ h, i = .exit h) ∧ g.live &&& ~~~(actOf i g a) = 0) ∨ ((∃ h, i = .tail h) ∧ s.untranslated g = false) →
      s.trackerFull g.core = false →
      ∃ t, exec i s = .next t ∧ ∀ g', t.grp? g.id = some g' →
        g'.res = .draining ∧ g'.ended = some true ∧ g'.hnds = .replicate 16 0 ∧ ∀ l < 128, nth g'.lanes l = .exited)

/-- 02 R38 to R40: an instruction held by an interlock changes nothing of its group; otherwise the first of REGIDX, UNIFORM and STALLSHORT
whose check fails is raised for every ready lane at the issue address, and nothing is committed. 03 R63: an instruction with SP = 1 met
under a request to yield is not executed; the lanes at it are parked. -/
def Obligations.ChecksAndSafePoints : Prop := ChecksAtIssueInOrder ∧ SafePointParks

/-- 03 R68 to R71: where the target of every active lane passes the checks, the active lanes of BRA, BRX, RET, CALL and CALLX go to their
targets, lanes at the address that are inactive fall through, and CALL and CALLX issue the link, the address of the next instruction, for
the active lanes. 03 R68: where the target of an active lane fails, the first failing lane decides between FETCHALIGN and PROT, no lane
moves and no link is written. -/
def Obligations.TransfersAndTheirTargets : Prop := TransfersMoveActiveLanes ∧ BadTargetTraps

/-- 02 R45, 03 R75: NOP and YIELD only move lanes on; YIELD ends the slot's greedy run, with `.rot` only where a ready lane stands above,
and then asks for a rotation unless one lasts. 03 R72, R73: EXIT that leaves a live lane moves its active lanes to the exited state and
the other lanes at its address on; EXIT of the last live lanes and TAIL end the group while the drydown tracker has room: every lane
exits, the handles go, and the group is gone or drains.
Model's choices: log 25 and 56. -/
def Obligations.YieldAndEndInstructions : Prop := NopAndYield ∧ GroupsEnd

namespace Sys2Proof.Machine

/-! ### Memory instructions at issue -/

/-- Each lane's access has its place: a window, outside it, or physical memory whose home answers. -/
def Placed (s : State) (ts : Tgts) : Prop :=
  ∀ t ∈ ts, match t.2.2 with
    | .pad .. | .oob => True
    | .mem ps _ => ∀ p ∈ ps, s.dieDown (homeDie p.1) = false
    | _ => False

/-- The pieces of each lane's access in lane order: lane, place, bytes, data; a lane out of range has none (06 R128, R131). -/
def piecesOf (ts : Tgts) (n : Nat) (data : Nat → Nat) : List (Nat × Loc × Nat × Nat) :=
  ts.flatMap fun t => match t.2.2 with
    | .pad tm o => [(t.1, Loc.pad tm o, n, data t.1)]
    | .mem ps cls => (List.range ps.length).map fun k =>
        let p := (ps[k]?).getD (0, 0)
        (t.1, Loc.mem p.1 cls, p.2, data t.1 / 2 ^ (32 * k) % 2 ^ (8 * p.2))
    | _ => []

/-- Entries of a kind follow those that the group's outbound queue held (08 R170). -/
def Queued (g g' : Group) (es : List Entry) (k : Nat → EKind) (acq rel : Nat) (want : List (Nat × Loc × Nat × Nat)) : Prop :=
  (∃ old, g'.obq = old ++ es ∧ old.map (·.uid) = g.obq.map (·.uid)) ∧
  es.map (fun e => (e.lane, e.loc, e.n, e.data)) = want ∧
  ∀ e ∈ es, e.kind = k e.lane ∧ e.stage = .queued ∧ e.acq = acq ∧ e.rel = rel

/-- No byte of memory, of a spiral, of a window or of an L1 changes. -/
def BytesKept (s t : State) : Prop :=
  t.dram = s.dram ∧ t.quads = s.quads ∧ t.teams = s.teams ∧ ∀ c < 192, (t.core c).l1 = (s.core c).l1

/-- The registers of a group; DONEM, SPOOB and SPOOBA are a memory instruction's to write. -/
def FilesKept (g g' : Group) : Prop :=
  g'.vregs = g.vregs ∧ g'.sregs = g.sregs ∧ g'.preds = g.preds ∧ g'.hnds = g.hnds ∧ g'.fpf = g.fpf ∧ g'.friv = g.friv ∧
  g'.sbchk = g.sbchk ∧ g'.trapc = g.trapc ∧ g'.trap = g.trap

/-- DONEM and the out-of-range latch after an instruction whose active lanes all completed (06 R131, R143). -/
def Latched (i : Instr) (g g' : Group) (a : W32) (ts : Tgts) : Prop :=
  g'.donem = g.donem ||| actOf i g a ∧
  match ts.find? fun t => t.2.2 == .oob with
  | some t => g'.spoob = true ∧ g'.spooba = if g.spoob then g.spooba else t.2.1.va
  | none => g'.spoob = g.spoob ∧ g'.spooba = g.spooba

/-- Loads and stores of vectors: operands, whether they are window forms, and the access kind of translation. -/
def vecMemRow : Instr → Option (MemOp × Bool × AccKind)
  | .ld _ o => some (o, false, 0)
  | .lds _ o => some (o, true, 0)
  | .st _ o => some (o, false, 1)
  | .sts _ o => some (o, true, 1)
  | _ => none

/-- Targets of a vector load or store in the state in which its meaning begins. -/
def memTgts (i : Instr) (s : State) (g : Group) (a : W32) (o : MemOp) (win : Bool) (k : AccKind) : Tgts :=
  (startOf s g a).tgts (issueOf i g a) k true (memAdr o win (log2Size o.sz)) (szBytes o.sz)

/-- Data of lane l of a vector store: the low bytes of v[D] and its following registers (06 R138). -/
def stData (g : Group) (o : MemOp) (l : Nat) : Nat :=
  ((List.range (szRegs o.sz)).map fun k => (g.xread (o.d + k) ⟨.id, 0⟩ 0 l).toNat * 2 ^ (32 * k)).sum % 2 ^ (8 * szBytes o.sz)

end Sys2Proof.Machine

/-- 06 R136 to R138, R143, 08 R170: a vector load or store whose every access has its place completes: its lanes fall through, its
accesses enter the outbound queue in lane order at the addresses its operands give, a load's result waits for exactly those entries
(lanes out of range read 0), and no byte of memory changes. -/
def Obligations.VectorAccessesEnterQueue : Prop :=
  ∀ (i : Instr) (o : MemOp) (win : Bool) (k : AccKind) (s : State) (g : Group) (a : W32),
    vecMemRow i = some (o, win, k) → i.WfCore → o.fe = 0 → Acts i s g a →
    let ts := memTgts i s g a o win k
    Placed s ts →
    ∃ t g' es, exec i s = .next t ∧ t.grp? g.id = some g' ∧ Fell i g g' a ∧ FilesKept g g' ∧ BytesKept s t ∧ Latched i g g' a ts ∧
      Queued g g' es (fun _ => if k = 1 then .store else .load) (if k = 1 then 0 else o.ord) (if k = 1 then o.ord else 0)
        (piecesOf ts (szBytes o.sz) (if k = 1 then stData g o else fun _ => 0)) ∧
      if k = 1 then g'.pend = g.pend
      else ∃ zs, g'.pend = g.pend ++ [⟨none, es.map (·.uid), .ld o.d o.sz :: zs⟩] ∧
        ∀ r < 256, ∀ l < 128, ((g.commitAll zs).v r).get l =
          if (o.d ≤ r ∧ r < o.d + szRegs o.sz) ∧ (∃ t ∈ ts, t.1 = l ∧ t.2.2 = .oob) then 0 else (g.v r).get l

/-- 06 R125, R136: where the address of an active lane of a vector load or store has no aperture or is not a multiple of its size, the
group takes PROT with the lowest failing lane and its address, and nothing else happens. -/
def Sys2Proof.Machine.BadAddressTraps : Prop :=
  ∀ (i : Instr) (o : MemOp) (win : Bool) (k : AccKind) (s : State) (g : Group) (a : W32) (l : Nat) (x : Adr),
    vecMemRow i = some (o, win, k) → i.WfCore → o.fe = 0 → Acts i s g a →
    ((memTgts i s g a o win k).find? fun t => t.2.2 == .prot) = some (l, x, .prot) →
    ∃ t g' tr, exec i s = .next t ∧ TrapRaised s t g 0x06 (actOf i g a) a ∧ t.grp? g.id = some g' ∧ g'.trap = some tr ∧
      tr.lane = l ∧ tr.va = x.va ∧ g'.obq.map (·.uid) = g.obq.map (·.uid) ∧ BytesKept s t

/-- 06 R144, 03 R62: a vector load or store one of whose lanes fails translation makes a fault record for its page: those lanes wait on the
record at the instruction, and the lanes that do not fail fall through. -/
def Sys2Proof.Machine.FaultingLanesWait : Prop :=
  ∀ (i : Instr) (o : MemOp) (win : Bool) (k : AccKind) (s : State) (g : Group) (a : W32) (l0 : Nat) (x : Adr) (cause base size : Nat),
    vecMemRow i = some (o, win, k) → i.WfCore → o.fe = 0 → o.xa = .id → o.xb = .id → Acts i s g a →
    (∀ t ∈ memTgts i s g a o win k, t.2.2 = .fault (.fail cause base size) ∨ Placed s [t]) →
    ((memTgts i s g a o win k).find? fun t => t.2.2 == .fault (.fail cause base size)) = some (l0, x, .fault (.fail cause base size)) →
    let stays := fun l => (memTgts i s g a o win k).any fun t => t.1 == l && t.2.2 == .fault (.fail cause base size)
    ∃ t g' c f, exec i s = .next t ∧ t.grp? g.id = some g' ∧ t.ctx? (s.grpCtx g) = some c ∧
      c.faults = (s.ctxD (s.grpCtx g)).faults ++ [f] ∧ f.va = x.va ∧ f.pc = a ∧ f.cause = cause ∧ f.acc = k ∧ f.page = base ∧
      f.psize = size ∧ f.who = 0 ∧ f.grp = g.id ∧ f.seq = none ∧ f.lanes = ((List.range 128).filter stays).length ∧
      ∀ l < 128, (nth g'.lanes l = if stays l then .waiting (.fault f.uid) else nth g.lanes l) ∧
        nth g'.pcv l = if stays l then a else if (g.lanesAt a).getLsbD l then nextPc a i.size else nth g.pcv l

/-- 06 R138, R140: LDU and STU make one access, by the lowest active lane, at s[A] plus the offset; its result goes to every lane or to a
scalar, and no byte of memory changes yet. -/
def Obligations.UniformAccessesEnterQueue : Prop :=
  ∀ (h : Hdr) (o : MemOp) (s : State) (g : Group) (a : W32), o.fe = 0 →
    ((Instr.ldu h o).WfCore → Acts (.ldu h o) s g a →
      let ts := (startOf s g a).oneTgt (issueOf (.ldu h o) g a) 0 o (szBytes o.sz)
      Placed s ts →
      ∃ t g' es, exec (.ldu h o) s = .next t ∧ t.grp? g.id = some g' ∧ Fell (.ldu h o) g g' a ∧ FilesKept g g' ∧ BytesKept s t ∧
        Latched (.ldu h o) g g' a ts ∧ Queued g g' es (fun _ => .load) o.ord 0 (piecesOf ts (szBytes o.sz) fun _ => 0) ∧
        g'.pend = g.pend ++ [⟨none, es.map (·.uid), [.ldu o.d o.sz o.bv]⟩]) ∧
    ((Instr.stu h o).WfCore → Acts (.stu h o) s g a →
      let ts := (startOf s g a).oneTgt (issueOf (.stu h o) g a) 1 o (szBytes o.sz)
      Placed s ts →
      ∃ t g' es, exec (.stu h o) s = .next t ∧ t.grp? g.id = some g' ∧ Fell (.stu h o) g g' a ∧ FilesKept g g' ∧ BytesKept s t ∧
        Latched (.stu h o) g g' a ts ∧ g'.pend = g.pend ∧
        Queued g g' es (fun _ => .store) 0 o.ord (piecesOf ts (szBytes o.sz) fun _ =>
          if o.bv then (g.s o.d).toNat % 2 ^ (8 * szBytes o.sz) else stData g o (lane0 (.stu h o) g a)))

/-- 06 R125, R136: where the address of an active lane of a vector load or store has no aperture or is not a multiple of its size, the
group takes PROT with the lowest failing lane and its address, and nothing else happens. 06 R144, 03 R62: a vector load or store one of
whose lanes fails translation makes a fault record for its page: those lanes wait on the record at the instruction, and the lanes that do
not fail fall through. -/
def Obligations.BadAndUnmappedAddresses : Prop := BadAddressTraps ∧ FaultingLanesWait

namespace Sys2Proof.Machine

/-! ### Atomics, reservations, markers, full/empty bits -/

/-- ATOM, ATOMS and LR: operands, whether the form addresses the window, the access kind of translation. -/
def atomRow : Instr → Option (AtomOp × Bool × AccKind)
  | .atom _ o => some (o, false, 2)
  | .atoms _ o => some (o, true, 2)
  | .lr _ o => some (o, false, 0)
  | _ => none

/-- Bytes of an atomic access. -/
def atomBytes (o : AtomOp) : Nat := if o.w64 then 8 else 4

/-- Targets of an atomic, LR or SC in the state in which its meaning begins. -/
def atomTgts (i : Instr) (s : State) (g : Group) (a : W32) (o : AtomOp) (win : Bool) (k : AccKind) : Tgts :=
  (startOf s g a).tgts (issueOf i g a) k true (atomAdr o win) (atomBytes o)

/-- The operand of lane l in a register, or a pair for 8 bytes. -/
def atomArg (g : Group) (o : AtomOp) (r l : Nat) : Nat := (g.opnd o.w64 0 (.vec r ⟨.id, 0⟩) l).toNat

/-- The one access of each lane in lane order: lane, place, bytes, data; a lane out of range has none. It has all its bytes in private
memory too, where they lie in two runs (06 R128, R131, 08 R189). -/
def wholesOf (ts : Tgts) (n : Nat) (data : Nat → Nat) : List (Nat × Loc × Nat × Nat) :=
  ts.filterMap fun t => match t.2.2 with
    | .pad tm o => some (t.1, Loc.pad tm o, n, data t.1)
    | .mem ps cls => (ps[0]?).map fun p => (t.1, Loc.mem p.1 cls, n, data t.1)
    | _ => none

/-- A result that waits for entries; lanes out of range read 0 at once (06 R131). -/
def ReadsInto (g g' : Group) (ts : Tgts) (es : List Entry) (d sz n : Nat) : Prop :=
  ∃ zs, g'.pend = g.pend ++ [⟨none, es.map (·.uid), .ld d sz :: zs⟩] ∧
    ∀ r < 256, ∀ l < 128, ((g.commitAll zs).v r).get l =
      if (d ≤ r ∧ r < d + n) ∧ (∃ t ∈ ts, t.1 = l ∧ t.2.2 = .oob) then 0 else (g.v r).get l

/-- A lane's reservation names the block of the address it computes (08 R192). -/
def holdsBlock (s : State) (g : Group) (t : Nat × Adr × Tgt) : Bool :=
  ((s.core g.core).resv.find? fun r => r.grp == g.id && r.lane == t.1).map (·.va) == some (t.2.1.va.toNat / 16 * 16)

/-- Every active lane names a granule of a window that is full, and stays so behind the group's own earlier accesses, none of which holds this
one back. -/
def AtBanks (s : State) (g : Group) (ts : Tgts) (acq : Nat) (fc : Bool) : Prop :=
  ∀ t ∈ ts, match t.2.2 with
    | .pad tm o => s.padFree g (.pad tm (o / 16 * 16)) 16 acq 0 (.feload fc) = true ∧ s.granFull (tm, o / 16) = true ∧
        s.granSeen g (tm, o / 16) = true
    | _ => False

/-- Every active lane names a granule of a window, or lies out of range of one. -/
def InWindows (ts : Tgts) : Prop := ∀ t ∈ ts, match t.2.2 with
  | .pad .. | .oob => True
  | _ => False

/-- The values that full/empty loads take: the window's bytes, each entry performed at its bank. -/
def TakenAtBanks (s : State) (g g' : Group) (ts : Tgts) (n : Nat) (es : List Entry) : Prop :=
  (∃ old, g'.obq = old ++ es ∧ old.map (·.uid) = g.obq.map (·.uid)) ∧
  es.map (fun e => (e.lane, e.stage, e.val)) = ts.map fun t => (t.1, Stage.done, match t.2.2 with
    | .pad tm o => s.padRead tm o n
    | _ => 0)

/-- Full/empty bits after an instruction: those it names hold `b`, the others stay; no window byte changes. -/
def GransSet (s t : State) (ts : Tgts) (b : Bool) : Prop :=
  (∀ tm k, t.granFull (tm, k) =
    if ts.any (fun x => x.2.2.gran == some (tm, k)) then (b && (s.team? tm).isSome) else s.granFull (tm, k)) ∧
  ∀ tm, (t.team? tm).map (·.win) = (s.team? tm).map (·.win)

end Sys2Proof.Machine

/-- 08 R170, R189 to R191: an atomic or an LR whose every access has its place enters the outbound queue in lane order with its operation and
operands; its result waits for those entries, `.nr` has none, and no byte of memory changes at issue. An LR is stated outside a rotation,
whose end takes the reservation to come (log 24).
Model's choice: that 8 bytes of private memory are one entry of two pieces (log 21). -/
def Obligations.AtomicsEnterQueue : Prop :=
  ∀ (i : Instr) (o : AtomOp) (win : Bool) (k : AccKind) (s : State) (g : Group) (a : W32),
    atomRow i = some (o, win, k) → i.WfCore → Acts i s g a → (k = 0 → g.rot = none) →
    let ts := atomTgts i s g a o win k
    Placed s ts →
    ∃ t g' es, exec i s = .next t ∧ t.grp? g.id = some g' ∧ Fell i g g' a ∧ FilesKept g g' ∧ BytesKept s t ∧ Latched i g g' a ts ∧
      (if k = 0 then
        Queued g g' es (fun _ => .lr) (if o.kind = 1 then o.scope else 0) 0 (wholesOf ts (atomBytes o) fun _ => 0) ∧
        ReadsInto g g' ts es o.d (if o.w64 then 5 else 4) (if o.w64 then 2 else 1)
      else
        Queued g g' es (fun l => .atom o.op o.sgn (if o.op = 7 then atomArg g o o.e l else 0)) (if o.kind % 2 = 1 then o.scope else 0)
          (if 2 ≤ o.kind then o.scope else 0) (wholesOf ts (atomBytes o) (atomArg g o o.c)) ∧
        if o.nr then g'.pend = g.pend else ReadsInto g g' ts es o.d (if o.w64 then 5 else 4) (if o.w64 then 2 else 1))

/-- 08 R192: once the group's LRs are performed, SC's lanes whose reservation names the block of their address enter the queue with their data,
and the others fail at once: their bits of p[D] are 0.
Model's choices: that 8 bytes of private memory are one entry of two pieces (log 21), and that the block is told by its virtual address (log
102). -/
def Obligations.ConditionalStoresNeedReservation : Prop :=
  ∀ (h : Hdr) (o : AtomOp) (s : State) (g : Group) (a : W32), (Instr.sc h o).WfCore → Acts (.sc h o) s g a →
    (∀ e ∈ g.obq, e.kind = .lr → e.stage = .done) →
    let ts := atomTgts (.sc h o) s g a o false 2
    let mine := ts.filter fun t => holdsBlock (startOf s g a) g t && t.2.2 != .oob
    Placed s ts →
    ∃ t g' es ws, exec (.sc h o) s = .next t ∧ t.grp? g.id = some g' ∧ Fell (.sc h o) g g' a ∧ FilesKept g g' ∧ BytesKept s t ∧
      Latched (.sc h o) g g' a ts ∧
      Queued g g' es (fun _ => .sc) 0 (if o.kind = 2 then o.scope else 0) (wholesOf mine (atomBytes o) (atomArg g o o.c)) ∧
      g'.pend = g.pend ++ [⟨none, es.map (·.uid), ws ++ [.pbits o.d]⟩] ∧
      PrdWritten g (g.commitAll ws) o.d (actOf (.sc h o) g a &&& ~~~(maskOf fun l => mine.any (·.1 == l))) fun _ => false

/-- 08 R170, R188: FENCE puts one marker of its kind and scope behind the group's earlier entries, whatever lanes are active, and goes on; an
acquire kind carries the scope as its acquire. -/
def Sys2Proof.Machine.FenceMarksQueue : Prop :=
  ∀ (h : Hdr) (kind scope : Nat) (s : State) (g : Group) (a : W32), (Instr.fence h kind scope).WfCore → Acts (.fence h kind scope) s g a →
    ∃ t g' e, exec (.fence h kind scope) s = .next t ∧ t.grp? g.id = some g' ∧ Fell (.fence h kind scope) g g' a ∧ FilesKept g g' ∧
      BytesKept s t ∧ g'.pend = g.pend ∧ g'.donem = g.donem ∧ g'.spoob = g.spoob ∧
      Queued g g' [e] (fun _ => .fence kind scope) (if kind = 2 then 0 else scope) 0 [(128, .nowhere, 0, 0)]

/-- 06 R139, R140: a `.fw` or `.fc` load whose granules are full takes the window's bytes at once; `.fc` leaves its granules empty, `.fw`
leaves them full; two lanes of one `.fc` load are taken only from two granules.
Model's choice: that a full granule behind the group's own earlier accesses is what those leave (log 20). -/
def Obligations.FullEmptyLoadsTakeFullGranules : Prop :=
  (∀ (i : Instr) (o : MemOp) (win : Bool) (s : State) (g : Group) (a : W32),
    vecMemRow i = some (o, win, 0) → i.WfCore → o.fe ≠ 0 → Acts i s g a →
    let ts := memTgts i s g a o win 0
    AtBanks (startOf s g a) (g.onPath a) ts o.ord (o.fe == 2) → (o.fe = 2 → (ts.map fun t => t.2.2.gran).Nodup) →
    ∃ t g' es, exec i s = .next t ∧ t.grp? g.id = some g' ∧ Fell i g g' a ∧ FilesKept g g' ∧ Latched i g g' a ts ∧ t.dram = s.dram ∧
      TakenAtBanks s g g' ts (szBytes o.sz) es ∧ GransSet s t ts (o.fe == 1) ∧
      g'.pend = g.pend ++ [⟨none, es.map (·.uid), [.ld o.d o.sz]⟩]) ∧
  (∀ (h : Hdr) (o : MemOp) (s : State) (g : Group) (a : W32), (Instr.ldu h o).WfCore → o.fe ≠ 0 → Acts (.ldu h o) s g a →
    let ts := (startOf s g a).oneTgt (issueOf (.ldu h o) g a) 0 o (szBytes o.sz)
    AtBanks (startOf s g a) (g.onPath a) ts o.ord (o.fe == 2) →
    ∃ t g' es, exec (.ldu h o) s = .next t ∧ t.grp? g.id = some g' ∧ Fell (.ldu h o) g g' a ∧ FilesKept g g' ∧ t.dram = s.dram ∧
      TakenAtBanks s g g' ts (szBytes o.sz) es ∧ GransSet s t ts (o.fe == 1) ∧
      g'.pend = g.pend ++ [⟨none, es.map (·.uid), [.ldu o.d o.sz o.bv]⟩])

/-- 06 R139, R141: when its entries leave, FESET and FETEST act at the bank of the granule: FETEST answers whether it is full, FESET makes it
full or empty, and no byte of a window changes. Stated for an entry that is alone at its granule. -/
def Sys2Proof.Machine.FullEmptyBitsAtBanks : Prop :=
  ∀ (s : State) (gid i : Nat) (copy : Bool) (g : Group) (e : Entry) (set : Option Bool) (tm o : Nat) (x : Team),
    s.grp? gid = some g → g.obq[i]? = some e → e.kind = .fe set → e.loc = .pad tm o → e.stage = .queued → e.acq = 0 →
    (g.obq.map (·.uid)).Nodup → g.granMates e = [e] → s.heldBack g i e false = false → s.team? tm = some x → o < x.size →
    let u := s.atBank g e
    (∃ g' e', u.grp? gid = some g' ∧ g'.obq[i]? = some e' ∧ e'.uid = e.uid ∧ e'.stage = .done ∧ e'.val = (s.granFull (tm, o / 16)).toNat) ∧
    (∀ k, u.granFull (tm, k) = match set with
      | some b => if k = o / 16 then b else s.granFull (tm, k)
      | none => s.granFull (tm, k)) ∧
    u.dram = s.dram ∧ u.quads = s.quads ∧ (∀ z, (u.team? z).map (·.win) = (s.team? z).map (·.win)) ∧
    ∃ t, exec (.queueLeave gid i copy) s = .next t ∧ ((∀ y ∈ s.teams, y.bankq = []) → t.teams = u.teams ∧ t.dram = u.dram ∧ t.quads = u.quads)

/-- 06 R141, R142: FESET and FETEST enter the outbound queue with the granules of the active lanes, whatever holds their banks; FETEST's result
in p[D] waits for its entries, out of range being empty; PF changes no register and no byte, and its requests alone follow the group's
entries. -/
def Sys2Proof.Machine.FullEmptyBitsAndPrefetch : Prop :=
  ∀ (h : Hdr) (o : MemOp) (s : State) (g : Group) (a : W32),
    let ts := fun (i : Instr) (sh : Nat) => (startOf s g a).tgts (issueOf i g a) 0 false (memAdr o false sh) 1
    let enters := fun (i : Instr) (set : Option Bool) (t : State) (g' : Group) (es : List Entry) =>
      t.grp? g.id = some g' ∧ Fell i g g' a ∧ FilesKept g g' ∧ BytesKept s t ∧ Latched i g g' a (ts i 4) ∧
        Queued g g' es (fun _ => .fe set) 0 0 (piecesOf (ts i 4) 1 fun _ => 0)
    ((Instr.feset h o).WfCore → Acts (.feset h o) s g a → InWindows (ts (.feset h o) 4) →
      ∃ t g' es, exec (.feset h o) s = .next t ∧ enters (.feset h o) (some (o.sz == 1)) t g' es ∧ g'.pend = g.pend) ∧
    ((Instr.fetest h o).WfCore → Acts (.fetest h o) s g a → InWindows (ts (.fetest h o) 4) →
      ∃ t g' es ws, exec (.fetest h o) s = .next t ∧ enters (.fetest h o) none t g' es ∧
        g'.pend = g.pend ++ [⟨none, es.map (·.uid), ws ++ [.pbits o.d]⟩] ∧
        PrdWritten g (g.commitAll ws) o.d (maskOf fun l => (ts (.fetest h o) 4).any fun x => x.1 == l && x.2.2 == .oob) fun _ => false) ∧
    ((Instr.pf h o).WfCore → Acts (.pf h o) s g a → (∀ x ∈ ts (.pf h o) 0, x.2.2 ≠ .prot) →
      ∃ t g' old es, exec (.pf h o) s = .next t ∧ t.grp? g.id = some g' ∧ Fell (.pf h o) g g' a ∧ FilesKept g g' ∧ g'.pend = g.pend ∧
        g'.donem = g.donem ∧ g'.spoob = g.spoob ∧ g'.spooba = g.spooba ∧ BytesKept s t ∧ g'.obq = old ++ es ∧
        old.map (·.uid) = g.obq.map (·.uid) ∧ ∀ e ∈ es, e.kind = .pf)

/-- 08 R170, R188: FENCE puts one marker of its kind and scope behind the group's earlier entries, whatever lanes are active, and goes on;
an acquire kind carries the scope as its acquire. 06 R141, R142: FESET and FETEST enter the outbound queue with the granules of the active
lanes, whatever holds their banks; at its bank FESET sets the granule's bit and moves no byte, and FETEST reads it into p[D], out of range
as empty; PF changes no register and no byte, and its requests alone follow the group's entries.
Model's choices: that FESET and FETEST enter the outbound queue and leave it later (log 20), and that PF brings a private line near (log
103). -/
def Obligations.FencesBitsAndPrefetch : Prop := FenceMarksQueue ∧ FullEmptyBitsAtBanks ∧ FullEmptyBitsAndPrefetch

namespace Sys2Proof.Machine

/-! ### Spiral instructions -/

/-- What an address of a spiral instruction names, in the state in which its meaning begins. -/
def spNames (s : State) (g : Group) (a : W32) (l : Nat) (ea : W64) : SpAt := (startOf s g a).spAt (g.onPath a) l ea

/-- What SPDIST reports of a tile that a spiral can hold, to a core (07 R162): its settled position or 0xFFFF, whether it is pinned, whether its
home is another die's, and whether the core's quadrant has a copy. -/
def spWord (s : State) (core pa : Nat) : Nat :=
  (match s.homeTile? pa with
   | some t => t.pos.getD 0xFFFF + if s.cores.toList.any (fun c => c.pins.any (·.1 == tileOf pa)) then 2 ^ 16 else 0
   | none => 0xFFFF) + (if homeDie pa = core / 48 then 0 else 2 ^ 17) +
  if ((s.quad (core / 12)).tiles.find? fun t => t.addr == tileOf pa).any (·.copy) then 2 ^ 18 else 0

/-- The tile that an address names for a spiral: none for a window, a page without a valid translation, and peer memory. -/
def spTileAt : SpAt → Option Nat
  | .page pa => if homeDie pa < 4 then some pa else none
  | _ => none

/-- One query of a tile follows the group's queue, and nothing else of the machine changes (07 R161, 18 R373). -/
def AsksTile (i : Instr) (s t : State) (g g' : Group) (a : W32) (q : Query) (pa : Nat) (e : Entry) : Prop :=
  t.grp? g.id = some g' ∧ Fell i g g' a ∧ FilesKept g g' ∧ g'.donem = g.donem ∧ BytesKept s t ∧
    (t.core g.core).pins = (s.core g.core).pins ∧ t.net = s.net ∧ Queued g g' [e] (fun _ => .query q) 0 0 [(128, .mem pa 0, 4, 0)]

/-- The request's entry is performed with a value where something needs it. -/
def EntryPerformed (s u : State) (r : Req) (v : Nat) : Prop :=
  ∀ g e, s.grp? r.grp = some g → g.ent? r.ent = some e → r.grp ≠ 0 → ∃ g' e', u.grp? r.grp = some g' ∧ g'.ent? r.ent = some e' ∧
    e'.stage = .done ∧ e'.val = v

/-- An access applied at the home point of its own die is performed; one of another die is answered with its value and the home's table,
in which a write counts (08 R174). -/
def Answered (s u : State) (r : Req) (v : Nat) : Prop :=
  (r.home = r.srcDie → u.replies = s.replies ∧ EntryPerformed s u r v) ∧
  (r.home ≠ r.srcDie → r.write = false → u.replies = s.replies ++ [⟨r, v, (s.die r.home).dep⟩]) ∧
  (r.home ≠ r.srcDie → r.write = true → ∃ tab, u.replies = s.replies ++ [⟨r, v, tab⟩] ∧
    ∀ x < 5, ∀ j < 4, depAt tab x j = if j = r.home then (if x = r.srcDie then (r.stamp[r.srcDie]?).getD 0 else depAt (s.die r.home).dep x j)
      else max (depAt (s.die r.home).dep x j) (depAt r.table x j))

/-- The entry that a request serves is no acquire beyond `.dev`. -/
def SmallAcquire (s : State) (r : Req) : Prop := ∀ g e, s.grp? r.grp = some g → g.ent? r.ent = some e → e.acq ≤ 4

/-- No spiral holds the request's tile, nothing that a spiral accepted for it is pending, and its front has not closed the cycle (07 R154). -/
def Unheld (s : State) (r : Req) : Prop :=
  (s.quad r.quad).tile? (tileOf r.pa) = none ∧ (s.quad r.quad).busyAt (tileOf r.pa) = false ∧
    s.acceptCycle r.quad = (s.die (r.quad / 4)).cycle

/-- What a quadrant accepted for a tile has reached it in this cycle, all that was accepted before it for the tile is applied, and the front has
not closed the cycle (07 R154, R155). -/
def AtTile (s : State) (q pa : Nat) (way : Way) (key : Nat × Nat × Nat) : Prop :=
  way.ready = true ∧ s.acceptCycle q = (s.die (q / 4)).cycle ∧
  (∀ b ∈ (s.quad q).accs, tileOf b.req.pa = tileOf pa → earlier b.key key = false) ∧
  ∀ p ∈ (s.quad q).pulls, tileOf p.req.pa = tileOf pa → earlier p.key key = false

/-- A query of a core's group for a tile. -/
structure Asks (r : Req) (k : Query) (pa : Nat) : Prop where
  kind : r.kind = .query k
  loc  : r.loc = .mem pa 0
  home : r.home = homeDie pa ∧ homeDie pa < 4
  src  : r.src < 192 ∧ r.grp ≠ 0
  one  : r.fill = 0 ∧ r.write = false

/-- What a query finds (07 R162 to R164): its value, and the pins of its core after it. A group that has ended pins nothing. -/
def queryFinds (s : State) (r : Req) (pa : Nat) (k : Query) : Nat × List (Nat × Nat) :=
  let pins := (s.core r.src).pins
  match k with
  | .dist => (spWord s r.src pa, pins)
  | .pin =>
    if (s.grp? r.grp).any (fun g => g.res == .resident) = false then (0, pins)
    else if pins.contains (tileOf pa, r.grp) then (1, pins)
    else if 4 ≤ pins.length then (0, pins)
    else (1, pins ++ [(tileOf pa, r.grp)])
  | .unpin => (0, pins.filter (· != (tileOf pa, r.grp)))
  | .pull _ => (0, pins)

/-- The query is answered; no byte and no place of a tile changes. A pin of a tile that is not held asks for its insertion. -/
def QueryAnswered (s u : State) (r : Req) (pa : Nat) (k : Query) : Prop :=
  u.dram = s.dram ∧ u.teams = s.teams ∧ (u.core r.src).pins = (queryFinds s r pa k).2 ∧
  (∀ q < 16, (u.quad q).tiles.map (fun t => (t.addr, t.copy, t.pos, t.bytes, t.dirty)) =
    (s.quad q).tiles.map fun t => (t.addr, t.copy, t.pos, t.bytes, t.dirty)) ∧
  ((s.quad (homeQuad pa)).tile? (tileOf pa) = none → (queryFinds s r pa k).2.length = (s.core r.src).pins.length + 1 →
    ∃ p ∈ (u.quad (homeQuad pa)).promos, p.tile = tileOf pa ∧ p.copy = false) ∧
  Answered s u r (queryFinds s r pa k).1

/-- Range operations: their number, base and length registers. -/
def rangeRow : Instr → Option (Nat × Nat × Nat)
  | .spclean _ a b => some (0, a, b)
  | .spinv _ a b => some (1, a, b)
  | .spflush _ a b => some (2, a, b)
  | _ => none

end Sys2Proof.Machine

/-- 07 R161, R162: SPDIST sends one query for each active lane whose address names a tile, in lane order; the result waits for them, and the
other active lanes read 0x8FFFF. -/
def Sys2Proof.Machine.DistanceAsksTiles : Prop :=
  ∀ (h : Hdr) (d x n : Nat) (bv : Bool) (xa : Pat) (s : State) (g : Group) (a : W32),
    let i := Instr.spdist h d x bv xa n
    let ea := fun l => if bv then g.xpair x ⟨xa, xa.implied⟩ (g.s n) l else g.s x
    let at' := fun l => spTileAt (spNames s g a l (ea l))
    i.WfCore → Acts i s g a → (∀ l < 128, (actOf i g a).getLsbD l → spNames s g a l (ea l) ≠ .prot) →
    ∃ t g' es zs, exec i s = .next t ∧ t.grp? g.id = some g' ∧ Fell i g g' a ∧ FilesKept g g' ∧ g'.donem = g.donem ∧ BytesKept s t ∧
      Queued g g' es (fun _ => .query .dist) 0 0 ((List.range 128).filterMap fun l =>
        if (actOf i g a).getLsbD l then (at' l).map fun pa => (l, Loc.mem pa 0, 4, 0) else none) ∧
      g'.pend = g.pend ++ [⟨none, es.map (·.uid), zs ++ [.ld d 4]⟩] ∧
      VecWritten g (g.commitAll zs) false false (maskOf fun l => (actOf i g a).getLsbD l && (at' l).isNone) d fun _ => 0x8FFFF

/-- 07 R161, R163, R164: SPPIN, SPUNPIN and SPPULL send one query of the tile that their address names; SPPIN's result waits for it. Where no
tile is named SPPIN answers false, and SPUNPIN and SPPULL only go on. -/
def Sys2Proof.Machine.PinsAndPulls : Prop :=
  ∀ (h : Hdr) (d x : Nat) (tsrc : Src) (s : State) (g : Group) (a : W32),
    let names := fun (i : Instr) => spNames s g a (lane0 i g a) (g.s x)
    let goes := fun (i : Instr) => ∃ t g', exec i s = .next t ∧ t.grp? g.id = some g' ∧ Fell i g g' a ∧ RegsKept g g' ∧ g'.pend = g.pend ∧
      BytesKept s t ∧ (t.core g.core).pins = (s.core g.core).pins ∧ t.net = s.net
    ((Instr.sppin h d x).WfCore → Acts (.sppin h d x) s g a →
      (∀ pa, spTileAt (names (.sppin h d x)) = some pa → ∃ t g' e, exec (.sppin h d x) s = .next t ∧ AsksTile (.sppin h d x) s t g g' a .pin pa e ∧
        g'.pend = g.pend ++ [⟨none, [e.uid], [.pall d (actOf (.sppin h d x) g a)]⟩]) ∧
      (names (.sppin h d x) ≠ .prot → names (.sppin h d x) ≠ .window → spTileAt (names (.sppin h d x)) = none →
        ∃ t, exec (.sppin h d x) s = .next t ∧ (t.core g.core).pins = (s.core g.core).pins ∧
          Yields (.sppin h d x) s g a none fun g' => PrdWritten g g' d (actOf (.sppin h d x) g a) fun _ => false)) ∧
    ((Instr.spunpin h x).WfCore → Acts (.spunpin h x) s g a →
      (∀ pa, spTileAt (names (.spunpin h x)) = some pa → ∃ t g' e, exec (.spunpin h x) s = .next t ∧ AsksTile (.spunpin h x) s t g g' a .unpin pa e ∧
        g'.pend = g.pend) ∧
      (names (.spunpin h x) ≠ .prot → names (.spunpin h x) ≠ .window → spTileAt (names (.spunpin h x)) = none → goes (.spunpin h x))) ∧
    ((Instr.sppull h x tsrc).WfCore → Acts (.sppull h x tsrc) s g a →
      let target := match tsrc with
        | .imm v => v.toNat
        | .sca r => (g.s r).toNat
        | _ => 0
      (∀ pa, spTileAt (names (.sppull h x tsrc)) = some pa → ∃ t g' e, exec (.sppull h x tsrc) s = .next t ∧
        AsksTile (.sppull h x tsrc) s t g g' a (.pull target) pa e ∧ g'.pend = g.pend) ∧
      (names (.sppull h x tsrc) ≠ .prot → names (.sppull h x tsrc) ≠ .window → spTileAt (names (.sppull h x tsrc)) = none →
        goes (.sppull h x tsrc)))

/-- 07 R161, R165, R166: SPCLEAN, SPINV and SPFLUSH of a translated range, or of the lowest active lane's private bytes, put one entry with the
range's tiles, a tile once and pages without a valid translation left out, behind the group's earlier entries and complete.
Model's choice: that a page counts as translated where its leaf is valid and its frame populated (log 27). -/
def Obligations.RangeOperationsEnterQueue : Prop :=
  ∀ (i : Instr) (op x y : Nat) (s : State) (g : Group) (a : W32), rangeRow i = some (op, x, y) → i.WfCore → Acts i s g a →
    let ea := g.s x
    let n := (g.s y).toNat
    let enters := fun (isTile : Nat → Prop) => ∃ t g' e tiles, exec i s = .next t ∧ t.grp? g.id = some g' ∧ Fell i g g' a ∧
      FilesKept g g' ∧ g'.pend = g.pend ∧ g'.donem = g.donem ∧ BytesKept s t ∧ tiles.Nodup ∧ (∀ z, z ∈ tiles ↔ isTile z) ∧
      Queued g g' [e] (fun _ => .range op tiles) 0 0 [(128, .nowhere, 0, n)]
    (apert ea = .trans → ea.toNat + n ≤ (if ea.toNat < 2 ^ 56 then 2 ^ 56 else windowBase) →
      enters fun z => ∃ va pa, ea.toNat ≤ va ∧ va < ea.toNat + n ∧
        spNames s g a 0 (.ofNat 64 (va / 1024 * 1024)) = .page pa ∧ z = tileOf pa) ∧
    (∀ o, apert ea = .priv o → (n = 0 ∨ o + n ≤ ((s.grpGrid? g).map Grid.privSize).getD 0) →
      enters fun z => ∃ k < n, z = tileOf (privAddr g.priv (lane0 i g a) (o + k)))

/-- 07 R154, R162 to R164, 18 R373: a query leaves its queue once nothing before it holds it and no promotion of its tile that its core asked
for is pending; it is answered at its tile's spiral in the order of acceptance, or at its home where no spiral holds the tile. -/
def Sys2Proof.Machine.QueriesReachTiles : Prop :=
  ∀ (s : State),
    (∀ gid i g e k pa copy, s.grp? gid = some g → g.obq[i]? = some e → e.kind = .query k → e.loc = .mem pa 0 → e.stage = .queued →
      s.heldBack g i e false = false → s.dieDown (homeDie pa) = false →
      (∀ p ∈ (s.quad (homeQuad pa)).promos, p.tile = tileOf pa → p.who ≠ whoAt (homeQuad pa) g.core) →
      ∃ u r, exec (.queueLeave gid i copy) s = .next u ∧ u.dram = s.dram ∧ u.net = s.net ++ [r] ∧ r.kind = .query k ∧ r.loc = .mem pa 0 ∧
        r.home = homeDie pa ∧ r.src = g.core ∧ r.srcDie = g.die ∧ r.grp = gid ∧ r.ent = e.uid ∧ r.write = false) ∧
    (∀ i r k pa, s.net[i]? = some r → (∀ x ∈ s.net.take i, x.sameWay r = false) → (∀ x ∈ (s.die r.home).snoop, x.sameWay r = false) →
      Asks r k pa → s.dieDown r.home = false → r.home = r.srcDie → s.outranked r = false → s.atRepair r = false → Unheld s r →
      SmallAcquire s r → ∃ u, exec (.homeApply i) s = .next u ∧ u.net = s.net.eraseIdx i ∧ QueryAnswered s u r pa k) ∧
    (∀ q i x k pa, q < 16 → (s.quad q).accs[i]? = some x → Asks x.req k pa → q = homeQuad pa → AtTile s q pa x.way x.key →
      s.atRepair x.req = false → s.dieDown x.req.home = false → SmallAcquire s x.req →
      ∃ u, exec (.spiralAccessApply q i) s = .next u ∧ (u.quad q).accs = (s.quad q).accs.eraseIdx i ∧ QueryAnswered s u x.req pa k)

/-- 07 R161, R162: SPDIST sends one query for each active lane whose address names a tile, in lane order; the result waits for them, and the
other active lanes read 0x8FFFF. 07 R163, R164: SPPIN, SPUNPIN and SPPULL send one query of the tile that their address names; SPPIN's result
waits for it; where no tile is named SPPIN answers false, and SPUNPIN and SPPULL only go on. 07 R154, 18 R373: a query leaves its queue once
nothing before it holds it, and is answered at its tile's spiral in the order of acceptance, or at its home where no spiral holds the tile:
with the settled position of the tile and its pinned, remote and copied bits, or by its core's table of four pins.
Model's choices: log 26, 27, 30, 88 and 100. -/
def Obligations.PinsPullsAndDistance : Prop := DistanceAsksTiles ∧ PinsAndPulls ∧ QueriesReachTiles

namespace Sys2Proof.Machine

/-! ### Objects, convergence registers, QNT, MPLANE -/

/-- An object instruction reaches a usable object of a window at which nothing waits (09 R194, R195). -/
structure AtObject (s : State) (g : Group) (a : W32) (r acq rel tm off : Nat) (t : Team) : Prop where
  at'  : (startOf s g a).objAt (g.onPath a) (g.s r) = some (tm, off)
  free : (startOf s g a).padFree (g.onPath a) (.pad tm off) 16 acq rel = true
  team : s.team? tm = some t
  fits : off + 16 ≤ t.size
  wf   : Memory.wf t.win = true
  none : t.bankq = []

/-- The object as a 128-bit number. -/
def obj (t : Team) (off : Nat) : Nat := t.rd off 16

/-- Fields (low bit, width, value) of an object after an instruction; its other bits are as they were. -/
def ObjIs (y x : Nat) (fs : List (Nat × Nat × Nat)) : Prop :=
  y < 2 ^ 128 ∧ (∀ f ∈ fs, fld y f.1 f.2.1 = f.2.2) ∧
  ∀ k < 128, (∀ f ∈ fs, k < f.1 ∨ f.1 + f.2.1 ≤ k) → bit y k = bit x k

/-- An object instruction completes: the lanes go on, the object becomes one of which Y holds, no other byte of a window or of memory
changes; the writes of its result are those of which W holds. -/
def ObjDone (i : Instr) (s : State) (g : Group) (a : W32) (tm off : Nat) (t : Team) (Y : Nat → Prop) (W : List Wr → Prop) : Prop :=
  ∃ t' g' u ws, exec i s = .next t' ∧ t'.grp? g.id = some g' ∧ Fell i g g' a ∧ FilesKept g g' ∧
    g'.pend = g.pend ++ (if ws = [] then [] else [⟨none, [], ws⟩]) ∧ W ws ∧
    t'.team? tm = some u ∧ Y (obj u off) ∧ (∀ o, o < off ∨ off + 16 ≤ o → memRead u.win o = memRead t.win o) ∧
    (∀ n, n ≠ tm → t'.team? n = s.team? n) ∧ t'.dram = s.dram

/-- The lanes of an object instruction wait at its bank, which keeps its place. -/
def ObjWaits (i : Instr) (s : State) (g : Group) (a : W32) (tm off : Nat) (Y : Nat → Prop) : Prop :=
  ∃ t' g' u w, exec i s = .next t' ∧ t'.grp? g.id = some g' ∧ g'.pend = g.pend ∧ FilesKept g g' ∧ t'.team? tm = some u ∧
    u.bankq = [w] ∧ w.grp = g.id ∧ w.off = off ∧ Y (obj u off) ∧
    ∀ l < 128, (nth g'.lanes l = if (actOf i g a).getLsbD l then .waiting (.bank w.id) else nth g.lanes l) ∧
      nth g'.pcv l = if (g.lanesAt a &&& ~~~(actOf i g a)).getLsbD l then nextPc a i.size else nth g.pcv l

/-- The holder identity h of a group (09 R197). -/
def holder (s : State) (g : Group) : Nat := 32 * (((s.team? g.team).map (·.crank)).getD 0) + g.gid

end Sys2Proof.Machine

/-- 09 R200, R201: BARINIT writes the whole object and sets it full; BARARV of n arrivals on a barrier counts them, ends the phase at the last,
and where more arrive than the phase lacks only sets ovr, with BAROVR after commit where trap is set. -/
def Sys2Proof.Machine.BarrierArrivals : Prop :=
  ∀ (h : Hdr) (r b d n scope : Nat) (lock trap lanes : Bool) (s : State) (g : Group) (a : W32) (tm off : Nat) (t : Team),
    (let i := Instr.barinit h r b lock trap
     let exp := (g.s b).toNat % 2 ^ 16
     i.WfCore → Acts i s g a → AtObject s g a r 0 0 tm off t → (lock = true ∨ exp ≠ 0) →
      ObjDone i s g a tm off t (fun y => y = if lock then 2 ^ 38 else exp + 2 ^ 16 * exp + 2 ^ 37 * trap.toNat) (· = []) ∧
      ∃ t', exec i s = .next t' ∧ t'.granFull (tm, off / 16) = true) ∧
    (let i := Instr.bararv h d r n lanes scope
     let x := obj t off
     let k := if lanes then ((List.range 128).filter (actOf i g a).getLsbD).length else n
     let phase := fld x 32 4
     i.WfCore → Acts i s g a → AtObject s g a r 0 scope tm off t → t.fullAt off = true → fld x 38 2 = 0 →
      (k < fld x 16 16 →
        ObjDone i s g a tm off t
          (fun y => ObjIs y x [(16, 16, fld x 16 16 - k), (64, 32, (fld x 64 32 + k) % 2 ^ 32), (96, 16, g.gid % 2 ^ 16), (112, 16, 0)])
          fun ws => ScaWritten g (g.commitAll ws) d (.ofNat 64 phase)) ∧
      (k = fld x 16 16 →
        ObjDone i s g a tm off t
          (fun y => ObjIs y x [(16, 16, fld x 0 16), (64, 32, (fld x 64 32 + k) % 2 ^ 32), (96, 16, g.gid % 2 ^ 16),
            (32, 4, (phase + 1) % 16), (112, 16, 0)])
          fun ws => ScaWritten g (g.commitAll ws) d (.ofNat 64 (phase + 16))) ∧
      (fld x 16 16 < k → bit x 37 = false →
        ObjDone i s g a tm off t (fun y => ObjIs y x [(36, 1, 1), (112, 16, 0)])
          fun ws => ScaWritten g (g.commitAll ws) d (.ofNat 64 (phase + 32))) ∧
      (fld x 16 16 < k → bit x 37 = true →
        ∃ t' g' u tr ws, exec i s = .next t' ∧ t'.grp? g.id = some g' ∧ g'.trap = some tr ∧ tr.cause = 0x08 ∧ tr.after = true ∧ tr.pc = a ∧
          g'.pcv = g.pcv ∧ t'.team? tm = some u ∧ ObjIs (obj u off) x [(36, 1, 1), (112, 16, 0)] ∧
          g'.pend = g.pend ++ [⟨none, [], ws⟩] ∧ ScaWritten g (g.commitAll ws) d (.ofNat 64 (phase + 32))))

/-- 09 R202, R203: BARWT of a phase that has passed writes 1 for its active lanes, of the present phase with no budget 0, and else its lanes wait
at the bank; BARQ reads the object of any kind into two scalars and with `.clr` clears ovr. -/
def Sys2Proof.Machine.BarrierWaitsAndQueries : Prop :=
  ∀ (h : Hdr) (d r b cr scope : Nat) (clr : Bool) (s : State) (g : Group) (a : W32) (tm off : Nat) (t : Team), t.fullAt off = true →
    let x := obj t off
    (let i := Instr.barwt h d r b cr scope
     let passed := fld x 32 4 ≠ (g.s b).toNat % 16
     i.WfCore → Acts i s g a → AtObject s g a r scope 0 tm off t → fld x 38 2 = 0 →
      (passed → ObjDone i s g a tm off t (· = x) fun ws => PrdWritten g (g.commitAll ws) d (actOf i g a) fun _ => true) ∧
      (¬ passed → g.s cr = 0 →
        ObjDone i s g a tm off t (· = x) fun ws => PrdWritten g (g.commitAll ws) d (actOf i g a) fun _ => false) ∧
      (¬ passed → g.s cr ≠ 0 → ObjWaits i s g a tm off (· = x))) ∧
    (let i := Instr.barq h d r clr
     let clean : List (Nat × Nat × Nat) := match fld x 38 2 with
       | 2 => [(32, 6, 0), (64, 16, 0), (88, 8, 0)]
       | 1 => [(32, 6, 0), (112, 16, 0)]
       | _ => [(36, 1, 0), (112, 16, 0)]
     i.WfCore → Acts i s g a → AtObject s g a r 0 0 tm off t →
      ObjDone i s g a tm off t (fun y => if clr then ObjIs y x clean else y = x) fun ws =>
        (g.commitAll ws).s d = .ofNat 64 x ∧ (g.commitAll ws).s (d + 1) = .ofNat 64 (x / 2 ^ 64) ∧
        ∀ n < 192, n ≠ d → n ≠ d + 1 → (g.commitAll ws).s n = g.s n)

/-- 09 R204, R206, R207: LKACQ and LKTRY of a free lock make the group its holder and count it; of another's lock, LKACQ counts its group among
the waiters and waits, LKTRY answers 0; LKREL waits at its bank until the dirty bytes of the lock's ranges are applied at their home points, and
by the holder then frees the lock; GRSET sets the range list of a free lock.
Model's choices: log 20 and 33. -/
def Obligations.LocksAndHolders : Prop :=
  ∀ (h : Hdr) (d r b scope : Nat) (s : State) (g : Group) (a : W32) (tm off : Nat) (t : Team), t.fullAt off = true → fld (obj t off) 38 2 = 1 →
    let x := obj t off
    let me := (holder s g + 1) % 2 ^ 16
    let taken := [(0, 16, me), (16, 16, 0), (64, 32, (fld x 64 32 + 1) % 2 ^ 32), (32, 6, 0), (112, 16, 0)]
    (let i := Instr.lkacq h r scope
     i.WfCore → Acts i s g a → AtObject s g a r scope 0 tm off t →
      (fld x 0 16 = 0 → ObjDone i s g a tm off t (ObjIs · x taken) (· = []) ∧
        (g.core < 192 → ∃ t', exec i s = .next t' ∧ ∃ k ∈ (t'.core g.core).held, k.grp = g.id ∧ k.team = g.team)) ∧
      (fld x 0 16 ≠ 0 → fld x 0 16 ≠ holder s g + 1 → ObjWaits i s g a tm off (ObjIs · x [(16, 16, 1), (32, 6, 0), (112, 16, 0)])) ∧
      (fld x 0 16 ≠ 0 → fld x 0 16 = holder s g + 1 → ∃ t', exec i s = .next t' ∧ TrapRaised s t' g 0x06 (actOf i g a) a)) ∧
    (let i := Instr.lktry h d r scope
     i.WfCore → Acts i s g a → AtObject s g a r scope 0 tm off t →
      (fld x 0 16 = 0 → ObjDone i s g a tm off t (ObjIs · x taken) fun ws =>
        PrdWritten g (g.commitAll ws) d (actOf i g a) fun _ => true) ∧
      (fld x 0 16 ≠ 0 → ObjDone i s g a tm off t (· = x) fun ws =>
        PrdWritten g (g.commitAll ws) d (actOf i g a) fun _ => false)) ∧
    (let i := Instr.lkrel h r scope
     let clean := (startOf s g a).rangesClean (g.onPath a) ((startOf s g a).heldOf (g.onPath a) tm off)
     i.WfCore → Acts i s g a → AtObject s g a r 0 scope tm off t →
      (clean = false → ObjWaits i s g a tm off (· = x)) ∧
      (clean = true → fld x 0 16 = holder s g + 1 →
        ObjDone i s g a tm off t (ObjIs · x [(0, 16, 0), (96, 16, me), (32, 6, 0), (112, 16, 0)]) (· = []))) ∧
    (let i := Instr.grset h r b
     let v := (g.s b).toNat
     i.WfCore → Acts i s g a → AtObject s g a r 0 0 tm off t → fld x 0 16 = 0 →
      ObjDone i s g a tm off t (ObjIs · x [(40, 16, v % 2 ^ 16), (56, 8, v / 2 ^ 16 % 2 ^ 8), (32, 6, 0), (112, 16, 0)]) (· = []))

/-- 09 R212, R213: CHSEND by a team of the sending rank claims the next slot while one is free, and the 32 granules of its message, all lanes of
v[C], follow the group's earlier entries; CHRECV by a team of the receiving rank takes a slot whose granules are all full into v[D] and
empties them.
Model's choices: log 20 and 33. -/
def Obligations.ChannelMessages : Prop :=
  ∀ (h : Hdr) (d r cr scope : Nat) (s : State) (g : Group) (a : W32) (tm off : Nat) (t mine : Team),
    t.fullAt off = true → fld (obj t off) 38 2 = 2 → s.team? g.team = some mine →
    let x := obj t off
    let cap := fld x 56 8 + 1
    let count := (fld x 0 16 + 2 ^ 16 - fld x 16 16) % 2 ^ 16
    let slot := fun n => 16 * fld x 40 16 + 512 * (n % cap)
    let clean := [(32, 6, 0), (64, 16, 0), (88, 8, 0)]
    (let i := Instr.chsend h r cr scope
     let base := slot (fld x 0 16)
     i.WfCore → Acts i s g a → AtObject s g a r 0 scope tm off t → mine.crank = fld x 80 4 → count ≠ cap → base + 512 ≤ t.size →
      ObjDone i s g a tm off t (ObjIs · x ((0, 16, (fld x 0 16 + 1) % 2 ^ 16) :: clean)) (· = []) ∧
      ∃ t' g' es e, exec i s = .next t' ∧ t'.grp? g.id = some g' ∧
        (∃ old, g'.obq = old ++ es ++ [e] ∧ old.map (·.uid) = g.obq.map (·.uid)) ∧ e.kind = .obj none ∧
        es.map (fun e => (e.kind, e.loc, e.n, e.stage)) = (List.range 32).map (fun k => (EKind.chan, Loc.pad tm (base + 16 * k), 16, Stage.queued)) ∧
        ∀ k < 32, (es[k]?).map (·.data) = some (((List.range 4).map fun j =>
          (g.xread cr ⟨.id, 0⟩ 0 (4 * k + j)).toNat * 2 ^ (32 * j)).sum)) ∧
    (let i := Instr.chrecv h d r scope
     let base := slot (fld x 16 16)
     i.WfCore → Acts i s g a → AtObject s g a r scope 0 tm off t → mine.crank = fld x 84 4 → count ≠ 0 →
      (∀ k < 32, t.fullAt (base + 16 * k) = true) →
      ObjDone i s g a tm off t (ObjIs · x ([(16, 16, (fld x 16 16 + 1) % 2 ^ 16), (96, 32, (fld x 96 32 + 1) % 2 ^ 32)] ++ clean))
        (fun ws => AllLanes (g.commitAll ws) false d fun l => .ofNat 64 (t.rd (base + 4 * l) 4)) ∧
      ∃ t', exec i s = .next t' ∧ ∀ k < 32, t'.granFull (tm, base / 16 + k) = false)

/-- What an object instruction uses: the register of its address, and its scopes as an acquire and as a release. -/
def Sys2Proof.Machine.objUse : Instr → Option (Nat × Nat × Nat)
  | .barinit _ r _ _ _ | .barq _ _ r _ | .grset _ r _ => some (r, 0, 0)
  | .bararv _ _ r _ _ sc | .lkrel _ r sc | .chsend _ r _ sc => some (r, 0, sc)
  | .barwt _ _ r _ _ sc | .lkacq _ r sc | .lktry _ _ r sc | .chrecv _ _ r sc => some (r, sc, 0)
  | _ => none

/-- 08 R170, R171, 09 R195: an object instruction that an earlier entry of its group holds back enters the outbound queue behind it as an atomic on
the 16 bytes of the object, and its lanes wait for the bank; no window and no memory changes.
Model's choice: log 20. -/
def Obligations.ObjectsEnterQueue : Prop :=
  ∀ (i : Instr) (s : State) (g : Group) (a : W32) (r acq rel tm off : Nat) (t : Team),
    objUse i = some (r, acq, rel) → i.WfCore → Acts i s g a → (startOf s g a).objAt (g.onPath a) (g.s r) = some (tm, off) → s.team? tm = some t →
    (startOf s g a).padFree (g.onPath a) (.pad tm off) 16 acq rel = false →
    (∀ h b trap, i = .barinit h r b false trap → (g.s b).toNat % 2 ^ 16 ≠ 0) →
    ∃ t' g' e w, exec i s = .next t' ∧ t'.grp? g.id = some g' ∧
      (∃ old, g'.obq = old ++ [e] ∧ old.map (·.uid) = g.obq.map (·.uid)) ∧ e.kind = .obj (some w) ∧ e.loc = .pad tm off ∧ e.n = 16 ∧
      e.acq = acq ∧ e.rel = rel ∧ e.stage = .queued ∧ e.uid = w.id ∧ w.grp = g.id ∧ w.off = off ∧
      g'.pend = g.pend ∧ FilesKept g g' ∧ (∀ n, t'.team? n = s.team? n) ∧ t'.dram = s.dram ∧
      ∀ l < 128, (nth g'.lanes l = if (actOf i g a).getLsbD l then .waiting (.bank w.id) else nth g.lanes l) ∧
        nth g'.pcv l = if (g.lanesAt a &&& ~~~(actOf i g a)).getLsbD l then nextPc a i.size else nth g.pcv l

/-- 09 R200, R201: BARINIT writes the whole object and sets it full; BARARV of n arrivals on a barrier counts them, ends the phase at the
last, and where more arrive than the phase lacks only sets ovr, with BAROVR after commit where trap is set. 09 R202, R203: BARWT of a
phase that has passed writes 1 for its active lanes, of the present phase with no budget 0, and else its lanes wait at the bank; BARQ
reads the object of any kind into two scalars and with `.clr` clears ovr.
Model's choices: log 20 and 33. -/
def Obligations.BarrierInstructions : Prop := BarrierArrivals ∧ BarrierWaitsAndQueries

namespace Sys2Proof.Machine

/-! ### Convergence registers, QNT, MPLANE -/

/-- Lanes and PCs behind an instruction that ends the `.wt` waits on convergence register cv (none: on no register): those lanes become
ready at the address behind their CVSIGN; the lanes of `i` fall through. -/
def FellAndReleased (i : Instr) (g g' : Group) (a : W32) (cv : Option Nat) : Prop :=
  ∀ l < 128,
    let go := match nth g.lanes l with
      | .waiting (.cvgen k nx) => if some k = cv then some nx else none
      | _ => none
    nth g'.lanes l = (if go.isSome then .ready else nth g.lanes l) ∧
    nth g'.pcv l = go.getD (if (g.lanesAt a).getLsbD l then nextPc a i.size else nth g.pcv l)

/-- Convergence register k of a team. -/
def cvOf (t : Team) (k : Nat) : Cv := nth t.cvs k

/-- Bits of one element of a source row of MPLANE, the value of its code, and the code under a declared width (11 R238, R240). -/
def elBits (fmt : Nat) : Nat := if fmt = 0 ∨ fmt = 5 then 4 else if fmt = 3 ∨ fmt = 4 then 16 else 8
def codeVal (fmt c : Nat) : Int := if 2 * c < 2 ^ elBits fmt then c else c - 2 ^ elBits fmt
def narrowed (fmt nw c : Nat) : Nat :=
  if nw = 0 then c else (max (-(2 ^ nw : Int)) (min (2 ^ nw - 1) (codeVal fmt c)) % 2 ^ (nw + 1)).toNat
def tooWide (fmt nw c : Nat) : Bool := nw != 0 && (decide (codeVal fmt c < -(2 ^ nw : Int)) || decide ((2 ^ nw - 1 : Int) < codeVal fmt c))

end Sys2Proof.Machine

/-- 09 R209, R210: CVINIT takes the members that the team has, keeps gen, and ends the waits on the register; CVSIGN of a member that has not
signed sets its bit and gives gen, and as the last of the members starts the next generation, ends the waits and gives bit 4; `.wt` waits
where it is not the last. Both are stated for a register without an attached request at which no group waits to sign again. -/
def Obligations.ConvergenceRegisters : Prop :=
  ∀ (h : Hdr) (d k b : Nat) (wt : Bool) (s : State) (g : Group) (a : W32) (t : Team),
    s.team? g.team = some t → (cvOf t k).bound = none →
    (∀ x ∈ s.groups, ∀ l < 128, ∀ y, nth x.lanes l ≠ .waiting (.cvsign k (some y))) →
    (let i := Instr.cvinit h k b
     i.WfCore → Acts i s g a →
      ∃ t' g' u, exec i s = .next t' ∧ t'.grp? g.id = some g' ∧ RegsKept g g' ∧ g'.pend = g.pend ∧ FellAndReleased i g g' a (some k) ∧
        t'.dram = s.dram ∧ t'.team? t.id = some u ∧ (cvOf u k).signed = 0 ∧ (cvOf u k).bound = none ∧ (cvOf u k).gen = (cvOf t k).gen ∧
        (∀ m < 32, (cvOf u k).members.getLsbD m = ((g.s b).getLsbD m && decide (m < t.groups))) ∧
        (∀ j < 8, j ≠ k → cvOf u j = cvOf t j) ∧ u.win = t.win ∧ u.full = t.full) ∧
    (let i := Instr.cvsign h d k wt
     let c := cvOf t k
     i.WfCore → Acts i s g a → c.members.getLsbD g.gid = true → c.signed.getLsbD g.gid = false →
      let last := (List.range 32).all fun m => (c.signed.getLsbD m || m == g.gid) == c.members.getLsbD m
      ∃ t' g' u ws, exec i s = .next t' ∧ t'.grp? g.id = some g' ∧ RegsKept g g' ∧ t'.dram = s.dram ∧
        g'.pend = g.pend ++ [⟨none, [], ws⟩] ∧ ScaWritten g (g.commitAll ws) d (.ofNat 64 (c.gen + if last then 16 else 0)) ∧
        t'.team? t.id = some u ∧ (cvOf u k).members = c.members ∧ (∀ j < 8, j ≠ k → cvOf u j = cvOf t j) ∧ u.win = t.win ∧
        (if last then (cvOf u k).signed = 0 ∧ (cvOf u k).gen = (c.gen + 1) % 16
         else (cvOf u k).gen = c.gen ∧ ∀ m < 32, (cvOf u k).signed.getLsbD m = (c.signed.getLsbD m || m == g.gid)) ∧
        (if wt = false ∨ last then FellAndReleased i g g' a (if last then some k else none)
         else ∀ l < 128, nth g'.lanes l =
           if (actOf i g a).getLsbD l then .waiting (.cvgen k (nextPc a i.size)) else nth g.lanes l))

/-- 05 R116 to R121: QNT on a ring in range that nothing earlier holds back gives each active lane the code of its value under the ring's scale,
or packs blocks of 8 for FP4; s[C] takes the scale and the running maximum, which `.push` rounds up into entry head and then clears; the
ring's other entries and every byte outside the ring stay. -/
def Sys2Proof.Machine.QuantisationAndScaleRing : Prop :=
  ∀ (h : Hdr) (push : Bool) (rm : Nat) (bf : Bool) (out d x : Nat) (xa : Pat) (b cr : Nat) (s : State) (g : Group) (a : W32) (t : Team) (o : Nat),
    let i := Instr.qnt h push rm bf out d x xa b cr
    i.WfCore → Acts i s g a → (g.s b).toNat % 16 = 0 →
    ((startOf s g a).winAt (g.onPath a) (g.s b) = some (t, o)) → s.team? t.id = some t → Memory.wf t.win = true → o + 34 ≤ t.size →
    (startOf s g a).padFree (g.onPath a) (.pad t.id o) 48 0 0 = true →
    let act := actOf i g a
    let ring := (List.range 16).map fun k => t.rd (o + 2 * k) 2
    let head := t.rd (o + 32) 1 % 16
    let sc := fv (qScale out ring) .bf16
    let F : Fmt := if bf then .bf16 else .fp32
    let src := fun l => fv ((g.xread x ⟨xa, xa.implied⟩ 0 l).toNat % (if bf then 2 ^ 16 else 2 ^ 32)) F
    let mode := fun l => Rm.ofCode (if rm = 2 then 4 else rm) (rhoAt s l)
    let c := bandMax ((g.s cr).toNat % 2 ^ 32) (((List.range 128).filter act.getLsbD).map src)
    let block := fun k => qBlock (8 * k + g.id * 2 ^ 16) ((List.range 8).map fun j => mode (8 * k + j))
      ((List.range 8).map fun j => if act.getLsbD (8 * k + j) then src (8 * k + j) else .fin false 0 0) sc
    ∃ t' g' u ws, exec i s = .next t' ∧ t'.grp? g.id = some g' ∧ Fell i g g' a ∧ FilesKept g g' ∧ t'.dram = s.dram ∧
      g'.pend = g.pend ++ [⟨none, [], ws⟩] ∧
      (g.commitAll ws).s cr = .ofNat 64 (2 ^ 48 * roundUpBf16 sc + if push then 0 else (round c .fp32 .rn).1) ∧
      (if out = 2 then
        (∀ l < 16, ∀ j < 8, (laneOf (g.commitAll ws) false d l).toNat / 2 ^ (4 * j) % 16 = ((block l).2.1[j]?).getD 0) ∧
        (∀ l < 4, ∀ j < 4, (laneOf (g.commitAll ws) false d (16 + l)).toNat / 2 ^ (8 * j) % 256 = (block (4 * l + j)).1) ∧
        (∀ l < 128, 20 ≤ l → laneOf (g.commitAll ws) false d l = 0)
       else ∀ l < 128, laneOf (g.commitAll ws) false d l =
        if act.getLsbD l then .ofNat 64 ((qCode out (mode l) (src l) sc).1 % 2 ^ 32) else laneOf g false d l) ∧
      t'.team? t.id = some u ∧ u.full = t.full ∧ (∀ z, z < o ∨ o + 34 ≤ z → memRead u.win z = memRead t.win z) ∧
      (∀ k < 16, u.rd (o + 2 * k) 2 = if push = true ∧ k = head then roundUpBf16 c % 2 ^ 16 else t.rd (o + 2 * k) 2) ∧
      u.rd (o + 32) 2 = if push then (head + 1) % 16 else t.rd (o + 32) 2

/-- 11 R237, R240: MPLANE of rows in range and apart from its destination writes bit j of every element's code, clamped to the declared width,
into plane j of its row, for FP4 with the scales behind; every byte outside the tile stays, and clamping sets sat. -/
def Sys2Proof.Machine.PlanesFromRows : Prop :=
  ∀ (h : Hdr) (d x y r srs fmt nw dst src sc : Nat) (s : State) (g : Group) (a : W32) (t : Team),
    let i := Instr.mplane h d x y r srs fmt nw
    let srcEnd := src + 16 * srs * (r - 1) + 32 * elBits fmt
    let tile := r * mWb fmt nw + if fmt = 0 then 64 else 0
    i.WfCore → Acts i s g a → s.team? g.team = some t → Memory.wf t.win = true → s.matPresent (g.core / 4) = true →
    apert (g.s d) = .team dst → apert (g.s x) = .team src → (fmt = 0 → apert (g.s y) = .team sc) →
    (g.s d).toNat % 16 = 0 → (g.s x).toNat % 16 = 0 → (fmt = 0 → (g.s y).toNat % 16 = 0) → t.size ≤ 2 ^ 24 →
    dst + tile ≤ t.size → srcEnd ≤ t.size → (fmt = 0 → sc + 32 * r + 16 ≤ t.size) →
    (dst + tile ≤ src ∨ srcEnd ≤ dst) → (fmt = 0 → dst + tile ≤ sc ∨ sc + 32 * r + 16 ≤ dst) →
    (startOf s g a).padFree (g.onPath a) (.pad t.id 0) t.size 0 0 = true →
    let code := fun r k => t.rd (src + 16 * srs * r) (32 * elBits fmt) / 2 ^ (elBits fmt * k) % 2 ^ elBits fmt
    ∃ t' g' u ws, exec i s = .next t' ∧ t'.grp? g.id = some g' ∧ Fell i g g' a ∧ FilesKept g g' ∧ t'.dram = s.dram ∧
      t'.team? t.id = some u ∧ u.full = t.full ∧ g'.pend = g.pend ++ [⟨none, [], ws⟩] ∧
      (g.commitAll ws).vregs = g.vregs ∧ (g.commitAll ws).sregs = g.sregs ∧
      (g.commitAll ws).fpf = (g.fpf ||| if (List.range r).any (fun n => (List.range 256).any fun k => tooWide fmt nw (code n k))
        then Fl.sat else 0) ∧
      (∀ n < r, ∀ j ≤ mW fmt nw, ∀ k < 256,
        bit (u.rd (dst + n * mWb fmt nw) (32 * (mW fmt nw + 1))) (256 * j + k) = bit (narrowed fmt nw (code n k)) j) ∧
      (fmt = 0 → (∀ n < r, u.rd (dst + n * mWb fmt nw + 128) 32 = t.rd (sc + 32 * n) 32) ∧
        ∀ k < (r + 63) / 64, u.rd (dst + 160 * r + 2 * k) 2 = t.rd (sc + 32 * r + 2 * k) 2) ∧
      ∀ z, z < dst ∨ dst + tile ≤ z → memRead u.win z = memRead t.win z

/-- 05 R116 to R121: QNT on a ring in range that nothing earlier holds back gives each active lane the code of its value under the ring's
scale, or packs blocks of 8 for FP4; s[C] takes the scale and the running maximum, which `.push` rounds up into entry head and then
clears; the ring's other entries and every byte outside the ring stay. 11 R237, R240: MPLANE of rows in range and apart from its
destination writes bit j of every element's code, clamped to the declared width, into plane j of its row, for FP4 with the scales behind;
every byte outside the tile stays, and clamping sets sat.
Model's choices: log 17 and 20. -/
def Obligations.BlocksAndPlanes : Prop := QuantisationAndScaleRing ∧ PlanesFromRows

namespace Sys2Proof.Machine

/-! ### Engine packets and handles -/

/-- A number of n bits: the fields given (low bit, width, value), its other bits those of x. -/
def NumIs (n y x : Nat) (fs : List (Nat × Nat × Nat)) : Prop :=
  y < 2 ^ n ∧ (∀ f ∈ fs, fld y f.1 f.2.1 = f.2.2) ∧
  ∀ k < n, (∀ f ∈ fs, k < f.1 ∨ f.1 + f.2.1 ≤ k) → bit y k = bit x k

/-- Queue q may take one more packet of the group now: its header, enabled and with the consumer asked for; the place of the next slot;
the claim, with an allocation of handle x where `rc` (10 R217, R218, R220, R228). -/
structure QueueTakes (s : State) (g : Group) (q : Nat) (cons : Option Nat) (rc : Bool) (h : QHdr) (pa : Nat) (x : W64) : Prop where
  hdr  : s.qhdr (s.grpCtx g) q = some h
  on   : h.enabled = true
  for' : ∀ c, cons = some c → h.cons = c
  slot : s.devPa (s.grpCtx g) (h.slot h.wr) 1 = some pa
  got  : ∃ t, (if rc then s.allocClaim g.core g.die (s.grpCtx g) h else s.claim g.core g.die h) = .ok x t

/-- The instruction sends a packet of which Y holds to slot h.wr as a release at `.sys`, gives the handle, and sets p[PD] for its lanes. -/
def PacketSent (i : Instr) (s : State) (g : Group) (a : W32) (q : Nat) (h : QHdr) (pa : Nat) (rc : Bool) (d pd : Nat) (x : W64)
    (Y : Nat → Prop) : Prop :=
  ∃ t g' e ws, exec i s = .next t ∧ t.grp? g.id = some g' ∧ Fell i g g' a ∧ FilesKept g g' ∧
    (∃ old, g'.obq = old ++ [e] ∧ old.map (·.uid) = g.obq.map (·.uid)) ∧
    e.kind = .engine (pktId (s.grpCtx g) q h.wr) ∧ e.loc = .mem pa 2 ∧ e.n = 64 ∧ e.rel = 5 ∧ e.stage = .queued ∧ Y e.data ∧
    g'.engines = g.engines ++ [pktId (s.grpCtx g) q h.wr] ∧ g'.pend = g.pend ++ [⟨none, [], ws⟩] ∧
    (∀ r < 16, (g.commitAll ws).h r = if rc = true ∧ r = d then x else g.h r) ∧
    (∀ l < 128, ((g.commitAll ws).p pd).getLsbD l = if pd = 0 then true else ((actOf i g a).getLsbD l || (g.p pd).getLsbD l)) ∧
    (∀ r < 8, r ≠ pd → (g.commitAll ws).p r = g.p r) ∧ (g.commitAll ws).vregs = g.vregs ∧ (g.commitAll ws).sregs = g.sregs

/-- XCOPY, XFILL, XGATH and XCOLL: operands, the register of the scratchpad operand, and the packet's kind, par, dst, src, dsc, x1, x2
(10 R219, R227 to R230). -/
def engineRow (g : Group) : Instr → Option (XOp × Nat × Nat × Nat × W64 × W64 × W64 × W64 × W64)
  | .xcopy _ o => some (o, o.c, 2, o.f.esz, g.s o.a, g.s o.b, g.s o.c, 0, 0)
  | .xfill _ o => some (o, o.c, 3, o.f.esz, g.s o.a, 0, g.s o.c, g.s o.b, if o.f.esz = 4 then g.s (o.b + 1) else 0)
  | .xgath _ o => some (o, o.b, 4, o.f.rb, g.s o.a, g.s o.c, g.s o.b, g.s o.f.sr, g.s o.f.sn)
  | .xcoll _ o => some (o, o.c, 5, o.f.k + 2 ^ 4 * o.f.cop + 2 ^ 6 * o.f.cfmt, g.s o.a, 0, g.s o.c, 0, g.s o.b)
  | _ => none

/-- A handle read at issue finds its record (10 R222, R223). -/
def HandleFinds (s : State) (g : Group) (a : W32) (x : W64) (r : Rec) : Prop :=
  x ≠ 0 ∧ (startOf s g a).record (s.grpCtx g) x = r ∧ r ≠ .bad ∧ r ≠ .noPage

/-- It finds its record, and the record's home answers. -/
def HandleReads (s : State) (g : Group) (a : W32) (x : W64) (r : Rec) : Prop :=
  HandleFinds s g a x r ∧ (startOf s g a).recordOk g.core g.die (s.grpCtx g) x = true

/-- A result that writes bits of the active lanes of one predicate. -/
def FlagFor (i : Instr) (s : State) (g : Group) (a : W32) (d : Nat) (b : Bool) : Prop :=
  Yields i s g a none fun g' => PrdWritten g g' d (actOf i g a) fun _ => b

end Sys2Proof.Machine

/-- 10 R220: allocation number n makes the handle with index n mod 4096, sequence number ((n div 4096) mod (2^32 - 1)) + 1 and the context's
tag, where its entry is free, having never held a record or holding a valid one: word 0 of the entry takes status 0 and the number, no
other byte changes, and n counts modulo 2^64; where the entry is not free the allocation fails and nothing changes. -/
def Obligations.AllocationMakesHandles : Prop :=
  ∀ (s : State) (src die ctx : Nat),
    let n := (s.ctxD ctx).allocN
    (∀ x t, s.alloc src die ctx = .ok x t →
      hIdx x = n % 4096 ∧ hSeq x = n / 4096 % (2 ^ 32 - 1) + 1 ∧ hTag x = (s.desc ctx).tag ∧ fld x.toNat 44 4 = 0 ∧ x ≠ 0 ∧
        (t.ctxD ctx).allocN = (n + 1) % 2 ^ 64 ∧ ((t.ctxD ctx).ringUsed = true ↔ (s.ctxD ctx).ringUsed = true ∨ n % 4096 = 4095)) ∧
    (∀ pa, s.ringPa ctx (n % 4096) 1 = some pa → s.directOk src die pa 8 true = true →
      ((s.ctxD ctx).ringUsed = false ∨ s.homeRead pa 1 ≠ 0 → ∃ x t, s.alloc src die ctx = .ok x t ∧
        (pa % 32 = 0 → tierOf pa ≠ .lp → Memory.wf s.dram = true → (∀ y, s.homeTile? pa = some y → y.bytes.length = 1024) →
          t.homeRead pa 8 = 2 ^ 32 * hSeq x ∧ ∀ b, tierOf b ≠ .lp → (b < pa ∨ pa + 8 ≤ b) → t.homeByte b = s.homeByte b)) ∧
      ((s.ctxD ctx).ringUsed = true → s.homeRead pa 1 = 0 → s.alloc src die ctx = .no))

/-- 10 R219, R225 to R230: XCOPY, XFILL, XGATH and XCOLL with a window operand in place and a queue that takes a packet send the packet with
exactly the fields that R219 gives, and h[D] takes the handle; where the queue is full or no handle is free, p[PD] takes 0 and nothing is
sent. -/
def Sys2Proof.Machine.EngineInstructionsSendPackets : Prop :=
  ∀ (i : Instr) (o : XOp) (w kind par : Nat) (dst src dsc x1 x2 : W64) (s : State) (g : Group) (a : W32) (mine : Team),
    engineRow g i = some (o, w, kind, par, dst, src, dsc, x1, x2) → i.WfCore → Acts i s g a →
    s.team? g.team = some mine → mine.ctag < 2 ^ 16 → (startOf s g a).winOk (g.onPath a) (g.s w) 16 = true →
    (∀ h pa x, QueueTakes (startOf s g a) (g.onPath a) o.q (some 1) true h pa x →
      PacketSent i s g a o.q h pa true o.d o.f.pd x (NumIs 512 · 0
        [(0, 8, kind), (8, 1, o.f.ord.toNat), (16, 24, par), (48, 16, mine.ctag), (64, 64, x.toNat), (128, 64, dst.toNat),
         (192, 64, src.toNat), (256, 64, dsc.toNat), (320, 64, x1.toNat), (384, 64, x2.toNat)])) ∧
    (∀ h pa, (startOf s g a).qhdr (s.grpCtx g) o.q = some h → h.enabled = true → h.cons = 1 →
      (startOf s g a).devPa (s.grpCtx g) (h.slot h.wr) 1 = some pa →
      (startOf s g a).allocClaim g.core g.die (s.grpCtx g) h = .no → FlagFor i s g a o.f.pd false)

/-- 10 R231, 12 R270: QPUT sends the 64 bytes of a window as a packet with the team's tag, and the handle where it allocates one; LAUNCH sends a
packet of kind 0x01 with its handle, tag, and where asked the dependency, the gang bit and the chain bit. -/
def Sys2Proof.Machine.PacketsFromWindows : Prop :=
  ∀ (h : Hdr) (d r q cr pd : Nat) (rc dh gang ord : Bool) (s : State) (g : Group) (a : W32) (mine t : Team) (o : Nat),
    s.team? g.team = some mine → mine.ctag < 2 ^ 16 → (g.s r).toNat % 64 = 0 →
    (startOf s g a).winAt (g.onPath a) (g.s r) = some (t, o) → o + 64 ≤ t.size →
    (startOf s g a).padFree (g.onPath a) (.pad t.id o) 64 0 0 .load = true →
    (let i := Instr.qput h d r q rc pd
     i.WfCore → Acts i s g a → ∀ hd pa x, QueueTakes (startOf s g a) (g.onPath a) q none rc hd pa x →
      PacketSent i s g a q hd pa rc d pd x (NumIs 512 · (t.rd o 64)
        ((48, 16, mine.ctag) :: if rc then [(64, 64, x.toNat)] else []))) ∧
    (let i := Instr.launch h d r q cr dh gang ord pd
     let dep := dh = true ∧ g.h cr ≠ 0
     let seen := if dep then (startOf s g a).recordSeen g.core g.die (s.grpCtx g) (g.h cr) else startOf s g a
     i.WfCore → Acts i s g a → fld (t.rd o 64) 0 8 = 1 → (dep → ∃ r, HandleReads s g a (g.h cr) r) →
      ∀ hd pa x, QueueTakes seen (g.onPath a) q (some 0) true hd pa x →
      PacketSent i s g a q hd pa true d pd x (NumIs 512 · (t.rd o 64)
        ([(48, 16, mine.ctag), (64, 64, x.toNat)] ++ (if dh then [(384, 64, (g.h cr).toNat)] else []) ++
          (if gang then [(18, 1, 1)] else []) ++ if ord then [(8, 1, 1)] else [])))

/-- 10 R223, R232 to R235: FTEST says whether the record is valid or the handle expired, of handle 0 that it is; FWAIT gives word w of a valid
record, of an expired handle status 0xFF, traps on handle 0, and else waits; FEXP and FIMP move handles to and from scalars; FCANCEL of a
pending record that no consumer has taken is remembered, of one that is over does nothing. FTEST and FCANCEL never wait, whether the record's
home answers or not.
Model's choice: that the two read what the home holds then (log 22). -/
def Obligations.HandleInstructions : Prop :=
  ∀ (h : Hdr) (d x w : Nat) (s : State) (g : Group) (a : W32),
    (let i := Instr.ftest h d x
     i.WfCore → Acts i s g a →
      (g.h x = 0 → FlagFor i s g a d true) ∧
      (∀ r, HandleFinds s g a (g.h x) r → FlagFor i s g a d (match r with
        | .expired | .valid _ => true
        | _ => false))) ∧
    (let i := Instr.fwait h d x w
     i.WfCore → Acts i s g a →
      (g.h x = 0 → ∃ t, exec i s = .next t ∧ TrapRaised s t g 0x07 (actOf i g a) a) ∧
      (∀ pa, HandleReads s g a (g.h x) (.valid pa) →
        Yields i s g a none fun g' => ScaWritten g g' d (.ofNat 64 (s.homeRead (pa + 8 * w) 8))) ∧
      (HandleReads s g a (g.h x) .expired → Yields i s g a none fun g' => ScaWritten g g' d (if w = 0 then 0xFF else 0)) ∧
      (HandleReads s g a (g.h x) .pending →
        ∃ t g', exec i s = .next t ∧ t.grp? g.id = some g' ∧ g'.pend = g.pend ∧ RegsKept g g' ∧
          ∀ l < 128, nth g'.lanes l = if (actOf i g a).getLsbD l then .waiting (.handle (g.h x)) else nth g.lanes l)) ∧
    (let i := Instr.fexp h d x
     i.WfCore → Acts i s g a → Yields i s g a none fun g' => ScaWritten g g' d (g.h x)) ∧
    (let i := Instr.fimp h d x
     i.WfCore → Acts i s g a → (g.s x = 0 ∨ ∃ r, HandleReads s g a (g.s x) r) →
      Yields i s g a none fun g' => g'.h d = g.s x ∧ (∀ r < 16, r ≠ d → g'.h r = g.h r) ∧ g'.vregs = g.vregs ∧ g'.sregs = g.sregs ∧
        g'.preds = g.preds) ∧
    (let i := Instr.fcancel h x
     i.WfCore → Acts i s g a →
      ((g.h x = 0 ∨ ∃ r, HandleFinds s g a (g.h x) r ∧ r ≠ .pending) →
        ∃ t g', exec i s = .next t ∧ t.grp? g.id = some g' ∧ Fell i g g' a ∧ g'.pend = g.pend ∧ RegsKept g g' ∧ t.dram = s.dram ∧
          t.copyEngs = s.copyEngs ∧ t.engines = s.engines ∧ t.grids = s.grids) ∧
      (HandleFinds s g a (g.h x) .pending → s.takenBy (s.grpCtx g) (g.h x) = false →
        ∃ t g', exec i s = .next t ∧ t.grp? g.id = some g' ∧ Fell i g g' a ∧ g'.pend = g.pend ∧ RegsKept g g' ∧ t.dram = s.dram ∧
          g.h x ∈ (t.ctxD (s.grpCtx g)).cancels))

/-- 10 R219, R225 to R230: XCOPY, XFILL, XGATH and XCOLL with a window operand in place and a queue that takes a packet send the packet
with exactly the fields that R219 gives, and h[D] takes the handle; where the queue is full or no handle is free, p[PD] takes 0 and
nothing is sent. 10 R231, 12 R270: QPUT sends the 64 bytes of a window as a packet with the team's tag, and the handle where it allocates
one; LAUNCH sends a packet of kind 0x01 with its handle, tag, and where asked the dependency, the gang bit and the chain bit.
Model's choices: log 20 and 22. -/
def Obligations.EngineAndWindowPackets : Prop := EngineInstructionsSendPackets ∧ PacketsFromWindows

namespace Sys2Proof.Machine

/-! ### Special registers, sleep, software traps -/

/-- The value of a special register of at most 64 bits at issue (02 R43). -/
def specialNow (s : State) (g : Group) (num : Nat) : Nat :=
  let team (f : Team → Nat) : Nat := match s.team? g.team with
    | some t => f t
    | none => 0
  if num = 0x03 then g.gid else if num = 0x04 then team (·.teamid) else if num = 0x05 then team (·.cluster)
  else if num = 0x06 then team (·.crank) else if num = 0x07 then (s.gridId g).toNat else if num = 0x08 then g.core / 48
  else if num = 0x09 then g.core / 12 % 4 else if num = 0x0A then g.friv else if num = 0x0B then g.sbchk.toNat
  else if num = 0x0C then g.spoob.toNat else if num = 0x0D then g.spooba.toNat else if num = 0x0E then (s.die (g.core / 48)).cycle
  else g.trapc.toNat

/-- Everything of a group but FRIV, SBCHK, SPOOB and SPOOBA. -/
def BesidesControl (g g' : Group) : Prop :=
  g'.vregs = g.vregs ∧ g'.sregs = g.sregs ∧ g'.preds = g.preds ∧ g'.hnds = g.hnds ∧ g'.fpf = g.fpf ∧ g'.donem = g.donem ∧
  g'.trapc = g.trapc ∧ g'.trap = g.trap ∧ g'.freed = g.freed ∧ g'.pend = g.pend ∧ g'.obq.map (·.uid) = g.obq.map (·.uid)

end Sys2Proof.Machine

/-- 14 R324: SREAD gives the value at issue: PCV and LANEID lane by lane, DONEM as a predicate, the others zero-extended into a scalar or the
same in every lane, an NCW register in two scalars. -/
def Sys2Proof.Machine.SpecialRegistersRead : Prop :=
  ∀ (h : Hdr) (d num kind : Nat) (s : State) (g : Group) (a : W32),
    let i := Instr.sread h d num kind
    i.WfCore → Acts i s g a →
    Yields i s g a none fun g' =>
      match kind with
      | 0 => ScaWritten g g' d (.ofNat 64 (specialNow s g num))
      | 1 => AllLanes g' false d (fun l =>
          if num = 0 then (nth g.pcv l).zeroExtend 64 else if num = 2 then .ofNat 64 l else .ofNat 64 (specialNow s g num)) ∧
          (∀ r < 256, r ≠ d → g'.v r = g.v r) ∧ g'.sregs = g.sregs ∧ g'.preds = g.preds ∧ g'.hnds = g.hnds
      | 2 => PrdWritten g g' d (BitVec.allOnes 128) g.donem.getLsbD
      | _ =>
        let w := (nth (s.ctxD (s.grpCtx g)).ncw (num % 16)).toNat
        g'.s d = .ofNat 64 w ∧ g'.s (d + 1) = .ofNat 64 (w / 2 ^ 64) ∧ (∀ r < 192, r ≠ d → r ≠ d + 1 → g'.s r = g.s r) ∧
          g'.vregs = g.vregs ∧ g'.preds = g.preds ∧ g'.hnds = g.hnds

/-- 03 R58, 14 R325, R338, R339: SWRITE of FRIV clamps to 8 to 20, of SBCHK takes bit 0, of SPOOB clears both registers; of an NCW register,
where the context allows it and the value keeps the rules, it waits for the group's entries at `.dev` and until the dirty bytes of the old
range's window lines are written back, and then puts the value in force, the context's window lines of the old range, and no others, gone
from every L1. -/
def Sys2Proof.Machine.SpecialRegistersWritten : Prop :=
  ∀ (h : Hdr) (x n : Nat) (s : State) (g : Group) (a : W32),
    (let i := Instr.swriteFriv h x
     i.WfCore → Acts i s g a →
      ∃ t g', exec i s = .next t ∧ t.grp? g.id = some g' ∧ Fell i g g' a ∧ BesidesControl g g' ∧ Around g.id g.core s t ∧
        g'.friv = max 8 (min 20 ((g.s x).toNat % 32)) ∧ g'.sbchk = g.sbchk ∧ g'.spoob = g.spoob ∧ g'.spooba = g.spooba) ∧
    (let i := Instr.swriteSbchk h x
     i.WfCore → Acts i s g a →
      ∃ t g', exec i s = .next t ∧ t.grp? g.id = some g' ∧ Fell i g g' a ∧ BesidesControl g g' ∧ Around g.id g.core s t ∧
        g'.sbchk = (g.s x).getLsbD 0 ∧ g'.friv = g.friv ∧ g'.spoob = g.spoob ∧ g'.spooba = g.spooba) ∧
    (let i := Instr.swriteSpoob h x
     i.WfCore → Acts i s g a →
      ∃ t g', exec i s = .next t ∧ t.grp? g.id = some g' ∧ Fell i g g' a ∧ BesidesControl g g' ∧ Around g.id g.core s t ∧
        g'.spoob = false ∧ g'.spooba = 0 ∧ g'.friv = g.friv ∧ g'.sbchk = g.sbchk) ∧
    (let i := Instr.swriteNcw h x n
     let lo := (g.s x).toNat
     let hi := (g.s (x + 1)).toNat
     i.WfCore → Acts i s g a → bit (s.desc (s.grpCtx g)).flags 1 = true → lo % 65536 = 0 → apert (g.s x) = .trans → hi / 2 ^ 32 % 2 ^ 31 = 0 →
      ((g.onPath a).obq.all fun e => (startOf s g a).performedAt (g.onPath a) e 4) = true →
      (∀ c < 192, ((s.core c).l1.map (·.addr)).Nodup) →
      let old := (nth (s.ctxD (s.grpCtx g)).ncw n).toNat
      ((startOf s g a).windowsClean (s.grpCtx g) old = false → ∃ t g', exec i s = .next t ∧ t.grp? g.id = some g' ∧ g'.pcv = g.pcv ∧
        g'.lanes = g.lanes ∧ RegsKept g g' ∧ g'.pend = g.pend ∧ (t.ctxD (s.grpCtx g)).ncw = (s.ctxD (s.grpCtx g)).ncw ∧ t.dram = s.dram) ∧
      ((startOf s g a).windowsClean (s.grpCtx g) old = true → ∃ t g', exec i s = .next t ∧ t.grp? g.id = some g' ∧ Fell i g g' a ∧ RegsKept g g' ∧ g'.pend = g.pend ∧ t.teams = s.teams ∧
        (∀ k < 16, nth (t.ctxD (s.grpCtx g)).ncw k = if k = n then .ofNat 128 (lo + 2 ^ 64 * hi) else nth (s.ctxD (s.grpCtx g)).ncw k) ∧
        ∀ c < 192, (t.core c).l1 = (s.core c).l1.filter fun l => !ncwLine (s.grpCtx g) old l))

/-- 14 R326, R327: PMRD gives the selected counter's value; SLEEP of 0 cycles goes on, of n its active lanes wait until cycle t + 1 + n and then stand behind it. -/
def Obligations.CountersAndSleep : Prop :=
  ∀ (h : Hdr) (d sel : Nat) (x : Src) (s : State) (g : Group) (a : W32),
    (let i := Instr.pmrd h d sel
     let c := if sel < 64 then nth (s.core g.core).ctrs (sel % 8) else if sel < 128 then nth (s.quad (g.core / 12)).ctrs (sel % 8)
       else nth (s.die (g.core / 48)).ctrs (sel % 16)
     i.WfCore → Acts i s g a →
      Yields i s g a none fun g' => ScaWritten g g' d c.val) ∧
    (let i := Instr.sleep h x
     let n := (g.opnd true 0 x 0).toNat
     i.WfCore → Acts i s g a →
      (n = 0 → ∃ t g', exec i s = .next t ∧ t.grp? g.id = some g' ∧ Fell i g g' a ∧ g'.pend = g.pend ∧ RegsKept g g' ∧
        Around g.id g.core s t) ∧
      (n ≠ 0 → ∃ t g' u, exec i s = .next t ∧ t.grp? g.id = some g' ∧ g'.pend = g.pend ∧ RegsKept g g' ∧ Around g.id g.core s t ∧
        ∀ l < 128, nth g'.lanes l =
          if (actOf i g a).getLsbD l then .waiting (.sleep (s.now g + 1 + n) (nextPc a i.size) u) else nth g.lanes l)) ∧
    (∀ gid g0, s.grp? gid = some g0 → g0.res = .resident →
      ∃ t g', exec (.sleepEnd gid) s = .next t ∧ t.grp? gid = some g' ∧ g'.vregs = g0.vregs ∧ g'.sregs = g0.sregs ∧ g'.pend = g0.pend ∧
        t.dram = s.dram ∧ ∀ l < 128, match nth g0.lanes l with
          | .waiting (.sleep w nx _) =>
            if w ≤ (s.die (g0.core / 48)).cycle then nth g'.lanes l = .ready ∧ nth g'.pcv l = nx
            else nth g'.lanes l = nth g0.lanes l ∧ nth g'.pcv l = nth g0.pcv l
          | x => nth g'.lanes l = x ∧ nth g'.pcv l = nth g0.pcv l)

/-- 14 R310, R311, R328: TRAP raises cause 0x0E and BKPT 0x0D with after = 1, their immediate as code and the active lanes; the lanes stand at
the instruction, and registers and memory stay. -/
def Obligations.SoftwareTraps : Prop :=
  ∀ (h : Hdr) (code : Byte) (s : State) (g : Group) (a : W32),
    let raised := fun (i : Instr) (cause : Nat) => ∃ t g' tr, exec i s = .next t ∧ t.grp? g.id = some g' ∧ g'.trap = some tr ∧
      tr.cause = cause ∧ tr.after = true ∧ tr.code = code.toNat ∧ tr.pc = a ∧ tr.lanes = actOf i g a ∧ tr.lane = 0xFF ∧
      g'.pcv = g.pcv ∧ g'.lanes = g.lanes ∧ g'.vregs = g.vregs ∧ g'.sregs = g.sregs ∧ g'.preds = g.preds ∧ g'.hnds = g.hnds ∧
      g'.pend = g.pend ∧ t.dram = s.dram ∧ t.quads = s.quads ∧ t.teams = s.teams
    ((Instr.trap h code).WfCore → Acts (.trap h code) s g a → raised (.trap h code) 0x0E) ∧
    ((Instr.bkpt h code).WfCore → Acts (.bkpt h code) s g a → raised (.bkpt h code) 0x0D) ∧
    ∀ i ∈ [Instr.trap h code, .bkpt h code], i.WfCore → Issues i s g a → actOf i g a = 0 →
      ∃ t g', exec i s = .next t ∧ t.grp? g.id = some g' ∧ g'.trap = none ∧ Fell i g g' a ∧ g'.pend = g.pend ∧ RegsKept g g' ∧ Around g.id g.core s t

/-- 14 R310, R311, R313: once its results have committed, a raised trap is delivered: TRAPC holds its cause, after bit, lane, code and PC, the
group's reservations are gone, its lanes keep their states and PCs, and a record with the context's fields waits for its place in the trap
queue. -/
def Obligations.TrapsAreDelivered : Prop :=
  ∀ (gid : Nat) (s : State) (g : Group) (tr : TrapSt),
    s.grp? gid = some g → g.res = .resident → g.trap = some tr → tr.delivered = false → (g.flush (s.now g)).pend = [] → g.core < 192 →
    tr.cause < 256 → tr.lane < 256 → tr.code < 256 →
    ∃ t g' r, exec (.trapDeliver gid) s = .next t ∧ t.grp? gid = some g' ∧ g'.pcv = g.pcv ∧ g'.lanes = g.lanes ∧
      NumIs 64 g'.trapc.toNat 0 [(0, 8, tr.cause), (8, 1, tr.after.toNat), (16, 8, tr.lane), (24, 8, tr.code), (32, 32, tr.pc.toNat)] ∧
      (∃ tr', g'.trap = some tr' ∧ tr'.delivered = true ∧ tr'.cause = tr.cause) ∧
      (∀ x ∈ (t.core g.core).resv, x.grp ≠ gid) ∧ t.dram = s.dram ∧
      (t.ctxD (s.grpCtx g)).traps = (s.ctxD (s.grpCtx g)).traps ++ [r] ∧ r.grp = gid ∧ r.seq = none ∧ r.cause = tr.cause ∧
      r.words = [0, r.words.getD 1 0, 0, tr.lanes.truncate 64, (tr.lanes >>> 64).truncate 64, g'.trapc, s.gridId g, tr.va] ∧
      (g.slot < 128 → NumIs 64 (r.words.getD 1 0).toNat 0
        [(1, 2, g.core / 48), (3, 2, g.core / 12 % 4), (5, 4, g.core % 12), (9, 7, g.slot), (16, 1, tr.after.toNat)])

/-- 14 R324: SREAD gives the value at issue: PCV and LANEID lane by lane, DONEM as a predicate, the others zero-extended into a scalar or
the same in every lane, an NCW register in two scalars. 03 R58, 14 R325, R338, R339: SWRITE of FRIV clamps to 8 to 20, of SBCHK takes bit
0, of SPOOB clears both registers; of an NCW register, where the context allows it and the value keeps the rules, it waits for the group's
entries at `.dev` and until the dirty bytes of the old range's window lines are written back, and then puts the value in force, the
context's window lines of the old range, and no others, gone from every L1.
Model's choice: log 53. -/
def Obligations.SpecialRegisters : Prop := SpecialRegistersRead ∧ SpecialRegistersWritten

namespace Sys2Proof.Machine

/-! ### Matrix instructions -/

/-- Chain engine EN serves the group now: present, in the chain, its lease held or free, with room in the table of engine e; `u` is the state
once the lease is held (11 R236, R239, R242). -/
structure EngineServes (s : State) (g : Group) (t : Team) (en e : Nat) (u : State) : Prop where
  team  : s.team? g.team = some t
  here  : s.matPresent (g.core / 4) = true
  chain : en < s.chainOf t.id (g.core / 4)
  lease : s.takeLease t.id (g.core / 4) = some u
  eng   : e = g.core / 4 + en
  bound : e < 48
  room  : ((u.eng e).table.filter MReq.inTable).length < 32

/-- A request enters the table of engine e, and with `q` the group's outbound queue; the values it was made with. -/
def RequestEnters (i : Instr) (s : State) (g : Group) (a : W32) (e : Nat) (u : State) (q : Bool) (x y tok hd : W64)
    (W : List Wr → Prop) : Prop :=
  ∃ t g' r ws, exec i s = .next t ∧ t.grp? g.id = some g' ∧ Fell i g g' a ∧ FilesKept g g' ∧ t.teams = s.teams ∧
    (t.eng e).table = (u.eng e).table ++ [r] ∧ r.instr = i ∧ r.grp = g.id ∧ r.team = g.team ∧ r.a = x ∧ r.b = y ∧ r.tok = tok ∧
    r.hdl = hd ∧ r.eng = e ∧ r.pc = a ∧ r.passes = 0 ∧ r.done = false ∧ r.acc = false ∧ r.started = false ∧
    g'.engines = g.engines ++ [reqId r.uid] ∧
    (∃ old es, g'.obq = old ++ es ∧ old.map (·.uid) = g.obq.map (·.uid) ∧
      es.map (fun z => (z.kind, z.stage)) = if q then [(EKind.engine (reqId r.uid), Stage.queued)] else []) ∧
    g'.pend = g.pend ++ (if ws = [] then [] else [⟨none, [], ws⟩]) ∧ W ws

/-- The handle and the predicate that a request's allocation gives. -/
def HandleGiven (i : Instr) (g : Group) (a : W32) (d pd : Nat) (hd : W64) (ws : List Wr) : Prop :=
  (∀ r < 16, (g.commitAll ws).h r = if r = d then hd else g.h r) ∧
  (∀ l < 128, ((g.commitAll ws).p pd).getLsbD l = if pd = 0 then true else ((actOf i g a).getLsbD l || (g.p pd).getLsbD l)) ∧
  (∀ r < 8, r ≠ pd → (g.commitAll ws).p r = g.p r) ∧ (g.commitAll ws).vregs = g.vregs ∧ (g.commitAll ws).sregs = g.sregs

/-- The state in which a request takes its engine: behind the reading of a handle, where it reads one. -/
def afterHandle (s : State) (g : Group) (a : W32) (reads : Bool) (x : W64) : State :=
  if reads && x != 0 then (startOf s g a).recordSeen g.core g.die (s.grpCtx g) x else startOf s g a

/-- A weight tile lies in a window of the cluster or, for MWLD, in translated memory, at a multiple of 32 (11 R241, R244). -/
def TileAt (s : State) (g : Group) (x : W64) (trans : Bool) : Prop :=
  x.toNat % 32 = 0 ∧ ((∃ o, apert x = .team o) ∨ (trans = true ∧ apert x = .trans) ∨
    ∃ k o t u, apert x = .clu k o ∧ s.team? g.team = some t ∧ s.rank? t k = some u)

/-- The sets that an MMA reads have formats and orders that suit it, on one engine (11 R253). -/
def SetsSuit (x : Engine) (f : MFld) : Prop :=
  let suits := fun k accord => (nth x.decl k).1 ≠ 15 ∧ (nth x.decl k).2 = accord ∧ (5 ≤ (nth x.decl k).1 ↔ 5 ≤ f.fmt)
  if f.shp = false then suits f.ws false
  else if f.cls then ∀ k < 4, suits k false else ∀ k < 7, suits k true

end Sys2Proof.Machine

/-- 11 R239, R241, R242, R254 to R256: MWLD, MACZ, MACRD and MACWR on an engine that serves the team enter its reservation table with their
register values and the handle allocated; all but MACZ also enter the group's outbound queue; MWLD declares its sets. -/
def Obligations.MatrixRequestsEnterTable : Prop :=
  ∀ (h : Hdr) (o : MOp) (en mask : Nat) (s : State) (g : Group) (a : W32) (t : Team) (e : Nat) (u v : State) (hd : W64),
    (let i := Instr.mwld h o
     let tok := if o.f.wh then g.s o.c else 0
     i.WfCore → Acts i s g a → TileAt s g (g.s o.a) true → (tok = 0 ∨ ∃ r, HandleReads s g a tok r) →
      EngineServes (afterHandle s g a true tok) (g.onPath a) t o.f.en e u → u.alloc g.core g.die (s.grpCtx g) = .ok hd v →
      RequestEnters i s g a e u true (g.s o.a) 0 tok hd (HandleGiven i g a o.d o.f.pd hd) ∧
      ∃ t', exec i s = .next t' ∧ ∀ k < 8, nth (t'.eng e).decl k =
        if (if o.f.acc then decide (k < 7) else decide (k = o.set)) then (o.f.fmt, o.f.acc) else nth (u.eng e).decl k) ∧
    (let i := Instr.macz h en mask
     i.WfCore → Acts i s g a → EngineServes (startOf s g a) (g.onPath a) t en e u →
      RequestEnters i s g a e u false 0 0 0 0 (· = [])) ∧
    (∀ i, (i = Instr.macrd h o ∨ i = Instr.macwr h o) → i.WfCore → Acts i s g a →
      (o.f.wh = true → HandleReads s g a (g.h o.c) .expired ∨ ∃ pa, HandleReads s g a (g.h o.c) (.valid pa)) →
      EngineServes (afterHandle s g a o.f.wh (g.h o.c)) (g.onPath a) t o.f.en e u → u.alloc g.core g.die (s.grpCtx g) = .ok hd v →
      RequestEnters i s g a e u true (g.s o.a) (g.s o.b) 0 hd (HandleGiven i g a o.d o.f.pd hd))

/-- 11 R242, R253: an MMA by a member of a register without a request, whose sets suit it, signs the register and attaches its request; as the
last member it ends the generation and the request enters the engine's table; sets that do not suit raise MATFMT. -/
def Sys2Proof.Machine.MmaSignsAndAttaches : Prop :=
  ∀ (h : Hdr) (o : MOp) (s : State) (g : Group) (a : W32) (t : Team) (e : Nat) (u v : State) (hd : W64),
    let i := Instr.mma h o
    let c := cvOf t o.c
    let last := (List.range 32).all fun m => (c.signed.getLsbD m || m == g.gid) == c.members.getLsbD m
    i.WfCore → Acts i s g a → s.team? g.team = some t → engOfCore t.core = g.core / 4 → TileAt s g (g.s o.a) false → c.bound = none →
    c.members.getLsbD g.gid = true → (∀ x ∈ s.groups, ∀ l < 128, ∀ y, nth x.lanes l ≠ .waiting (.cvsign o.c (some y))) →
    EngineServes (startOf s g a) (g.onPath a) t 0 e u →
    (¬ (∀ j < u.chainOf t.id e, SetsSuit (u.eng (e + j)) o.f) → ∃ t', exec i s = .next t' ∧ TrapRaised s t' g 0x0B (actOf i g a) a) ∧
    ((∀ j < u.chainOf t.id e, SetsSuit (u.eng (e + j)) o.f) → c.signed.getLsbD g.gid = false → u.alloc g.core g.die (s.grpCtx g) = .ok hd v →
      ∃ t' g' r w ws, exec i s = .next t' ∧ t'.grp? g.id = some g' ∧ FilesKept g g' ∧
        FellAndReleased i g g' a (if last then some o.c else none) ∧ g'.pend = g.pend ++ [⟨none, [], ws⟩] ∧
        HandleGiven i g a o.d o.f.pd hd ws ∧ r.instr = i ∧ r.a = g.s o.a ∧ r.hdl = hd ∧ r.eng = e ∧ r.passes = 0 ∧
        (∃ old, g'.engines = old ++ [reqId r.uid] ∧ old.length = g.engines.length) ∧ t'.team? t.id = some w ∧
        if last then (t'.eng e).table = (u.eng e).table ++ [r] ∧ (cvOf w o.c).bound = none ∧ (cvOf w o.c).signed = 0 ∧
          (cvOf w o.c).gen = (c.gen + 1) % 16
        else (t'.eng e).table = (u.eng e).table ∧ (cvOf w o.c).bound = some r ∧ (cvOf w o.c).gen = c.gen ∧
          ∀ m < 32, (cvOf w o.c).signed.getLsbD m = (c.signed.getLsbD m || m == g.gid))

/-- 11 R257, R258: MCHAIN with the leases at hand and no request of the team outstanding sets the chain's length and gives up the engines that
leave it; MSTAT reports an engine's table, lease, chain and sets, and `.rel` by a holder makes its lanes wait for the leases' end. -/
def Sys2Proof.Machine.ChainsAndEngineState : Prop :=
  ∀ (h : Hdr) (n d en : Nat) (rel : Bool) (s : State) (g : Group) (a : W32) (t : Team) (u v : State),
    let e0 := g.core / 4
    (let i := Instr.mchain h n
     i.WfCore → Acts i s g a → e0 % 3 + n ≤ 2 → g.core < 192 → (∀ j ≤ n, s.matPresent (e0 + j) = true) →
      EngineServes (startOf s g a) (g.onPath a) t 0 e0 u → s.chainOf t.id e0 ≤ 3 - e0 % 3 →
      u.takeLeases t.id ((List.range n).map (e0 + 1 + ·)) = .inl v →
      (∀ j < max (u.chainOf t.id e0) (n + 1), v.teamReqs t.id (e0 + j) = false) →
      ∃ t' g', exec i s = .next t' ∧ t'.grp? g.id = some g' ∧ Fell i g g' a ∧ RegsKept g g' ∧ g'.pend = g.pend ∧ t'.dram = s.dram ∧
        (t'.eng e0).chain = n + 1 ∧ (∀ j ≤ n, (t'.eng (e0 + j)).lease = some t.id) ∧
        ∀ j, n < j → j < u.chainOf t.id e0 → (t'.eng (e0 + j)).leaving = true) ∧
    (let i := Instr.mstat h d en rel
     let x := s.eng (e0 + en)
     let mine := (s.eng e0).lease = some g.team
     let word := fun (ws : List Wr) => ∀ r < 192, if r = d then
         NumIs 64 ((g.commitAll ws).s d).toNat 0
          [(0, 6, (x.table.filter MReq.inTable).length), (6, 1, if x.lease.isSome ∧ x.lease ≠ some g.team then 1 else 0), (7, 1, if x.lease = some g.team then 1 else 0),
           (8, 2, (if mine then (s.eng e0).chain else x.chain) - 1), (16, 32, ((List.range 8).map fun k => 16 ^ k * (nth x.sets k).fmt).sum),
           (48, 8, ((List.range 8).map fun k => 2 ^ k * (nth x.sets k).accord.toNat).sum)]
       else (g.commitAll ws).s r = g.s r
     i.WfCore → Acts i s g a → s.matPresent e0 = true → en < s.chainOf g.team e0 → (x.table.filter MReq.inTable).length ≤ 32 → x.chain ≤ 3 → (s.eng e0).chain ≤ 3 →
      (∀ k < 8, (nth x.sets k).fmt < 16) → e0 + (s.eng e0).chain ≤ 48 →
      ∃ t' g' ws, exec i s = .next t' ∧ t'.grp? g.id = some g' ∧ FilesKept g g' ∧ g'.pend = g.pend ++ [⟨none, [], ws⟩] ∧ word ws ∧
        t'.dram = s.dram ∧
        if rel = true ∧ mine then
          (∀ j < (s.eng e0).chain, (t'.eng (e0 + j)).leaving = true) ∧
          ∀ l < 128, nth g'.lanes l = if (actOf i g a).getLsbD l then
            .waiting (.rel ((List.range (s.eng e0).chain).map (e0 + ·)) (nextPc a i.size)) else nth g.lanes l
        else Fell i g g' a ∧ t'.engines = s.engines)

/-- 11 R242, R253: an MMA by a member of a register without a request, whose sets suit it, signs the register and attaches its request; as
the last member it ends the generation and the request enters the engine's table; sets that do not suit raise MATFMT. 11 R257, R258:
MCHAIN with the leases at hand and no request of the team outstanding sets the chain's length and gives up the engines that leave it;
MSTAT reports an engine's table, lease, chain and sets, and `.rel` by a holder makes its lanes wait for the leases' end.
Model's choices: log 57 and 58. -/
def Obligations.MatrixSignaturesAndChains : Prop := MmaSignsAndAttaches ∧ ChainsAndEngineState

namespace Sys2Proof.Machine

/-! ### Curd units -/

/-- The group's grid uses curd units and may use die d, whose unit no other grid holds (12 R272). -/
def CurdFree (s : State) (k : Grid) (d : Nat) : Prop :=
  s.listOk k d = true ∧ ((s.die d).curd.owner = none ∨ (s.die d).curd.owner = some k.id)

/-- The items of a list, oldest first. -/
def listItems (c : Curd) (list : Nat) : List W128 := (c.items.filter (·.1 == list)).map (·.2)

/-- Lanes of a mask, ascending. -/
def ascending (m : Mask) : List Nat := (List.range 128).filter m.getLsbD

/-- Predicate bits after a WTAKE: p[PG] of the lanes that got an item, p[PQ] of all its lanes at quiescence. -/
def TakeBits (g g' : Group) (act : Mask) (pg pq : Nat) (got : Nat → Bool) (quiet : Bool) : Prop :=
  (∀ l < 128, (g'.p pg).getLsbD l = if pg = 0 then true else if act.getLsbD l then got l else (g.p pg).getLsbD l) ∧
  (∀ l < 128, (g'.p pq).getLsbD l = if pq = 0 then true else if act.getLsbD l then quiet else (g.p pq).getLsbD l) ∧
  (∀ r < 8, r ≠ pg → r ≠ pq → g'.p r = g.p r) ∧ g'.sregs = g.sregs ∧ g'.hnds = g.hnds

end Sys2Proof.Machine

/-- 12 R272 to R276: WAPP sends each active lane's item to its list's die, as a release at `.dev`, and answers 1 while there is room, at
quiescence 0; WTAKE takes the oldest items of its list into its lowest active lanes, reports quiescence, or waits at the list; WIDLE marks
the group idle. -/
def Sys2Proof.Machine.WorkLists : Prop :=
  ∀ (h : Hdr) (d x pg pq : Nat) (s : State) (g : Group) (a : W32) (k : Grid), s.grpGrid? g = some k → k.usesCurd = true →
    (let i := Instr.wapp h d x pg
     let list := fun l => (g.xread x ⟨.id, 0⟩ 0 l).toNat % 2 ^ 14
     let item := fun l => BitVec.ofNat 128 (((List.range 4).map fun j => (g.xread (d + j) ⟨.id, 0⟩ 0 l).toNat * 2 ^ (32 * j)).sum)
     let ls := ascending (actOf i g a)
     i.WfCore → Acts i s g a → (∀ l ∈ ls, CurdFree s k (list l / 4096 % 4)) →
      (k.quiet = true → FlagFor i s g a pg false) ∧
      (k.quiet = false → (∀ e < 4, (s.die e).curd.items.length + (s.die e).curd.fly.length + 128 ≤ 2 ^ 20) →
        ∃ t g' ws es inst, exec i s = .next t ∧ t.grp? g.id = some g' ∧ Fell i g g' a ∧ FilesKept g g' ∧ g'.idle = false ∧ t.dram = s.dram ∧
          g'.pend = g.pend ++ [⟨none, [], ws⟩] ∧ PrdWritten g (g.commitAll ws) pg (actOf i g a) (fun _ => true) ∧
          (∃ old, g'.obq = old ++ es ∧ old.map (·.uid) = g.obq.map (·.uid)) ∧
          es.map (fun e => (e.lane, e.kind, e.rel, e.inst)) = ls.map (fun l => (l, EKind.item (list l), 4, inst)) ∧
          ∀ e < 4, (t.die e).curd.fly = (s.die e).curd.fly ++
              (ls.filter fun l => list l / 4096 % 4 == e).map (fun l => (g.id, list l, item l, inst)) ∧
            (t.die e).curd.items = (s.die e).curd.items ∧
            ((∃ l ∈ ls, list l / 4096 % 4 = e) → (t.die e).curd.owner = some k.id))) ∧
    (let i := Instr.wtake h d x pg pq
     let list := (g.s x).toNat % 2 ^ 14
     let e := list / 4096 % 4
     let c := (s.die e).curd
     let ls := ascending (actOf i g a)
     let n := min (listItems c list).length ls.length
     i.WfCore → Acts i s g a → CurdFree s k e →
      (k.quiet = true → Yields i s g a none fun g' => TakeBits g g' (actOf i g a) pg pq (fun _ => false) true ∧ g'.vregs = g.vregs) ∧
      (k.quiet = false → listItems c list ≠ [] → (∀ w ∈ c.waits, w.list ≠ list) →
        ∃ t g' ws, exec i s = .next t ∧ t.grp? g.id = some g' ∧ Fell i g g' a ∧ FilesKept g g' ∧ g'.idle = false ∧ t.dram = s.dram ∧
          g'.pend = g.pend ++ [⟨none, [], ws⟩] ∧
          TakeBits g (g.commitAll ws) (actOf i g a) pg pq (fun l => (ls.take n).contains l) false ∧
          (∀ j < n, ∀ m < 4, ((g.commitAll ws).v (d + m)).get ((ls[j]?).getD 0) =
            .ofNat 32 (((listItems c list)[j]?.getD 0).toNat / 2 ^ (32 * m))) ∧
          listItems (t.die e).curd list = (listItems c list).drop n ∧
          ∀ y, y ≠ list → listItems (t.die e).curd y = listItems c y) ∧
      (k.quiet = false → (listItems c list = [] ∨ ∃ w ∈ c.waits, w.list = list) →
        ∃ t g' w, exec i s = .next t ∧ t.grp? g.id = some g' ∧ RegsKept g g' ∧ g'.pend = g.pend ∧ g'.idle = true ∧ t.dram = s.dram ∧
          (t.die e).curd.waits = c.waits ++ [w] ∧ w.grp = g.id ∧ w.list = list ∧ w.mask = actOf i g a ∧
          ∀ l < 128, nth g'.lanes l = if (actOf i g a).getLsbD l then .waiting (.take w.uid) else nth g.lanes l)) ∧
    (let i := Instr.widle h
     i.WfCore → Acts i s g a →
      ∃ t g', exec i s = .next t ∧ t.grp? g.id = some g' ∧ Fell i g g' a ∧ RegsKept g g' ∧ g'.pend = g.pend ∧ g'.idle = true ∧
        Around g.id g.core s t)

/-- 12 R274 to R277: the items that one WAPP sent to a list, their releases met, arrive together behind the items of the list; the one WTAKE that
waits there takes as many as it has lanes; at quiescence the grid is marked and every WTAKE that waits in its units ends, its lanes ready
behind it. -/
def Sys2Proof.Machine.ItemsArriveAndQuiescence : Prop :=
  (∀ (die i gid list inst : Nat) (item : W128) (s : State), die < 4 →
    let c := (s.die die).curd
    let mine := fun (y : Nat × Nat × W128 × Nat) => y.1 == gid && y.2.1 == list && y.2.2.2 == inst
    let came := (c.fly.filter mine).map (·.2.2.1)
    let due := fun (e : Entry) => e.kind = .item list ∧ e.inst = inst ∧ e.stage = .queued
    c.fly[i]? = some (gid, list, item, inst) → (∀ y ∈ c.fly.take i, y.1 = gid → y.2.1 ≠ list) →
    (∀ g, s.grp? gid = some g → ∀ j e, g.obq[j]? = some e → due e → (∀ y ∈ g.obq.take j, ¬ due y) → s.heldBack g j e false = false) →
    ∃ t, exec (.itemArrive die i) s = .next t ∧ (t.die die).curd.fly = c.fly.filter (!mine ·) ∧ t.dram = s.dram ∧ t.teams = s.teams ∧
      ((∀ w ∈ c.waits, w.list ≠ list) →
        (t.die die).curd.items = c.items ++ came.map (list, ·) ∧ (t.die die).curd.waits = c.waits) ∧
      (∀ w, c.waits = [w] → w.list = list → listItems c list = [] →
        (t.die die).curd.waits = [] ∧ listItems (t.die die).curd list = came.drop (ascending w.mask).length)) ∧
  (∀ (grid : Nat) (s : State) (k : Grid), s.grid? grid = some k → k.usesCurd = true → k.quiet = false → s.quiescent k = true →
    (s.dies.toList.flatMap fun d => d.curd.waits.map (·.uid)).Nodup →
    ∃ t k', exec (.quiescenceReport grid) s = .next t ∧ t.grid? grid = some k' ∧ k'.quiet = true ∧ t.dram = s.dram ∧ t.teams = s.teams ∧
      ∀ d < 4, (s.die d).curd.owner = some grid → (t.die d).curd.waits = [] ∧
        ∀ w ∈ (s.die d).curd.waits, ∀ g, s.grp? w.grp = some g →
          ∃ g', t.grp? w.grp = some g' ∧ ∀ l < 128, nth g.lanes l = .waiting (.take w.uid) → nth g'.lanes l = .ready ∧ nth g'.pcv l = w.next)

/-- 12 R272 to R276: WAPP sends each active lane's item to its list's die, as a release at `.dev`, and answers 1 while there is room, at
quiescence 0; WTAKE takes the oldest items of its list into its lowest active lanes, reports quiescence, or waits at the list; WIDLE marks
the group idle. 12 R274 to R277: the items that one WAPP sent to a list, their releases met, arrive
together behind the items of the list; the one WTAKE that waits there takes as many as it has lanes; at quiescence the grid is marked and every
WTAKE that waits in its units ends, its lanes ready behind it.
Model's choice: log 61. -/
def Obligations.WorkListsAndItems : Prop := WorkLists ∧ ItemsArriveAndQuiescence

namespace Sys2Proof.Machine

/-! ### Stack cores -/

/-- The task `t` of stack core sc executes `i`: it neither waits nor has ended (13 R287). -/
structure TIssues (i : Instr) (s : State) (sc : Nat) (t : Task) : Prop where
  range : sc < 256
  cur   : s.cur = .task sc
  task  : s.task? sc = some t
  runs  : t.fin = none
  awake : t.wait = .no

/-- Active lanes of `i` (13 R287). -/
def tAct (i : Instr) (t : Task) : SMask := if (hdrOf i).neg then ~~~(t.pr (hdrOf i).pr) else t.pr (hdrOf i).pr

/-- Nothing changes but the task of stack core sc and the model's count of free values. -/
structure BesidesTask (sc : Nat) (s t : State) : Prop where
  dram  : t.dram = s.dram
  dies  : t.dies = s.dies
  quads : t.quads = s.quads
  cores : t.cores = s.cores
  teams : t.teams = s.teams
  grps  : t.groups = s.groups
  grids : t.grids = s.grids
  ctxs  : t.ctxs = s.ctxs
  engs  : t.engines = s.engines
  cpes  : t.copyEngs = s.copyEngs
  chans : t.chans = s.chans
  net   : t.net = s.net
  reps  : t.replies = s.replies
  md    : t.md = s.md
  stks  : ∀ k < 256, k ≠ sc → t.stk k = s.stk k
  savd  : (t.stk sc).saved = (s.stk sc).saved
  left  : (t.stk sc).left = (s.stk sc).left
  last  : (t.stk sc).served = (s.stk sc).served

/-- `i` completes: the task moves on to the next instruction and P holds of it; nothing else changes. -/
def TEnds (i : Instr) (s : State) (sc : Nat) (t : Task) (P : Task → Prop) : Prop :=
  ∃ u t', exec i s = .next u ∧ u.task? sc = some t' ∧ t'.pc = nextPc t.pc i.size ∧ t'.nextIssue = s.stackNow sc + 1 + (hdrOf i).stall ∧
    BesidesTask sc s u ∧ P t'

/-- What no register write changes. -/
def TaskKept (t t' : Task) : Prop :=
  t'.scr = t.scr ∧ t'.koob = t.koob ∧ t'.kooba = t.kooba ∧ t'.rowops = t.rowops ∧ t'.grid = t.grid ∧ t'.taskid = t.taskid ∧
  t'.kscr = t.kscr ∧ t'.wait = t.wait ∧ t'.fin = t.fin ∧ t'.preempt = t.preempt

/-- No register changes. -/
def TRegsKept (t t' : Task) : Prop :=
  (∀ r < 64, ∀ l < 64, t'.wr r l = t.wr r l) ∧ (∀ r < 32, t'.xr r = t.xr r) ∧ (∀ r < 4, t'.pr r = t.pr r)

/-- The lanes of m of w[d] receive their values. -/
def WWritten (t t' : Task) (d : Nat) (m : SMask) (f : Nat → W32) : Prop :=
  (∀ l < 64, t'.wr d l = if m.getLsbD l then f l else t.wr d l) ∧ (∀ r < 64, r ≠ d → ∀ l < 64, t'.wr r l = t.wr r l) ∧
  (∀ r < 32, t'.xr r = t.xr r) ∧ (∀ r < 4, t'.pr r = t.pr r)

/-- x[d] receives a value. -/
def XWritten (t t' : Task) (d : Nat) (x : W64) : Prop :=
  t'.xr d = x ∧ (∀ r < 32, r ≠ d → t'.xr r = t.xr r) ∧ (∀ r < 64, ∀ l < 64, t'.wr r l = t.wr r l) ∧ (∀ r < 4, t'.pr r = t.pr r)

/-- The lanes of m of q[d] receive their bits; q0 reads all ones whatever is written (13 R282). -/
def QWritten (t t' : Task) (d : Nat) (m : SMask) (f : Nat → Bool) : Prop :=
  (∀ l < 64, (t'.pr d).getLsbD l = if d = 0 then true else if m.getLsbD l then f l else (t.pr d).getLsbD l) ∧
  (∀ r < 4, r ≠ d → t'.pr r = t.pr r) ∧ (∀ r < 64, ∀ l < 64, t'.wr r l = t.wr r l) ∧ (∀ r < 32, t'.xr r = t.xr r)

/-- A source as lane l reads it: a scalar of a 32-bit type gives bits 31:0, an immediate of `bits` bits is extended to the type. -/
def tSrc (t : Task) (y : ITy) (bits : Nat) (o : Src) (l : Nat) : W64 :=
  match o with
  | .none => 0
  | .imm v => immExt y bits v
  | .sca r => if y.is64 then t.xr r else (lo32 (t.xr r)).zeroExtend 64
  | .vec r _ => (t.wr r l).zeroExtend 64

/-- KFPF gathers the flags of the active lanes. -/
def TFlags (t t' : Task) (m : SMask) (r : Nat → FRes) : Prop :=
  ∀ k < 6, t'.kfpf.getLsbD k = (t.kfpf.getLsbD k || (List.range 64).any fun l => m.getLsbD l && (r l).2.getLsbD k)

/-- The integer class of the stack set (13 R295): what it computes from the operands of a lane. -/
def stackRow : Instr → Option (IFn × Ops × Nat × (W64 → W64 → W64 → W64))
  | .sAdd _ f o => some (f, o, 32, fun a b _ => a + b)
  | .sSub _ f o => some (f, o, 32, fun a b _ => a - b)
  | .sMul _ f o => some (f, o, 32, fun a b _ => a * b)
  | .sMad _ f o => some (f, o, 32, fun a b c => a * b + c)
  | .sAnd _ f o => some (f, o, 32, fun a b _ => a &&& b)
  | .sOr _ f o => some (f, o, 32, fun a b _ => a ||| b)
  | .sXor _ f o => some (f, o, 32, fun a b _ => a ^^^ b)
  | .sShl _ f o => some (f, o, 32, fun a b _ => if (lo32 b).toNat < f.t.bits then a <<< (lo32 b).toNat else 0)
  | .sShr _ f o => some (f, o, 32, fun a b _ => if (lo32 b).toNat < f.t.bits then a >>> (lo32 b).toNat else 0)
  | .sMovi h f o => some (f, o, (match h.len with | .l64 => 8 | .l96 => 32 | .l128 => 64), fun a _ _ => a)
  | _ => none

/-- The floating class of the stack set (13 R296). -/
def stackFloatRow : Instr → Option (FFn × Ops × (Fmt → Rm → Nat → Nat → Nat → FRes))
  | .sFadd _ f o => some (f, o, fun F rm a b _ => fnFadd F rm false a b)
  | .sFmul _ f o => some (f, o, fun F rm a b _ => fnFmul F rm a b)
  | .sFfma _ f o => some (f, o, fun F rm a b c => fnFfma F rm f.n1 f.n2 a b c)
  | .sFmin _ f o => some (f, o, fun F _ a b _ => (fnMinMax F false a b, 0))
  | .sFmax _ f o => some (f, o, fun F _ a b _ => (fnMinMax F true a b, 0))
  | _ => none

/-- VRED's reduction of some values (13 R297): integers from left to right; floats with the flags of every sum. -/
def vredInt (op : Nat) (y : ITy) : List W32 → W64
  | [] => 0
  | x :: xs => xs.foldl (fun acc v => redOp op y acc (v.zeroExtend 64)) (x.zeroExtend 64)
def vredFloat (op : Nat) : List W32 → FRes
  | [] => (0, 0)
  | x :: xs => xs.foldl (fun acc v =>
      if op = 0 then ((fnFadd .fp32 .rn false acc.1 v.toNat).1, acc.2 ||| (fnFadd .fp32 .rn false acc.1 v.toNat).2)
      else (fnMinMax .fp32 (op == 2) acc.1 v.toNat, acc.2)) (if (fv x.toNat .fp32).isNan then canon .fp32 else x.toNat, 0)

/-- The offset of lane l in local scratch, or its address in the channel (13 R298): `sh` scales the index, `off` is added. -/
def kAddr (t : Task) (o : KOp) (sh : Nat) (off : Int) (l : Nat) : W64 :=
  t.xr o.a + (if o.ix = 0 then 0 else ((t.wr o.b l).signExtend 64) <<< (if o.ix = 1 then sh else 0)) + .ofInt 64 off

/-- Bytes [a, a + n) of local scratch are free of the row operations of some kinds (13 R300). -/
def ScratchFree (t : Task) (kinds : List Nat) (a n : Nat) : Prop :=
  ∀ r ∈ t.rowops, r.kind ∈ kinds → a + n ≤ r.off ∨ r.off + 2048 * r.pas.length ≤ a

/-- The lanes of an LDK or STK: lane 0 alone for a scalar. -/
def kLanesOf (i : Instr) (t : Task) (o : KOp) : List Nat := if o.sd then [0] else (List.range 64).filter (tAct i t).getLsbD

/-- The offset of a lane of an LDK or STK. -/
def kOff (t : Task) (o : KOp) (l : Nat) : Nat := (kAddr t o (log2Size o.sz) o.off.toInt l).toNat

/-- KOOB and KOOBA after an access whose first lane outside the scratch is the given one (13 R303). -/
def KLatched (t t' : Task) (ls : List Nat) (off : Nat → Nat) (n : Nat) : Prop :=
  match ls.find? fun l => decide (4096 * t.kscr < off l + n) with
  | none => t'.koob = t.koob ∧ t'.kooba = t.kooba
  | some l => t'.koob = true ∧ t'.kooba = if t.koob then t.kooba else .ofNat 32 (off l)

/-- A trap of a task: a record of its own, with the address given, and the end of its kernel with status 0x09 (13 R285, 14 R314). -/
def TTraps (i : Instr) (s : State) (sc : Nat) (t : Task) (cause lane : Nat) (va : W64) : Prop :=
  ∀ k, s.grid? t.grid = some k → k.ending = none → ∃ u k', exec i s = .next u ∧ u.dram = s.dram ∧ u.grid? t.grid = some k' ∧
    k'.ending = some (9, cause) ∧ (∀ x, u.task? sc = some x → x.fin = some false) ∧
    ∃ old r, (u.ctxD k.ctx).traps = old ++ [r] ∧ old = (s.ctxD k.ctx).traps ∧ r.cause = cause ∧ r.stack = true ∧
      (r.words[5]?).getD 0 = .ofNat 64 (cause + 2 ^ 16 * lane + 2 ^ 32 * t.pc.toNat) ∧ (r.words[6]?).getD 0 = k.gridid ∧
      (r.words[7]?).getD 0 = va

end Sys2Proof.Machine

/-- 13 R282, R295 to R297: a stack-core arithmetic instruction completes and holds, for each active lane of 64, what its rule computes from
that lane's operands, scalar forms once; CMP writes predicate bits, its scalar outcome to all 64; floating instructions add their lanes'
flags to KFPF; VRED reduces the active lanes in ascending order; with no active lane nothing commits. -/
def Obligations.StackArithmetic : Prop :=
  ∀ (s : State) (sc : Nat) (t : Task),
    (∀ i f o bits fn, stackRow i = some (f, o, bits, fn) → i.WfStack → TIssues i s sc t → tAct i t ≠ 0 →
      let v := fun l => fn (tSrc t f.t bits o.a l) (tSrc t f.t bits o.b l) (tSrc t f.t bits o.c l)
      TEnds i s sc t fun t' => TaskKept t t' ∧ t'.kfpf = t.kfpf ∧
        if f.s then XWritten t t' o.d (toScalar f.t (v 0)) else WWritten t t' o.d (tAct i t) fun l => lo32 (v l)) ∧
    (∀ i f o fn, stackFloatRow i = some (f, o, fn) → i.WfStack → TIssues i s sc t → tAct i t ≠ 0 →
      let w := fun (o : Src) l => (tSrc t .n32 32 o l).toNat % 2 ^ f.f.fmt.bits
      let r := fun l => fn f.f.fmt (FFn.mode f) (w o.a l) (w o.b l) (w o.c l)
      TEnds i s sc t fun t' => TaskKept t t' ∧ WWritten t t' o.d (tAct i t) (fun l => .ofNat 32 (r l).1) ∧ TFlags t t' (tAct i t) r) ∧
    (∀ h d a cv, let i := Instr.sFcvt h d a cv
      i.WfStack → TIssues i s sc t → tAct i t ≠ 0 → ∃ rho : Nat → Nat, (∀ l, rho l < 65536) ∧
        let r := fun l => fnFcvt cv (rho l) (t.wr a l).toNat
        TEnds i s sc t fun t' => TaskKept t t' ∧ WWritten t t' d (tAct i t) (fun l => .ofNat 32 (r l).1) ∧ TFlags t t' (tAct i t) r) ∧
    (∀ h f o, let i := Instr.sCmp h f o
      i.WfStack → TIssues i s sc t → tAct i t ≠ 0 →
        ∀ r : Nat → Bool, (∀ l, r l = true ↔ icmpCond f.m (ival f.t (tSrc t f.t 32 o.a l)) (ival f.t (tSrc t f.t 32 o.b l))) →
        TEnds i s sc t fun t' => TaskKept t t' ∧ t'.kfpf = t.kfpf ∧
          if f.s then QWritten t t' o.d (BitVec.allOnes 64) (fun _ => r 0) else QWritten t t' o.d (tAct i t) r) ∧
    (∀ h f o p, let i := Instr.sSel h f o p
      i.WfStack → TIssues i s sc t → tAct i t ≠ 0 → TEnds i s sc t fun t' => TaskKept t t' ∧ t'.kfpf = t.kfpf ∧
        WWritten t t' o.d (tAct i t) fun l => lo32 (tSrc t f.t 32 (if (t.pr p).getLsbD l then o.a else o.b) l)) ∧
    (∀ h f o, let i := Instr.sMov h f o
      i.WfStack → TIssues i s sc t → tAct i t ≠ 0 → TEnds i s sc t fun t' => TaskKept t t' ∧ t'.kfpf = t.kfpf ∧
        if f.s then XWritten t t' o.d (tSrc t .n64 64 o.b 0) else WWritten t t' o.d (tAct i t) fun l => lo32 (tSrc t .n32 32 o.b l)) ∧
    (∀ h fl op y d a, let i := Instr.vred h fl op y d a
      i.WfStack → TIssues i s sc t → tAct i t ≠ 0 →
        let xs := ((List.range 64).filter (tAct i t).getLsbD).map (t.wr a)
        TEnds i s sc t fun t' => TaskKept t t' ∧
          if fl then XWritten t t' d (.ofNat 64 (vredFloat op xs).1) ∧ t'.kfpf = t.kfpf ||| (vredFloat op xs).2
          else XWritten t t' d (toScalar y (vredInt op y xs)) ∧ t'.kfpf = t.kfpf) ∧
    (∀ i, i.WfStack → (stackRow i).isSome ∨ (stackFloatRow i).isSome ∨ (∃ h f o, i = .sCmp h f o) ∨ (∃ h f o, i = .sMov h f o) ∨
        (∃ h f o p, i = .sSel h f o p) ∨ (∃ h fl op y d a, i = .vred h fl op y d a) → TIssues i s sc t → tAct i t = 0 →
      TEnds i s sc t fun t' => TaskKept t t' ∧ TRegsKept t t' ∧ t'.kfpf = t.kfpf)

/-- 13 R291 to R293, R302, R303: NOP only moves on; BRA and LOOP move the task's one PC to a good target, trap at a bad one, or fall through;
EXIT ends the task; SRD reads and clears special registers; LDK and STK access local scratch lane by lane, drop lanes outside it, and latch
KOOB and KOOBA; a misaligned lane raises PROT with its offset. -/
def Obligations.StackControlAndScratch : Prop :=
  ∀ (s : State) (sc : Nat) (t : Task) (h : Hdr),
    (let i := Instr.sNop h
     i.WfStack → TIssues i s sc t → TEnds i s sc t fun t' => TaskKept t t' ∧ TRegsKept t t' ∧ t'.kfpf = t.kfpf) ∧
    (∀ (i : Instr) (imm : W32) (taken : Bool) (d : Option Nat), i.WfStack → TIssues i s sc t →
      ((∃ mode, i = .sBra h mode imm ∧ d = none ∧ taken = (if mode = 0 then true else if mode = 1 then tAct i t != 0
          else if mode = 2 then tAct i t == BitVec.allOnes 64 else tAct i t == 0)) ∨
       (∃ r, i = .loop h r imm ∧ d = some r ∧ taken = (t.xr r - 1 != 0))) →
      let regs := fun t' => TaskKept t t' ∧ t'.kfpf = t.kfpf ∧
        match d with
        | none => TRegsKept t t'
        | some r => XWritten t t' r (t.xr r - 1)
      let x : Int := t.pc.toNat + imm.toInt
      ∀ k, s.grid? t.grid = some k →
        (taken = false → TEnds i s sc t regs) ∧
        (taken = true → GoodTarget k.csize x → ∃ u t', exec i s = .next u ∧ u.task? sc = some t' ∧ t'.pc = .ofInt 32 x ∧
          BesidesTask sc s u ∧ regs t') ∧
        (taken = true → ¬ GoodTarget k.csize x →
          TTraps i s sc t (if 0 ≤ x ∧ (x % 4 ≠ 0 ∨ x % 32 = 28) then Cause.fetchAlign else Cause.prot) 0xFF 0)) ∧
    (let i := Instr.sExit h
     i.WfStack → TIssues i s sc t → ∃ u, exec i s = .next u ∧ u.dram = s.dram ∧ (∀ k < 256, k ≠ sc → u.stk k = s.stk k) ∧
      (t.rowops ≠ [] → ∃ t', u.task? sc = some t' ∧ t'.fin = some true ∧ t'.rowops = t.rowops ∧ u.grids = s.grids) ∧
      (t.rowops = [] → u.task? sc = none ∧ ∀ k, s.grid? t.grid = some k →
        ∃ k', u.grid? t.grid = some k' ∧ k'.good = k.good + 1 ∧ k'.gone = k.gone + 1)) ∧
    (∀ d num clr vec, let i := Instr.srd h d num clr vec
      i.WfStack → TIssues i s sc t → ∀ k, s.grid? t.grid = some k →
        let x : W64 := match num with
          | 1 => .ofNat 64 t.taskid
          | 2 => .ofNat 64 k.p.teams
          | 3 => .ofNat 64 (sc / 32)
          | 4 => .ofNat 64 (sc % 32)
          | 5 => .ofNat 64 (s.stackNow sc)
          | 6 => if t.koob then 1 else 0
          | 7 => t.kooba.zeroExtend 64
          | 8 => t.kfpf.zeroExtend 64
          | _ => k.gridid
        TEnds i s sc t fun t' => t'.scr = t.scr ∧ t'.rowops = t.rowops ∧
          (if vec then WWritten t t' d (BitVec.allOnes 64) (BitVec.ofNat 32) else XWritten t t' d x) ∧
          t'.koob = (t.koob && !(clr && num == 6)) ∧ t'.kooba = (if clr && num == 6 then 0 else t.kooba) ∧
          t'.kfpf = if clr && num == 8 then 0 else t.kfpf) ∧
    (∀ (o : KOp) (st : Bool), let i := if st then Instr.stk h o else .ldk h o
      let n := szBytes o.sz
      let ls := kLanesOf i t o
      let inside := fun l => decide (kOff t o l + n ≤ 4096 * t.kscr)
      i.WfStack → TIssues i s sc t → tAct i t ≠ 0 →
        ((∃ l ∈ ls, kOff t o l % n ≠ 0 ∧ (∀ m ∈ ls, m < l → kOff t o m % n = 0) ∧ TTraps i s sc t Cause.prot l (.ofNat 64 (kOff t o l))) ∨
         ∀ l ∈ ls, kOff t o l % n = 0) ∧
        ((∀ l ∈ ls, kOff t o l % n = 0) → (∀ l ∈ ls, inside l = true → ScratchFree t (if st then [0, 1] else [0]) (kOff t o l) n) →
          TEnds i s sc t fun t' => KLatched t t' ls (kOff t o) n ∧ t'.rowops = t.rowops ∧ t'.kfpf = t.kfpf ∧
            (st = false → t'.scr = t.scr ∧
              let v := fun l => if inside l then memReadN t.scr (kOff t o l) n else 0
              if o.sd then XWritten t t' o.d (.ofNat 64 (extLoad o.sz 64 (v 0)))
              else WWritten t t' o.d (tAct i t) fun l => .ofNat 32 (extLoad o.sz 32 (v l))) ∧
            (st = true → TRegsKept t t' ∧ (Memory.wf t.scr = true → ∀ b, memRead t'.scr b =
              match (ls.filter fun l => inside l && decide (kOff t o l ≤ b ∧ b < kOff t o l + n)).getLast? with
              | some l => .ofNat 8 ((if o.sd then (t.xr o.d).toNat else (t.wr o.d l).toNat) / 2 ^ (8 * (b - kOff t o l)))
              | none => memRead t.scr b))))

namespace Sys2Proof.Machine

/-! ### Stack cores: memory, tasks; completion records -/

/-- An aligned record's home point: memory in canonical form, a held tile whole. -/
def HomeOk (s : State) (pa : Nat) : Prop :=
  pa % 32 = 0 ∧ Memory.wf s.dram = true ∧ ∀ x, s.homeTile? pa = some x → x.bytes.length = 1024

/-- The record of handle h can be written now by agent src on die d, if it is to be written at all (10 R221, R222). -/
def CanRecord (s : State) (src d ctx : Nat) (h : W64) : Prop :=
  ∀ pa, h ≠ 0 → s.record ctx h = .pending → s.ringPa ctx (hIdx h) 1 = some pa → s.directOk src d pa 32 true = true

/-- In t the record of h, pending in s, holds these values (10 R221). -/
def RecordGiven (s t : State) (ctx : Nat) (h : W64) (v : RecVal) : Prop :=
  ∀ pa, h ≠ 0 → s.record ctx h = .pending → s.ringPa ctx (hIdx h) 1 = some pa → HomeOk s pa → v.status < 256 → v.fcode < 256 →
    v.prod < 65536 → NumIs 256 (t.homeRead pa 32) 0 [(0, 8, v.status), (8, 8, v.fcode), (16, 16, v.prod), (32, 32, hSeq h),
      (64, 64, v.aux % 2 ^ 64), (128, 64, v.count % 2 ^ 64), (192, 64, v.ffa.toNat)]

/-- The task waits on fault records, one for each region without a translation, and runs the instruction again (13 R306). -/
def TFaults (i : Instr) (s : State) (sc : Nat) (t : Task) : Prop :=
  ∃ u t' ids, exec i s = .next u ∧ u.task? sc = some t' ∧ t'.pc = t.pc ∧ t'.wait = .fault ids ∧ ids ≠ [] ∧ TaskKept t { t' with wait := t.wait } ∧
    TRegsKept t t' ∧ u.dram = s.dram ∧ ∃ new, (u.ctxD (s.taskCtx t)).faults = (s.ctxD (s.taskCtx t)).faults ++ new ∧
      new.map (·.uid) = ids ∧ ∀ f ∈ new, f.seq = none ∧ f.pc = t.pc ∧ f.slot = sc % 32 ∧ f.core = 12 + sc / 32 % 2 ∧
        f.die = sc / 64 ∧ f.who = 4 ∧ f.grp = sc

/-- The address of a lane of RLDX, RSTX or RATOM, and what it names. -/
def wordAt (s : State) (sc : Nat) (t : Task) (o : KOp) (k : Nat) (off : Int) (l : Nat) : STgt :=
  let a := kAddr t o 2 off l
  if a.toNat % 4 ≠ 0 then .prot else s.chanTgt sc (s.taskCtx t) l k a

/-- RLD and RST: their kind, registers and rows. -/
def rowRow : Instr → Option (Nat × Nat × Nat × Nat)
  | .rld _ a b n => some (0, a, b, n + 1)
  | .rst _ a b n => some (1, a, b, n + 1)
  | _ => none

/-- RLDX, RSTX and RATOM: kind, address operands, offset. -/
def wordRow : Instr → Option (Nat × KOp × Int)
  | .rldx _ o => some (0, o, o.off.toInt)
  | .rstx _ o => some (1, o, o.off.toInt)
  | .ratom _ _ ix d a b _ => some (2, ⟨d, a, b, 0, 4, false, ix⟩, 0)
  | _ => none

/-- The nearest active lane below l whose word is the one of lane l. -/
def laneBefore (m : SMask) (pa : Nat → Nat) (l : Nat) : Option Nat :=
  ((List.range l).filter fun k => m.getLsbD k && pa k == pa l).getLast?

/-- RATOM's new value (13 R301). -/
def ratomValue (op old x : Nat) : Nat :=
  match op with
  | 0 => (old + x) % 2 ^ 32
  | 1 => if (BitVec.ofNat 32 old).toInt ≤ (BitVec.ofNat 32 x).toInt then old else x
  | 2 => if (BitVec.ofNat 32 old).toInt ≤ (BitVec.ofNat 32 x).toInt then x else old
  | 3 => x
  | _ => (fnFadd .fp32 .rn false old x).1

/-- The state once a stack core's access to an event word is counted, where it is one to host memory (14 R333). -/
def counted (s : State) (sc pa : Nat) : State := s.noteAccess (sc / 64) none pa

/-- The condition of WAITEV (13 R294). -/
def evCond (cond : Nat) (w v : Nat) : Prop :=
  match cond with
  | 0 => w = v
  | 1 => w ≠ v
  | 2 => v ≤ w
  | _ => w < v

end Sys2Proof.Machine

/-- 13 R279, R298 to R301, R305, R306: RLD and RST take their rows' addresses and move on, to be applied later; RLDX reads, RSTX hands over
and RATOM replaces a word a lane, lanes in ascending order; misaligned or out-of-channel addresses raise PROT; addresses without translation
make fault records, and where a walk needs a stopped channel the instruction waits; ROW_STEP applies the next row or word at the controller; FENCE waits for them all.
Model's choices: log 64 and 65. -/
def Obligations.StackChannelAccesses : Prop :=
  ∀ (s : State) (sc : Nat) (t : Task),
    (∀ i kind a b n, rowRow i = some (kind, a, b, n) → i.WfStack → TIssues i s sc t →
      let va := t.xr a
      let off := (t.xr b).toNat
      let row := fun k => s.chanTgt sc (s.taskCtx t) k kind (va + .ofNat 64 (65536 * k))
      let fits := va.toNat % 2048 = 0 ∧ off % 16 = 0 ∧ off + 2048 * n ≤ 4096 * t.kscr
      (¬ fits → TTraps i s sc t Cause.prot 0xFF va) ∧
      (fits → (∃ k < n, row k = .wait) → exec i s = .next s) ∧
      (fits → (∀ k < n, row k ≠ .wait) →
        (∀ k < n, row k = .prot → (∀ m < k, row m ≠ .prot) → TTraps i s sc t Cause.prot 0xFF (va + .ofNat 64 (65536 * k))) ∧
        ((∀ k < n, row k ≠ .prot) → (∃ k < n, ∃ w, row k = .fault w) → TFaults i s sc t)) ∧
      (∀ pa : Nat → Nat, fits → (∀ k < n, row k = .ok (pa k)) → ScratchFree t (if kind = 0 then [0, 1] else [0]) off (2048 * n) →
        TEnds i s sc t fun t' => (∃ uid, t'.rowops = t.rowops ++ [⟨kind, (List.range n).map pa, off, [], 0, va, t.pc, tAct i t, uid, []⟩]) ∧
          TaskKept t { t' with rowops := t.rowops } ∧ TRegsKept t t' ∧ t'.kfpf = t.kfpf)) ∧
    (∀ i kind o off, wordRow i = some (kind, o, off) → i.WfStack → TIssues i s sc t → tAct i t ≠ 0 →
      let at' := wordAt s sc t o kind off
      ((∃ l < 64, (tAct i t).getLsbD l ∧ at' l = .wait) → exec i s = .next s) ∧
      ((∀ l < 64, (tAct i t).getLsbD l → at' l ≠ .wait) →
        (∀ l < 64, (tAct i t).getLsbD l → at' l = .prot → (∀ m < l, (tAct i t).getLsbD m → at' m ≠ .prot) →
          TTraps i s sc t Cause.prot l (kAddr t o 2 off l)) ∧
        ((∀ l < 64, (tAct i t).getLsbD l → at' l ≠ .prot) → (∃ l < 64, (tAct i t).getLsbD l ∧ ∃ w, at' l = .fault w) → TFaults i s sc t)) ∧
      (∀ pa : Nat → Nat, (∀ l < 64, (tAct i t).getLsbD l → at' l = .ok (pa l)) →
        let lanes := (List.range 64).filter (tAct i t).getLsbD
        (∀ h p, i = .rldx h p → t.rowops = [] → (s.stk sc).left = [] → (s.chan sc).repair = false → TEnds i s sc t fun t' =>
          WWritten t t' p.d (tAct i t) (fun l => .ofNat 32 (s.ctlRead (pa l) 4)) ∧ TaskKept t t' ∧ t'.kfpf = t.kfpf) ∧
        (∀ h p, i = .rstx h p → TEnds i s sc t fun t' =>
          (∃ uid, t'.rowops = t.rowops ++
            [⟨2, lanes.map pa, 0, lanes.map fun l => (t.wr p.d l).toNat, 0, 0, 0, 0, uid, lanes.map (kAddr t p 2 p.off.toInt)⟩]) ∧
          TaskKept t { t' with rowops := t.rowops } ∧ TRegsKept t t' ∧ t'.kfpf = t.kfpf) ∧
        (∀ h op ix d a b c, i = .ratom h op ix d a b c → t.rowops = [] → (s.stk sc).left = [] → (s.chan sc).repair = false → Memory.wf s.dram = true →
          (∀ l < 64, pa l % 4 = 0) →
          ∃ (u : State) (t' : Task) (old : Nat → Nat), exec i s = .next u ∧ u.task? sc = some t' ∧ t'.pc = nextPc t.pc i.size ∧
            WWritten t t' d (tAct i t) (fun l => .ofNat 32 (old l)) ∧ TaskKept t t' ∧ t'.kfpf = t.kfpf ∧
            ∀ l < 64, (tAct i t).getLsbD l →
              old l = (match laneBefore (tAct i t) pa l with
                | none => s.ctlRead (pa l) 4
                | some m => ratomValue op (old m) (t.wr c m).toNat) ∧
              ((∀ m < 64, l < m → (tAct i t).getLsbD m → pa m ≠ pa l) → u.ctlRead (pa l) 4 = ratomValue op (old l) (t.wr c l).toNat)))) ∧
    (∀ r rest pa pas, sc < 256 → s.task? sc = some t → t.fin = none → t.preempt = none → t.rowops = r :: rest → r.pas = pa :: pas →
      r.kind ≤ 2 → (s.stk sc).left = [] → (s.chan sc).repair = false → ((s.chan sc).debt ≠ 8 ∨ r.kind = 2) → chanOf pa = some sc →
      ∃ u t', exec (.rowStep sc) s = .next u ∧ u.task? sc = some t' ∧ t'.pc = t.pc ∧ TRegsKept t t' ∧
        t'.rowops = (if pas = [] then rest
          else { r with pas, off := if r.kind = 2 then r.off else r.off + 2048, data := r.data.drop 1, rows := r.rows + 1, vas := r.vas.drop 1,
                        va := if r.kind = 2 then r.va else r.va + 65536 } :: rest) ∧
        (r.kind = 0 → u.dram = s.dram ∧ (Memory.wf t.scr = true → ∀ b, memRead t'.scr b =
          if r.off ≤ b ∧ b < r.off + 2048 then memRead s.dram (pa + (b - r.off)) else memRead t.scr b)) ∧
        (r.kind = 1 → t'.scr = t.scr ∧ (Memory.wf s.dram = true → ∀ x, memRead u.dram x =
          if pa ≤ x ∧ x < pa + 2048 then memRead t.scr (r.off + (x - pa)) else memRead s.dram x)) ∧
        (r.kind = 2 → t'.scr = t.scr ∧ (Memory.wf s.dram = true → ∀ x, memRead u.dram x =
          if pa ≤ x ∧ x < pa + 4 then .ofNat 8 ((r.data.head?).getD 0 / 2 ^ (8 * (x - pa))) else memRead s.dram x))) ∧
    (∀ h, let i := Instr.sFence h
      i.WfStack → TIssues i s sc t →
        (t.rowops = [] → (s.stk sc).left = [] → TEnds i s sc t fun t' => TaskKept t t' ∧ TRegsKept t t' ∧ t'.kfpf = t.kfpf) ∧
        (t.rowops ≠ [] ∨ (s.stk sc).left ≠ [] → exec i s = .next s))

/-- 13 R294, R304: WAITEV moves on once the word at its home point meets the condition and else waits, to be looked at again; POST writes
bytes 31:8 of its record at the home point once the task's channel writes are applied, and word 0 afterwards. -/
def Sys2Proof.Machine.StackEventsAndPosts : Prop :=
  ∀ (s : State) (sc : Nat) (t : Task) (h : Hdr),
    (∀ a b cond, let i := Instr.waitev h a b cond
      let va := t.xr a
      i.WfStack → TIssues i s sc t →
        (va.toNat % 8 ≠ 0 ∨ apert va ≠ .trans → TTraps i s sc t Cause.prot 0xFF va) ∧
        (∀ pa, va.toNat % 8 = 0 → s.homeTgt sc (s.taskCtx t) 0 va = .ok pa → s.dieDown (homeDie pa) = false → s.repairing pa = false →
          ∃ u t', exec i s = .next u ∧ u.task? sc = some t' ∧ BesidesTask sc (counted s sc pa) u ∧ TRegsKept t t' ∧ t'.kfpf = t.kfpf ∧
            TaskKept t { t' with wait := t.wait } ∧
            (evCond cond (s.homeRead pa 8) (t.xr b).toNat → t'.pc = nextPc t.pc i.size ∧ t'.wait = .no ∧
              t'.nextIssue = s.stackNow sc + 1 + (hdrOf i).stall) ∧
            (¬ evCond cond (s.homeRead pa 8) (t.xr b).toNat → t'.pc = t.pc ∧ t'.wait = .ev va (t.xr b) cond))) ∧
    (∀ va v cond pa, sc < 256 → s.task? sc = some t → t.wait = .ev va v cond → s.homeTgt sc (s.taskCtx t) 0 va = .ok pa →
      s.dieDown (homeDie pa) = false → s.repairing pa = false →
      ∃ u t', exec (.waitevWake sc) s = .next u ∧ u.task? sc = some t' ∧ TRegsKept t t' ∧ BesidesTask sc (counted s sc pa) u ∧
        (evCond cond (s.homeRead pa 8) v.toNat → t'.wait = .no ∧ t'.pc = nextPc t.pc 8 ∧
          t'.nextIssue = max t.nextIssue (s.stackNow sc + 1)) ∧
        (¬ evCond cond (s.homeRead pa 8) v.toNat → t'.wait = t.wait ∧ t'.pc = t.pc)) ∧
    (∀ d a b st, let i := Instr.post h d a b st
      let va := t.xr a
      i.WfStack → TIssues i s sc t →
        (va.toNat % 32 ≠ 0 ∨ apert va ≠ .trans → TTraps i s sc t Cause.prot 0xFF va) ∧
        (∀ pa, va.toNat % 32 = 0 → s.homeTgt sc (s.taskCtx t) 1 va = .ok pa → t.rowops = [] → (s.stk sc).left = [] → s.stackOk pa 32 = true →
          ∃ u t' w, exec i s = .next u ∧ u.task? sc = some t' ∧ t'.pc = nextPc t.pc i.size ∧ TaskKept t { t' with rowops := t.rowops } ∧
            TRegsKept t t' ∧ u.teams = s.teams ∧ u.groups = s.groups ∧ (∀ k < 256, k ≠ sc → u.stk k = s.stk k) ∧
            (∃ uid, t'.rowops = [⟨3, [pa], 0, [w], 0, 0, 0, 0, uid, [va]⟩]) ∧
            NumIs 64 w 0 [(0, 8, st), (16, 8, sc % 32), (24, 2, sc / 32 % 2), (26, 2, sc / 64), (28, 4, 3)] ∧
            (HomeOk s pa → u.homeRead pa 8 = s.homeRead pa 8 ∧
              NumIs 192 (u.homeRead (pa + 8) 24) 0 [(0, 64, (t.xr b).toNat), (64, 64, (t.xr d).toNat)]))) ∧
    (∀ pa w uid va, sc < 256 → s.task? sc = some t → t.fin = none → t.rowops = [⟨3, [pa], 0, [w], 0, 0, 0, 0, uid, [va]⟩] → (s.stk sc).left = [] →
      s.stackOk pa 8 = true →
      ∃ u t', exec (.rowStep sc) s = .next u ∧ u.task? sc = some t' ∧ t' = { t with rowops := [] } ∧ u.teams = s.teams ∧
        u.groups = s.groups ∧ (HomeOk s pa → u.homeRead pa 8 = w % 2 ^ 64 ∧ u.homeRead (pa + 8) 24 = s.homeRead (pa + 8) 24))

/-- 13 R284 to R286, R308, R309, 14 R314: a stack core takes the next of its tasks with fresh registers and the image and arguments in its
scratch; a kernel whose tasks are over writes its record; pre-emption takes a task at a row boundary or in a wait, ends its kernel after 1 ms,
and restores a task where it ran; refresh counts and pays; a repair stops a channel and resumes it. -/
def Sys2Proof.Machine.StackTasksAndChannels : Prop :=
  ∀ (s : State) (sc : Nat), sc < 256 →
    (∀ (k : Grid) (i : Nat) (init arg : Nat) (s1 s2 : State),
      let n := if k.h.init = 0 then 0 else 16 * k.h.initsz
      let m := if k.p.arg = 0 then 0 else 16 * k.p.argsz
      s.grid? k.id = some k → k.stack = true → k.ending = none → s.gridHeld k = false → s.task? sc = none →
      (s.die (sc / 64)).phase = .run → s.stackFirst k sc = true → s.extQuiet = true → s.nextTask k sc = some i →
      s.dispRead k.die k.ctx (.ofNat 64 k.h.init) n = .ok init s1 → s1.dispRead k.die k.ctx k.p.arg m = .ok arg s2 →
      ∃ u t' k', exec (.stackTaskStart sc k.id) s = .next u ∧ u.task? sc = some t' ∧ t'.grid = k.id ∧ t'.taskid = i ∧
        t'.pc = .ofNat 32 k.h.entry ∧ (∀ r < 64, ∀ l < 64, t'.wr r l = 0) ∧ (∀ r < 32, t'.xr r = 0) ∧
        (∀ r < 4, t'.pr r = if r = 0 then BitVec.allOnes 64 else 0) ∧ t'.kfpf = 0 ∧ t'.koob = false ∧ t'.kooba = 0 ∧ t'.rowops = [] ∧
        t'.fin = none ∧ t'.kscr = fld k.header 296 8 ∧
        (∀ b, memRead t'.scr b = if 16 * k.h.argoff ≤ b ∧ b < 16 * k.h.argoff + m then .ofNat 8 (arg / 2 ^ (8 * (b - 16 * k.h.argoff)))
          else if b < n then .ofNat 8 (init / 2 ^ (8 * b)) else 0) ∧
        u.grid? k.id = some k' ∧ k'.tasks = k.tasks ++ [i]) ∧
    (∀ k : Grid, s.grid? k.id = some k → k.stack = true → s.stackOver k = true → CanRecord s (5000 + k.die) k.die k.ctx k.p.hdl →
      ∃ u, exec (.stackKernelEnd k.id) s = .next u ∧ u.grid? k.id = none ∧
        RecordGiven s u k.ctx k.p.hdl ⟨(k.ending.getD (1, 0)).1, (k.ending.getD (1, 0)).2, dispProd k.die, k.gridid.toNat, k.good, k.ffa⟩) ∧
    (∀ t : Task, s.task? sc = some t → t.fin = none → (∀ x, t.preempt = some x → s.stackNow sc ≤ x + 1050000) →
      ∃ u, exec (.stackPreempt sc) s = .next u ∧ u.dram = s.dram ∧
      let boundary := ∃ r rest, t.rowops = r :: rest ∧ r.kind < 2 ∧ r.rows ≠ 0 ∧ r.pas ≠ []
      (t.wait = .no → ¬ boundary → (u.stk sc).saved = (s.stk sc).saved ∧ ∃ t', u.task? sc = some t' ∧
        t'.preempt = t.preempt.or (some (s.stackNow sc)) ∧ { t' with preempt := t.preempt } = t) ∧
      (t.wait ≠ .no ∨ boundary → u.task? sc = none ∧ (u.chan sc).debt = 0 ∧
        (u.stk sc).saved = (s.stk sc).saved ++ [{ t with preempt := none, rowops := t.rowops.dropWhile fun r => decide (2 ≤ r.kind) }] ∧
        (u.stk sc).left = (s.stk sc).left ++ (t.rowops.takeWhile fun r => decide (2 ≤ r.kind)).map fun r => (t.grid, r))) ∧
    (∀ (t : Task) (x : Nat) (k : Grid), s.task? sc = some t → t.fin = none → t.preempt = some x → s.grid? t.grid = some k → k.ending = none →
      x + 1050000 < s.stackNow sc → ∃ u k', exec (.stackPreemptTimeout sc) s = .next u ∧ u.grid? t.grid = some k' ∧ k'.ending = some (7, 0) ∧
        u.dram = s.dram) ∧
    (∀ t : Task, (s.stk sc).saved = [t] → s.task? sc = none → (s.die (sc / 64)).phase = .run →
      ∃ u, exec (.stackRestore sc) s = .next u ∧ u.stk sc = { s.stk sc with task := some { t with nextIssue := s.stackNow sc }, saved := [] } ∧
        BesidesTask sc s (u.setStk sc (s.stk sc))) ∧
    (∃ u, exec (.refreshInterval sc) s = .next u ∧ (u.chan sc).repair = (s.chan sc).repair ∧ u.dram = s.dram ∧
      let moving := ∃ t, s.task? sc = some t ∧ ∃ r ∈ t.rowops, r.kind < 2
      (moving → (u.chan sc).debt = min 8 ((s.chan sc).debt + 1)) ∧ (¬ moving → (u.chan sc).debt = 0)) ∧
    (∃ u, exec (.refresh sc) s = .next u ∧ u.chan sc = ⟨0, (s.chan sc).repair⟩ ∧ u.dram = s.dram) ∧
    (∀ p, ∃ u, exec (.laneRepair sc p) s = .next u ∧ u.chan sc = ⟨(s.chan sc).debt, decide (p = .stop)⟩ ∧ u.dram = s.dram)

/-- 13 R294, R304: WAITEV moves on once the word at its home point meets the condition and else waits, to be looked at again; POST writes
bytes 31:8 of its record at the home point once the task's channel writes are applied, and word 0 afterwards. 13 R284 to R286, R308, R309, 14 R314: a stack core takes the next
of its tasks with fresh registers and the image and arguments in its scratch; a kernel whose tasks are over writes its record; pre-emption
takes a task at a row boundary or in a wait, ends its kernel after 1 ms, and restores a task where it ran; refresh counts and pays; a
repair stops a channel and resumes it.
Model's choices: log 65, that POST writes bytes 31:8 as it issues and word 0 in a later step, and log 66 to 68. -/
def Obligations.StackEventsAndTasks : Prop := StackEventsAndPosts ∧ StackTasksAndChannels

namespace Sys2Proof.Machine

/-! ### Events of groups -/

/-- An event changes group gid to a group of which P holds, no byte, and no other group. -/
def GroupOnly (i : Instr) (s : State) (gid : Nat) (P : Group → Prop) : Prop :=
  ∃ u g', exec i s = .next u ∧ u.grp? gid = some g' ∧ P g' ∧ u.dram = s.dram ∧ u.teams = s.teams ∧ u.grids = s.grids ∧
    ∀ n, n ≠ gid → u.grp? n = s.grp? n

/-- A queue of records holds a record more: its n bytes in the slot of wr, and wr counted (06 R144, 14 R314). -/
def RecordQueued (s u : State) (ctx base lsz n v : Nat) : Prop :=
  ∀ hp wr rd pa, s.recHdr ctx base = some (hp, wr, rd) → s.devPa ctx (base + 64 + n * (wr % 2 ^ lsz)) 1 = some pa →
    HomeOk s hp → HomeOk s pa → n ∈ [32, 64] → pa % n = 0 → (hp + 8 ≤ pa ∨ pa + n ≤ hp) → tierOf hp ≠ .lp → tierOf pa ≠ .lp → v < 2 ^ (8 * n) →
    u.homeRead pa n = v ∧ u.homeRead hp 8 = (wr + 1) % 2 ^ 64

/-- The group's grid belongs to context c. -/
def InContext (s : State) (g : Group) (c : Nat) : Prop := ∃ t k, s.team? g.team = some t ∧ s.grid? t.grid = some k ∧ k.ctx = c

end Sys2Proof.Machine

/-- 02 R42, 03 R55, 09 R202, R212: a rotation is asked for once the fairness counter has reached its limit and ready lanes stand above;
registers move out after 2048 idle cycles, or where another group of the core needs their granules and none of the others issued longer ago, and come
back once there is room, unseen by the program; a spent BARWT budget completes with p[D] 0; a message's
granule is written once it is empty and then full.
Model's choice: log 69. -/
def Obligations.RotationHiddenTierAndWaits : Prop :=
  ∀ (s : State) (gid : Nat) (g : Group), s.grp? gid = some g →
    (∀ a, g.res = .resident → g.rot = none → 2 ^ g.friv ≤ g.fair → g.issueAddr = some a →
      (∃ l < 128, nth g.lanes l = .ready ∧ a.toNat < (nth g.pcv l).toNat) →
      GroupOnly (.rotationRequest gid) s gid fun g' => g' = { g with rotReq := true }) ∧
    (g.res = .resident → g.hidden = false →
      ((g.lastIssue + 2048 < s.now g ∧ g.pend = []) ∨ ∃ r ∈ s.groups, r.core = g.core ∧ r.res = .resident ∧ r.id ≠ g.id ∧ r.room ≠ 0 ∧
        8192 < s.granulesUsed g.core + r.room ∧
        ∀ x ∈ s.groups, x.core = g.core → x.res = .resident → x.hidden = true ∨ x.id = r.id ∨ g.lastIssue ≤ x.lastIssue) →
      GroupOnly (.hiddenMoveOut gid) s gid fun g' => g' = { g with hidden := true }) ∧
    (g.res = .resident → g.hidden = true → GroupOnly (.hiddenRecall gid) s gid fun g' =>
      g' = if s.granulesUsed g.core + g.granules ≤ 8192 then { g with hidden := false, room := 0 } else { g with room := g.granules }) ∧
    (∀ (t : Team) (w : Wt) (d ph budget dead : Nat), g.res = .resident → s.team? t.id = some t → t.bankq = [w] → w.grp = gid →
      (∀ x ∈ s.teams, (∃ y ∈ x.bankq, y.grp = gid) → x = t) →
      w.op = .barwt d ph budget (some dead) → t.fullAt w.off = true → fld (t.rd w.off 16) 38 2 = 0 → fld (t.rd w.off 16) 32 4 = ph →
      budget ≠ 2 ^ 64 - 1 → dead < s.now g →
      ∃ u g', exec (.barwtTimeout gid) s = .next u ∧ u.grp? gid = some g' ∧ u.dram = s.dram ∧
        g'.pend = g.pend ++ [⟨none, [], [.pset d w.mask 0]⟩] ∧
        (∀ l < 128, nth g'.lanes l = if nth g.lanes l = .waiting (.bank w.id) then .ready else nth g.lanes l) ∧
        (∀ l < 128, nth g'.pcv l = if nth g.lanes l = .waiting (.bank w.id) then w.next else nth g.pcv l) ∧
        ∃ t', u.team? t.id = some t' ∧ t'.bankq = [] ∧ t'.win = t.win ∧ t'.full = t.full) ∧
    (∀ (i j : Nat) (e : Entry) (t : Team) (o : Nat), (g.obq.filter fun e => e.kind == .chan && e.stage == .queued)[i]? = some e →
      g.obq[j]? = some e → (∀ k < j, ∀ x, g.obq[k]? = some x → x.uid ≠ e.uid) → s.heldBack g j e false = false →
      e.loc = .pad t.id o → s.team? t.id = some t → t.bankq = [] → o + 16 ≤ t.size → t.fullAt o = false →
      s.owned e.loc 16 0 = false → Memory.wf t.win = true →
      ∃ u t', exec (.channelSlotWrite gid i) s = .next u ∧ u.team? t.id = some t' ∧ t'.fullAt o = true ∧ u.dram = s.dram ∧
        (∀ b, memRead t'.win b = if o ≤ b ∧ b < o + 16 then .ofNat 8 (e.data / 2 ^ (8 * (b - o))) else memRead t.win b) ∧
        (∀ q, q ≠ o / 16 → t'.full.contains q = t.full.contains q))

/-- 03 R63 to R66, R74, 08 R177, 12 R268, R271: a request to yield marks a group and parks lanes at safe points; a group without ready lanes
is saved, the bytes of its locks' ranges written back; a withdrawn request makes parked lanes ready; after 1 ms the grid ends, with a record of the group not taken; a saved group is restored as its image says where the driver does not hold it, and ends its grid where the image is bad; an aborted gang's groups end with a record; an ended group whose work is done goes.
Model's choices: log 46 to 49, 56. -/
def Obligations.PreemptionAndEnds : Prop :=
  ∀ (s : State) (gid : Nat) (g : Group), s.grp? gid = some g →
    (∀ t k p s1, g.res = .resident → g.preempt = none → s.grpTeam? g = some t → s.grpGrid? g = some k → s.reserveTeam t = some s1 →
      p < 4 → k.p.pri < p → s.starved p = true → (∀ x ∈ s.groups, ∀ y s2, s.askable x = some (y, s2) → k.id < y.id → p ≤ y.p.pri) →
      ∃ u g', exec (.preemptRequest gid) s = .next u ∧ u.grp? gid = some g' ∧ g'.preempt = some (s.now g) ∧ RegsKept g g' ∧
        g'.pcv = g.pcv ∧ u.dram = s.dram ∧ ∀ l < 128, nth g'.lanes l = nth g.lanes l ∨ (nth g.lanes l = .ready ∧ nth g'.lanes l = .parked)) ∧
    (∀ s1, g.res = .resident → g.preempt.isSome = true → g.pend = [] → (∀ l < 128, nth g.lanes l = .parked ∨ nth g.lanes l = .exited) →
      g.trap = none → g.core < 192 → s.rangesClean g (s.heldAll g) = true → (s.setGrp g).saveGroup gid = some s1 → (∃ x ∈ s.liveGroups g.team, x.id ≠ gid ∧ x.res ≠ .saved) →
      ∃ u g', exec (.preemptTake gid) s = .next u ∧ u.grp? gid = some g' ∧ g'.res = .saved ∧ g'.preempt = none ∧ g'.img.isSome = true ∧
        g'.vregs = g.vregs ∧ g'.sregs = g.sregs ∧ g'.preds = g.preds ∧ g'.hnds = g.hnds ∧ g'.pcv = g.pcv ∧
        (∀ r ∈ (u.core g.core).resv, r.grp ≠ gid) ∧ (∀ p ∈ (u.core g.core).pins, p.2 ≠ gid)) ∧
    (g.res = .resident → g.preempt.isSome = true → (s.die g.die).phase = .run → g.gangAbort = false →
      ∃ u g', exec (.preemptWithdraw gid) s = .next u ∧ u.grp? gid = some g' ∧ g'.preempt = none ∧ RegsKept g g' ∧ g'.pcv = g.pcv ∧
        u.dram = s.dram ∧ ∀ l < 128, nth g'.lanes l = if nth g.lanes l = .parked then .ready else nth g.lanes l) ∧
    (∀ x k, g.preempt = some x → s.grpGrid? g = some k → x + 1050000 < s.now g → s.untaken g = true → k.ending = none →
      ∃ u k', exec (.preemptTimeout gid) s = .next u ∧ u.grid? k.id = some k' ∧ k'.ending = some (7, 0) ∧
        (∃ r ∈ (u.ctxD k.ctx).traps, r.grp = gid ∧ r.cause = 0x0C ∧ r.resolved = true) ∧
        ∀ y, u.grp? gid = some y → y.res = .draining) ∧
    (∀ t k core slot off size w s1, g.res = .saved → g.trapDue = none → s.trapSaved g = false → s.grpTeam? g = some t → s.grpGrid? g = some k → k.ending = none →
      (s.die (core / 48)).phase = .run → (s.freeSlots core).contains slot = true → t.saved = false → t.core = core → g.img = some (off, size) →
      s.poolRead (core / 48) k.ctx ((s.desc k.ctx).savebase + off) (size / 64) = some (w, s1) →
      (∀ x ws, g.fromImage w (s1.die (core / 48)).cycle = some (x, ws) →
        ∃ u g', exec (.restore gid core slot) s = .next u ∧ u.grp? gid = some g' ∧ g'.res = .resident ∧ g'.core = core ∧ g'.slot = slot ∧
          g'.img = none ∧ g'.vregs = x.vregs ∧ g'.sregs = x.sregs ∧ g'.preds = x.preds ∧ g'.hnds = x.hnds ∧
          ((∀ y ∈ s.teams, ∀ w ∈ y.bankq, w.grp ≠ gid) → g'.lanes = x.lanes ∧ (g.adv = [] → g'.pcv = x.pcv))) ∧
      (g.fromImage w (s1.die (core / 48)).cycle = none →
        ∃ u k', exec (.restore gid core slot) s = .next u ∧ u.grid? k.id = some k' ∧ k'.ending = some (9, 1))) ∧
    (∀ c, g.gangAbort = true → g.res = .resident → g.pend = [] → g.trap = none → (∀ l < 128, nth g.lanes l ≠ .ready) → InContext s g c →
      ∃ u r, exec (.gangAbort gid) s = .next u ∧ r ∈ (u.ctxD c).traps ∧ r.grp = gid ∧ r.cause = 0x09 ∧ r.resolved = true ∧
        ∀ y, u.grp? gid = some y → y.res = .draining ∧ y.ended = some false) ∧
    (g.res = .draining → g.obq = [] → g.engines = [] → (∀ h ∈ (s.core g.core).held, h.grp ≠ gid) →
      (∀ x ∈ s.groups, x.core = g.core → x.untracked = false) →
      ∃ u, exec (.drydownFree gid) s = .next u ∧ u.grp? gid = none ∧ (∀ n, n ≠ gid → u.grp? n = s.grp? n) ∧ u.dram = s.dram ∧
        u.teams = s.teams)

/-- 06 R144, R145, 14 R314 to R317: the oldest trap or fault record of a context not yet written goes into its queue with the next number,
32 bits and never 0, and signals; the firmware stage resolves a record whose access is now permitted and marks the others.
Model's choice: log 22. -/
def Obligations.RecordsAndFirmware : Prop :=
  ∀ (s : State) (ctx : Nat), (s.desc ctx).wellFormed = true → (s.ctxD ctx).badDesc = false →
    (∀ pre t post s1, (s.ctxD ctx).traps = pre ++ t :: post → (∀ x ∈ pre, x.seq.isSome = true) → t.seq = none → t.words.length = 8 →
      let v := ofWords (t.words.set 2 (.ofNat 64 ((s.ctxD ctx).trapSeq % 2 ^ 32)))
      s.putRec ctx (s.desc ctx).tqbase (s.desc ctx).tqlsz 64 v = some s1 →
      ∃ u, exec (.trapRecordWrite ctx) s = .next u ∧ RecordQueued s u ctx (s.desc ctx).tqbase (s.desc ctx).tqlsz 64 v ∧
        (u.ctxD ctx).trapSeq = nextSeq (s.ctxD ctx).trapSeq ∧ nth u.md.msix 1 = nth s.md.msix 1 + 1 ∧
        (u.ctxD ctx).traps.map (·.seq) = pre.map (·.seq) ++ some (s.ctxD ctx).trapSeq :: post.map (·.seq)) ∧
    (∀ f s1, (s.ctxD ctx).faults.find? (·.seq.isNone) = some f →
      let n := (s.ctxD ctx).faultSeq
      let v := f.word n
      s.putRec ctx (s.desc ctx).fqbase (s.desc ctx).fqlsz 32 v = some s1 →
      ∃ u, exec (.faultRecordWrite ctx) s = .next u ∧ RecordQueued s u ctx (s.desc ctx).fqbase (s.desc ctx).fqlsz 32 v ∧
        fld v 128 32 = n % 2 ^ 32 ∧ fld v 160 32 = f.pc.toNat ∧ fld v 192 64 = f.va.toNat ∧ fld v 64 64 = f.grid.toNat ∧
        (u.ctxD ctx).faultSeq = nextSeq n ∧ nth u.md.msix 0 = nth s.md.msix 0 + 1 ∧
        ∃ f' ∈ (u.ctxD ctx).faults, f'.uid = f.uid ∧ f'.seq = some n) ∧
    (∀ f seq, (s.ctxD ctx).faults.find? (fun f => f.seq == some seq && !f.checked) = some f → f.who = 0 →
      (∀ b z e, s.permit (s.walk ctx f.va.toNat) f.va.toNat f.acc = .ok b z e →
        ∃ u, exec (.firmwareFaultCheck ctx seq) s = .next u ∧ (u.ctxD ctx).faults = (s.ctxD ctx).faults.filter (·.uid != f.uid) ∧
          u.dram = s.dram ∧ u.groups = s.groups) ∧
      (∀ ca b z, s.walk ctx f.va.toNat = .fail ca b z →
        ∃ u, exec (.firmwareFaultCheck ctx seq) s = .next u ∧ u.dram = s.dram ∧ u.groups = s.groups ∧
          (u.ctxD ctx).faults.map (·.uid) = (s.ctxD ctx).faults.map (·.uid) ∧
          ∀ f' ∈ (u.ctxD ctx).faults, f'.uid = f.uid → f'.checked = true))

namespace Sys2Proof.Machine

/-! ### The abstract machine of ordering -/

/-- A plain access of a core's group at its home point (08 R173): a load, a store, or an atomic within one tile, memory in canonical form. -/
structure Plain (s : State) (r : Req) (pa cls : Nat) : Prop where
  loc  : r.loc = .mem pa cls
  own  : r.fill = 0 ∧ r.cells = []
  home : r.home = homeDie pa ∧ homeDie pa < 4
  one  : pa % 1024 + r.n ≤ 1024
  kind : r.kind = .load ∨ r.kind = .store ∨ ∃ op sgn e, r.kind = .atom op sgn e
  tier : r.kind = .load ∨ tierOf pa ≠ .lp
  src  : r.src < 192 ∧ r.grp ≠ 0
  mem  : Memory.wf s.dram = true
  tile : ∀ x, s.homeTile? pa = some x → x.bytes.length = 1024

/-- What an access leaves in its n bytes that held `old` (08 R189). -/
def newBytes (k : EKind) (n old data : Nat) : Nat :=
  match k with
  | .store => data
  | .atom op sgn e => if op = 7 ∧ old ≠ e then old else atomNew op sgn n old data e
  | _ => old

/-- The value an access answers with (08 R189): what the bytes held. -/
def oldValue (k : EKind) (old : Nat) : Nat :=
  match k with
  | .store => 0
  | _ => old

/-- The access is applied: its bytes are new, every other byte of the writable tiers reads as before at its home point. -/
def AppliedOnce (s u : State) (r : Req) (pa : Nat) : Prop :=
  let w := newBytes r.kind r.n (s.homeRead pa r.n) r.data
  ∀ a, tierOf a ≠ .lp → u.homeByte a = if pa ≤ a ∧ a < pa + r.n then .ofNat 8 (w / 2 ^ (8 * (a - pa))) else s.homeByte a

/-- No engine owns the bytes, no access of this cycle outranks the request, its channel is not stopped (07 R155, 08 R176, 13 R309). -/
def WayFree (s : State) (r : Req) : Prop := s.ownedReq r = false ∧ s.outranked r = false ∧ s.atRepair r = false

/-- A step of a range operation on one tile, of a core's group (07 R165). -/
structure RangeReq (r : Req) (op t cls : Nat) : Prop where
  kind : r.kind = .range op [t]
  loc  : r.loc = .mem t cls ∧ tileOf t = t
  home : r.home = homeDie t
  src  : r.src < 192 ∧ r.grp ≠ 0
  fill : r.fill = 0

/-- A tile is treated at its home (07 R165): SPINV and SPFLUSH leave no copy of it, SPCLEAN no dirty byte in one; SPINV writes nothing; what the
home tile alone held dirty reaches the memory controller. -/
def TileTreated (s u : State) (op t : Nat) : Prop :=
  (op ≠ 0 → u.homeTile? t = none ∧ (∀ c < 192, ∀ l ∈ (u.core c).l1, tileOf l.addr ≠ t) ∧
    ∀ q < 16, ∀ x ∈ (u.quad q).tiles, x.copy = true → x.addr ≠ t) ∧
  (op = 0 → (∀ c < 192, ∀ l ∈ (u.core c).l1, ∀ a ∈ l.dirty, tileOf a ≠ t) ∧
    ∀ q < 16, ∀ x ∈ (u.quad q).tiles, x.copy = true → ∀ a ∈ x.dirty, tileOf a ≠ t) ∧
  (op = 1 → u.dram = s.dram) ∧
  (∀ x, s.homeTile? t = some x → op ≠ 1 → tierOf t ≠ .lp → Memory.wf s.dram = true → x.bytes.length = 1024 →
    (∀ c < 192, ∀ l ∈ (s.core c).l1, ∀ a ∈ l.dirty, tileOf a ≠ t) →
    (∀ q < 16, ∀ y ∈ (s.quad q).tiles, y.copy = true → ∀ a ∈ y.dirty, tileOf a ≠ t) → s.pullBacks t 1024 = s →
    ∀ a ∈ x.dirty, tileOf a = t → u.ctlByte a = s.homeByte a)

/-- The step's tile leaves its entry, which is done with its last tile; one of another die is answered. -/
def StepDone (s u : State) (r : Req) (op t : Nat) : Prop :=
  (r.home = r.srcDie → ∀ g e us, s.grp? r.grp = some g → g.ent? r.ent = some e → e.kind = .range op us →
    ∃ g' e', u.grp? r.grp = some g' ∧ g'.ent? r.ent = some e' ∧
      if us.filter (· != t) = [] then e'.stage = .done else e'.kind = .range op (us.filter (· != t))) ∧
  (r.home ≠ r.srcDie → ∃ tab, u.replies = s.replies ++ [⟨r, 0, tab⟩])

/-- The host's or a peer's read of n bytes. -/
def outRead (src pa n : Nat) : Req :=
  { blankReq with src := 4000 + src, srcDie := homeDie pa, home := homeDie pa, kind := .load, loc := .mem pa 0, n }

/-- The dependency tables have a row for each of the five sources and a column for each home. -/
def TableShaped (t : List (List Nat)) : Prop := t.length = 5 ∧ ∀ x ∈ t, x.length = 4

end Sys2Proof.Machine

/-- 02 R38, 08 R171, R172, R174: an interlocked result commits with its entries' values; an entry nothing holds back leaves: a FENCE is
done, a scratchpad access is made, a load that the L1 holds takes its bytes, an access that its class, as the windows in force now have it, lets no
copy serve becomes a request with its stamp. -/
def Obligations.QueueEntriesLeave : Prop :=
  ∀ (s : State) (gid : Nat) (g : Group), s.grp? gid = some g →
    (∀ i p, g.res ≠ .saved → (∀ q ∈ g.pend, q.due = none) → g.pend[i]? = some p → g.ready p = true →
      (∀ q ∈ g.pend.take i, q.touches (p.wrs.flatMap Wr.spans) = false) →
      ∃ u g', exec (.resultCommit gid i) s = .next u ∧ u.grp? gid = some g' ∧ u.dram = s.dram ∧ u.teams = s.teams ∧
        g'.pend = g.pend.eraseIdx i ∧ g'.lanes = g.lanes ∧ g'.pcv = g.pcv ∧
        ((∀ w ∈ p.wrs, w.loaded = false) → g'.vregs = (g.commitAll p.wrs).vregs ∧ g'.sregs = (g.commitAll p.wrs).sregs ∧
          g'.preds = (g.commitAll p.wrs).preds ∧ g'.hnds = (g.commitAll p.wrs).hnds) ∧
        (∀ d sz es, d < 256 → sz ≤ 4 → p.wrs = [.ld d sz] → p.need.filterMap g.ent? = es → (es.map (·.lane)).Nodup → (∀ e ∈ es, e.lane < 128) →
          g'.sregs = g.sregs ∧ g'.preds = g.preds ∧ g'.hnds = g.hnds ∧ (∀ r < 256, r ≠ d → g'.v r = g.v r) ∧
          (∀ e ∈ es, (g'.v d).get e.lane = .ofNat 32 (extLoad sz 32 e.val)) ∧
          ∀ l < 128, (∀ e ∈ es, e.lane ≠ l) → (g'.v d).get l = (g.v d).get l)) ∧
    (∀ i e copy, g.obq[i]? = some e → e.stage = .queued → (∀ k < i, ∀ x, g.obq[k]? = some x → x.uid ≠ e.uid) →
      s.heldBack g i e false = false → forwardBytes (g.obq.take i) e = none →
      (∀ kind scope, e.kind = .fence kind scope → ∃ u g', exec (.queueLeave gid i copy) s = .next u ∧ u.grp? gid = some g' ∧
        RegsKept { g with obq := g'.obq } g' ∧ u.teams = s.teams ∧ (e.acq ≤ 4 → u.dram = s.dram) ∧
        ∀ x, g'.ent? e.uid = some x → x.stage = .done) ∧
      (∀ t o, e.loc = .pad t.id o → s.team? t.id = some t → g.granMates e = [e] → s.owned e.loc e.n 0 = false → o + e.n ≤ t.size → Memory.wf t.win = true →
        (e.kind = .load ∨ e.kind = .store ∨ ∃ op sgn x, e.kind = .atom op sgn x) → e.acq ≤ 4 →
        ∃ u g' t', exec (.queueLeave gid i copy) s = .next u ∧ u.grp? gid = some g' ∧ u.team? t.id = some t' ∧ u.dram = s.dram ∧
          (∀ b, memRead t'.win b = if o ≤ b ∧ b < o + e.n then
            .ofNat 8 (newBytes e.kind e.n (t.rd o e.n) e.data / 2 ^ (8 * (b - o))) else memRead t.win b) ∧
          (∀ x, g'.ent? e.uid = some x → x.stage = .done ∧ x.val = oldValue e.kind (t.rd o e.n))) ∧
      (∀ pa cls v, e.loc = .mem pa cls → e.kind = .load → s.owned e.loc e.n 0 = false → s.dieDown (homeDie pa) = false → e.acq ≤ 4 →
        g.lostPriv e pa = false → s.mayCache g e.va pa (s.classNow g e.va cls) false = true → s.l1Get? g.core pa e.n = some v → g.core < 192 →
        ∃ u g', exec (.queueLeave gid i copy) s = .next u ∧ u.grp? gid = some g' ∧ u.dram = s.dram ∧ u.net = s.net ∧
          ∀ x, g'.ent? e.uid = some x → x.stage = .done ∧ x.val = v) ∧
      (∀ pa cls0 cls, e.loc = .mem pa cls0 → cls = s.classNow g e.va cls0 →
        (e.kind = .load ∨ e.kind = .store ∨ ∃ op sgn x, e.kind = .atom op sgn x) →
        s.owned e.loc e.n 0 = false → s.dieDown (homeDie pa) = false → g.lostPriv e pa = false → (cls = 3 → s.heldG g e.va = false) →
        s.mayCache g e.va pa cls e.kind.isWrite = false → (e.kind.isWrite = true → s.writeBlocked g.die (homeDie pa) = false) → g.die < 4 →
        ∃ u g' r, exec (.queueLeave gid i copy) s = .next u ∧ u.grp? gid = some g' ∧ u.dram = s.dram ∧ u.net = s.net ++ [r] ∧
          r.src = g.core ∧ r.srcDie = g.die ∧ r.home = homeDie pa ∧ r.grp = gid ∧ r.ent = e.uid ∧ r.kind = e.kind ∧ r.loc = .mem pa cls ∧
          r.n = e.n ∧ r.data = e.data ∧ r.write = e.kind.isWrite ∧ r.fill = 0 ∧ (∀ x, g'.ent? e.uid = some x → x.stage = .left) ∧
          (homeDie pa ≠ g.die → homeDie pa < 4 → TableShaped (s.die g.die).dep →
            ∀ x < 5, (r.stamp[x]?).getD 0 = depAt (s.die g.die).dep x r.home + if r.write = true ∧ x = g.die then 1 else 0)))

/-- 08 R173 to R175, R193, 07 R154, R155, 15 R342: a request is applied at its home point in one step, at once on its own die, from another die
once its stamp allows it, or, its tile being held, at its spiral once it has reached the tile; replies merge tables; writes from outside are
accepted, applied and counted; the host's reads hold a line until it gives it up, and a write to such a line waits.
Model's choices: log 40, 44 and 96. -/
def Obligations.RequestsAreApplied : Prop :=
  ∀ (s : State),
    (∀ i r pa cls, s.net[i]? = some r → (∀ x ∈ s.net.take i, x.sameWay r = false) → (∀ x ∈ (s.die r.home).snoop, x.sameWay r = false) →
      Plain s r pa cls → s.dieDown r.home = false →
      (r.home = r.srcDie → WayFree s r →
        (s.snooped r = false → Unheld s r → SmallAcquire s r →
          ∃ u, exec (.homeApply i) s = .next u ∧ u.net = s.net.eraseIdx i ∧ AppliedOnce s u r pa ∧
            Answered s u r (oldValue r.kind (s.homeRead pa r.n))) ∧
        (∀ x, s.snooped r = false → (s.quad r.quad).tile? (tileOf pa) = some x →
          ∃ u a, exec (.homeApply i) s = .next u ∧ u.net = s.net.eraseIdx i ∧ u.dram = s.dram ∧ u.replies = s.replies ∧
            (u.quad r.quad).accs = (s.quad r.quad).accs ++ [a] ∧ a.req = r ∧ a.cycle = s.acceptCycle r.quad ∧
            a.rank = (s.quad r.quad).rank (whoAt r.quad r.src) a.cycle ∧ a.way.wake = a.cycle + x.at a.cycle / 256) ∧
        (s.snooped r = true → ∃ u, exec (.homeApply i) s = .next u ∧ u.net = s.net.eraseIdx i ∧ u.dram = s.dram ∧
          (u.die r.home).snoop = (s.die r.home).snoop ++ [r])) ∧
      (r.home ≠ r.srcDie → r.srcDie < 4 → ∃ u, exec (.homeApply i) s = .next u ∧ u.net = s.net.eraseIdx i ∧ u.dram = s.dram ∧
        nth (u.die r.home).applyq r.srcDie = nth (s.die r.home).applyq r.srcDie ++ [r])) ∧
    (∀ die src r rest pa cls, die < 4 → src < 4 → nth (s.die die).applyq src = r :: rest → r.home = die → r.srcDie = src → src ≠ die →
      Plain s r pa cls → s.dieDown die = false → WayFree s r → s.snooped r = false → Unheld s r → TableShaped (s.die die).dep →
      (∀ x < 5, let c := depAt (s.die die).dep x die
        let v := (r.stamp[x]?).getD 0
        if x = src ∧ r.write = true then c + 1 = v else v ≤ c) →
      ∃ u, exec (.applyQueueHead die src) s = .next u ∧ nth (u.die die).applyq src = rest ∧ AppliedOnce s u r pa ∧
        Answered s u r (oldValue r.kind (s.homeRead pa r.n))) ∧
    (∀ q i a pa cls, q < 16 → (s.quad q).accs[i]? = some a → AtTile s q pa a.way a.key → Plain s a.req pa cls → q = homeQuad pa →
      s.ownedReq a.req = false → s.atRepair a.req = false → s.snooped a.req = false → s.dieDown a.req.home = false →
      TableShaped (s.die a.req.home).dep → SmallAcquire s a.req →
      ∃ u, exec (.spiralAccessApply q i) s = .next u ∧ (u.quad q).accs = (s.quad q).accs.eraseIdx i ∧ AppliedOnce s u a.req pa ∧
        Answered s u a.req (oldValue a.req.kind (s.homeRead pa a.req.n))) ∧
    (∀ i p pa cls, s.replies[i]? = some p → p.req.loc = .mem pa cls → p.req.fill = 0 → p.req.srcDie < 4 →
      (p.req.kind = .load ∨ p.req.kind = .store ∨ ∃ op sgn x, p.req.kind = .atom op sgn x) →
      SmallAcquire s p.req →
      ∃ u, exec (.replyMerge i) s = .next u ∧ u.replies = s.replies.eraseIdx i ∧ u.dram = s.dram ∧ EntryPerformed s u p.req p.val ∧
        ∀ x < 5, ∀ j < 4, depAt (u.die p.req.srcDie).dep x j = if j = p.req.srcDie then depAt (s.die p.req.srcDie).dep x j
          else max (depAt (s.die p.req.srcDie).dep x j) (depAt p.table x j)) ∧
    (∀ src pa, homeDie pa < 4 → s.linkUp src = true → tierOf pa ≠ .lp → s.dieDown (homeDie pa) = false →
      let in' (x : ExtAct) (P : Req → Prop) : Prop := ∃ u r, exec (.externalWrite x) s = .next u ∧ u.dram = s.dram ∧ P r ∧
        (u.die (homeDie pa)).extq = (s.die (homeDie pa)).extq ++ [r] ∧ (u.die (homeDie pa)).extAcc = (s.die (homeDie pa)).extAcc + 1 ∧
        r.loc = .mem pa 0 ∧ r.write = true ∧ r.home = homeDie pa
      (∀ bs, bs ≠ [] → in' (.accept src pa bs) fun r => r.kind = .store ∧ r.cells = bytesCells pa bs) ∧
      (pa % 8 = 0 → in' (.claim src pa) fun r => r.kind = .atom 0 false 0 ∧ r.n = 8 ∧ r.data = 1 ∧ r.cells = [])) ∧
    (∀ die r rest pa, die < 4 → (s.die die).extq = r :: rest → r.loc = .mem pa 0 → r.home = die → homeDie pa = die → 4000 ≤ r.src → r.src < 5000 →
      r.kind = .store → r.write = true → r.fill = 0 → r.cells ≠ [] → (∀ c ∈ r.cells, tileOf c.1 = tileOf pa) → tierOf pa ≠ .lp → Memory.wf s.dram = true →
      (r.cells.map (·.1)).Nodup → s.ownedReq r = false → s.outranked r = false → s.externalParked die = false →
      Unheld s r → TableShaped (s.die die).dep →
      ∃ u, exec (.externalWrite (.apply die)) s = .next u ∧ (u.die die).extq = rest ∧ (∀ c ∈ r.cells, u.homeByte c.1 = c.2) ∧
        depAt (u.die die).dep 4 die = depAt (s.die die).dep 4 die + 1) ∧
    (∀ src pa n st, tierOf pa = .hbm st → homeDie pa < 4 → s.dieDown (homeDie pa) = false → 0 < n → s.linkUp src = true →
      WayFree s (outRead src pa n) → Unheld s (outRead src pa n) →
      ∃ u, exec (.hostRead ⟨src, pa⟩ n) s = .next u ∧ u.dram = s.dram ∧ (∀ a, u.homeByte a = s.homeByte a) ∧
        (src = 16 → (u.die (homeDie pa)).hostLines.contains (lineOf pa) = true) ∧
        (src ≠ 16 → (u.die (homeDie pa)).hostLines = (s.die (homeDie pa)).hostLines)) ∧
    (∀ die r rest pa cls, die < 4 → (s.die die).snoop = r :: rest → r.home = die → r.srcDie = die → Plain s r pa cls → s.dieDown die = false →
      Unheld s r → SmallAcquire s r →
      ∃ u, exec (.bisnpResponse die) s = .next u ∧ (u.die die).snoop = rest ∧ (u.die die).hostLines.contains (lineOf pa) = false ∧
        AppliedOnce s u r pa ∧ Answered s u r (oldValue r.kind (s.homeRead pa r.n)))

/-- 07 R151, R152, R156, R159, R163 to R165, 08 R172, R173: write-backs send dirty bytes to their home, or to the quadrant's copy of the tile; a step
of SPCLEAN, SPINV or SPFLUSH is sent to its tile's home as a write is and treats the tile there; an accepted promotion puts its tile at the first
position that no pinned tile holds and turns the front; a pull moves its tile inward, never past a pinned one, and has no effect otherwise.
Model's choices: log 19, 31, 44, 96 and 101. -/
def Obligations.TilesMoveAndWriteBack : Prop :=
  ∀ (s : State),
    (∀ core a drop l, core < 192 → (s.core core).line? a = some l → l.dirtyCells ≠ [] →
      (s.copyFor core l = true → ∃ u x, exec (.writeBack (.l1 core a drop)) s = .next u ∧ u.dram = s.dram ∧ u.net = s.net ∧
        (u.quad (core / 12)).accs = (s.quad (core / 12)).accs ++ [x] ∧ x.req.cells = l.dirtyCells ∧ x.req.fill = 3 ∧ x.req.src = core) ∧
      (s.copyFor core l = false → s.writeBlocked (dieOfCore core) (homeDie l.addr) = false →
      ∃ u r, exec (.writeBack (.l1 core a drop)) s = .next u ∧ u.dram = s.dram ∧ u.net = s.net ++ [r] ∧ r.cells = l.dirtyCells ∧ r.write = true ∧
        r.src = core ∧ r.home = homeDie l.addr ∧ (drop = true → (u.core core).line? a = none) ∧
        (drop = false → ∃ l', (u.core core).line? a = some l' ∧ l'.cells = l.cells ∧ l'.dirty = []))) ∧
    (∀ q a drop t, q < 16 → (s.quad q).copy? (tileOf a) = some t → t.dirty ≠ [] → s.writeBlocked (q / 4) (homeDie t.addr) = false →
      ∃ u r, exec (.writeBack (.copy q a drop)) s = .next u ∧ u.dram = s.dram ∧ u.net = s.net ++ [r] ∧
        r.cells = t.dirty.map (fun x => (x, t.byte x)) ∧ r.write = true ∧ (drop = true → (u.quad q).copy? (tileOf a) = none) ∧
        (drop = false → ∃ t', (u.quad q).copy? (tileOf a) = some t' ∧ t'.bytes = t.bytes ∧ t'.dirty = [])) ∧
    (∀ gid i g e op tiles t, s.grp? gid = some g → g.rangeWork[i]? = some (e, t) → e.kind = .range op tiles → g.core < 192 → gid ≠ 0 → tileOf t = t →
      s.writeBlocked g.die (homeDie t) = false → s.stepping e.uid t = false →
      ∃ u r, exec (.rangeStep gid i) s = .next u ∧ u.dram = s.dram ∧ u.net = s.net ++ [r] ∧ RangeReq r op t 0 ∧ r.src = g.core ∧ r.grp = gid ∧
        r.ent = e.uid ∧ r.write = true ∧ r.srcDie = g.die) ∧
    (∀ i r op t cls, s.net[i]? = some r → (∀ x ∈ s.net.take i, x.sameWay r = false) → (∀ x ∈ (s.die r.home).snoop, x.sameWay r = false) →
      RangeReq r op t cls → homeDie t < 4 → op < 3 → s.dieDown r.home = false → r.home = r.srcDie → WayFree s r → s.snooped r = false → Unheld s r →
      SmallAcquire s r →
      ∃ u, exec (.homeApply i) s = .next u ∧ u.net.length + 1 = s.net.length ∧ TileTreated s u op t ∧ StepDone s u r op t) ∧
    (∀ q i a op t cls, q < 16 → (s.quad q).accs[i]? = some a → AtTile s q t a.way a.key → RangeReq a.req op t cls → homeDie t < 4 → op < 3 → q = homeQuad t →
      s.atRepair a.req = false → s.snooped a.req = false → SmallAcquire s a.req →
      ∃ u, exec (.spiralAccessApply q i) s = .next u ∧ (u.quad q).accs.length + 1 = (s.quad q).accs.length ∧ TileTreated s u op t ∧
        StepDone s u a.req op t) ∧
    (∀ q p x, q < 16 → (s.quad q).promos = [p] → p.who < 14 → (s.quad q).pAt ≠ (s.die (q / 4)).cycle + 1 →
      (s.quad q).accs = [] → (s.quad q).pulls = [] → s.evictStopped q = false → (s.quad q).tile? p.tile = some x → (s.pinnedTile x = false ∨ x.pos = none) →
      (∀ y ∈ (s.quad q).tiles, tileOf y.addr = y.addr) → (∀ a ∈ x.dirty, tileOf a = x.addr) →
      ∃ u x', exec (.promotionAccept q) s = .next u ∧ (u.quad q).promos = [] ∧ (u.quad q).front = (p.who + 1) % 14 ∧
        (u.quad q).tile? p.tile = some x' ∧ x'.bytes = x.bytes ∧ x'.dirty = x.dirty ∧
        x'.pos = some (unpinnedFrom s.pinnedTile (replaceTile (s.quad q).tiles { x with pos := none }) 32768 0)) ∧
    (∀ q i p pa k, q < 16 → (s.quad q).pulls[i]? = some p → Asks p.req k pa → AtTile s q pa p.way p.key → SmallAcquire s p.req →
      let g := unpinnedFrom s.pinnedTile (s.quad q).tiles 32768 p.target
      let moves (x : Tile) (at0 : Nat) : Prop := (s.quad q).tile? (tileOf pa) = some x ∧ x.pos = some at0 ∧ s.pinnedTile x = false ∧
        p.target < at0 ∧ g < at0
      ∃ u, exec (.pullApply q i) s = .next u ∧ (u.quad q).pulls = (s.quad q).pulls.eraseIdx i ∧ u.dram = s.dram ∧ Answered s u p.req 0 ∧
        (∀ x at0, moves x at0 → ∃ x', (u.quad q).tile? (tileOf pa) = some x' ∧ x'.pos = some g ∧ x'.bytes = x.bytes ∧ x'.dirty = x.dirty) ∧
        ((∀ x at0, ¬ moves x at0) → (u.quad q).tiles = (s.quad q).tiles))

namespace Sys2Proof.Machine

/-! ### Copy engines and matrix engines -/

/-- Packets that copy engines act on: their kind, engine, context and queue. -/
def packetRow : Instr → Option (Nat × Nat × Nat × Nat)
  | .copyPacket e c q => some (2, e, c, q)
  | .fillPacket e c q => some (3, e, c, q)
  | .gatherPacket e c q => some (4, e, c, q)
  | .collectivePacket e c q => some (5, e, c, q)
  | _ => none

/-- Accepting a packet performs its entries with no acquire at `.sys`, which would drop copies. -/
def PlainlyTaken (s : State) (id : Nat) : Prop :=
  ∀ g ∈ s.groups, ∀ e ∈ g.obq, e.kind = .engine id → ∀ x ∈ s.groups, x.id = g.id → ∀ y ∈ x.obq, y.uid = e.uid → y.acq ≤ 4

/-- `i` ends the packet w at once with a status: its record is put, then its slot is taken, and no group counts it any longer. -/
def PacketEnds (i : Instr) (s : State) (src d ctx q pa : Nat) (h : QHdr) (w prod status fcode : Nat) : Prop :=
  ∀ s1 s2, s.putRecord src d ctx (Pkt.of w).hdl ⟨status, fcode, prod, 0, 0, 0⟩ = some s1 → s1.takeSlot src d pa h = some s2 →
    ∃ u, exec i s = .next u ∧ u.copyEngs = s.copyEngs ∧ (∀ g ∈ u.groups, pktId ctx q h.rd ∉ g.engines) ∧
      (PlainlyTaken s (pktId ctx q h.rd) → u.dram = s2.dram ∧ u.quads = s2.quads)

/-- The engine's request r at index i is the one its port serves: nothing it depends on is open, it is accepted, and no eligible request
comes before it (11 R243, R244). -/
structure PortServes (s : State) (e i : Nat) (r : MReq) (mine : Instr → Bool) (before : MReq → MReq → Bool) (s1 : State) : Prop where
  range : e < 48
  at'   : (s.eng e).table[i]? = some r
  own   : r.eng = e
  served : mine r.instr = true
  open' : r.done = false
  can   : s.eligible r = true
  first : ∀ a ∈ (s.eng e).table, a.uid ≠ r.uid → mine a.instr = true → before a r = true → s.eligible a = false
  takes : s.accept r = some s1

/-- The request has ended with a status; without a handle it has left the table. -/
def RequestEnded (u : State) (r : MReq) (status aux count : Nat) : Prop :=
  (∀ x ∈ (u.eng r.eng).table, x.uid = r.uid → x.done = true ∧ x.status = status ∧ x.aux = aux ∧ x.count = count) ∧
  (r.hdl = 0 → ∀ x ∈ (u.eng r.eng).table, x.uid ≠ r.uid)

/-- The value of element key in a set; an element not listed is 0. -/
def setEl (w : WSet) (key : Nat) : Num := ((w.els.find? (·.1 == key)).map (·.2)).getD (.fin false 0 0)

end Sys2Proof.Machine

/-- 08 R176, 10 R216, R218, R219, R221, R224, R229, R230, R234: a copy engine takes the head packet of its queue as a job, ends a cancelled
one with status 0x02, and with 0x04 a defective one, one of a reserved kind and one for engines that the part lacks; a job's line goes to its window or, as one write request, to
its home; a job without lines left writes its record and leaves.
Model's choices: log 22 and 42. -/
def Obligations.CopyEnginesWork : Prop :=
  ∀ (s : State) (cpe ctx q : Nat), cpe < 32 → (s.desc ctx).wellFormed = true → (s.ctxD ctx).badDesc = false →
    (∀ i kind pa h w, packetRow i = some (kind, cpe, ctx, q) → s.copyHead? cpe ctx q = some (pa, h, w) → fld w 0 8 = kind →
      s.absentEngines cpe = true → PacketEnds i s (1000 + cpe) (cpeDie cpe) ctx q pa h w (copyProd cpe) 4 6) ∧
    (∀ i kind pa h w, packetRow i = some (kind, cpe, ctx, q) → s.copyHead? cpe ctx q = some (pa, h, w) → fld w 0 8 = kind →
      s.cpePresent cpe = true →
      let cancelled := (Pkt.of w).hdl ≠ 0 ∧ (Pkt.of w).hdl ∈ (s.ctxD ctx).cancels
      (cancelled → PacketEnds i s (1000 + cpe) (cpeDie cpe) ctx q pa h w (copyProd cpe) 2 0) ∧
      (¬ cancelled → pktBad w = true → PacketEnds i s (1000 + cpe) (cpeDie cpe) ctx q pa h w (copyProd cpe) 4 1) ∧
      (∀ s1, ¬ cancelled → pktBad w = false → s.takeSlot (1000 + cpe) (cpeDie cpe) pa h = some s1 →
        ∃ u j, exec i s = .next u ∧ (u.cpe cpe).jobs.length = (s.cpe cpe).jobs.length + 1 ∧ (u.cpe cpe).jobs.getLast? = some j ∧
          j.pkt = w ∧ j.ctx = ctx ∧ j.q = q ∧ j.slot = h.rd ∧ j.written = 0)) ∧
    (∀ pa h w, s.copyHead? cpe ctx q = some (pa, h, w) → ¬ (2 ≤ fld w 0 8 ∧ fld w 0 8 ≤ 5) →
      s.cpePresent cpe = true ∨ s.absentEngines cpe = true →
      PacketEnds (.reservedKindPacket cpe ctx q true) s (1000 + cpe) (cpeDie cpe) ctx q pa h w (copyProd cpe) 4 (if s.cpePresent cpe then 1 else 6)) ∧
    (∀ die pa h w, s.launchHead? die ctx q = some (pa, h, w) → fld w 0 8 ≠ 1 →
      PacketEnds (.reservedKindPacket die ctx q false) s (5000 + die) die ctx q pa h w (dispProd die) 4 (if s.absentDies (Lp.of w) then 6 else 1)) ∧
    (∀ src d h v s1, s.putRecord src d ctx h v = some s1 → RecordGiven s s1 ctx h v) ∧
    (∀ k j n l vs s1, (s.cpe cpe).jobs[k]? = some j → s.job? cpe j.uid = some j → j.status = 0 → j.wait = none → j.started = true →
      j.accepted = true → j.lines[n]? = some l → l.sent = false →
      (s.modJob cpe j.uid fun j => { j with wait := none }).lineVals (j.eng cpe) (Pkt.of j.pkt) l.els [] = .ok vs s1 →
      (∀ (t : Team) (o : Nat), l.loc = .pad t.id o → s1.team? t.id = some t → o + 16 ≤ t.size → t.bankq = [] → Memory.wf t.win = true →
        ∃ u j' t', exec (.engineLineWrite cpe k n) s = .next u ∧ u.job? cpe j.uid = some j' ∧ j'.lines = j.lines.filter (· != l) ∧
          u.team? t.id = some t' ∧ (∀ b, memRead t'.win b =
            match (vs.filter fun x => decide (o + x.1 ≤ b ∧ b < o + x.1 + x.2.1)).getLast? with
            | some x => .ofNat 8 (x.2.2 / 2 ^ (8 * (b - (o + x.1))))
            | none => memRead t.win b) ∧
          ((∀ b < 16, ∃ x ∈ vs, x.1 ≤ b ∧ b < x.1 + x.2.1) → (∀ x ∈ vs, x.1 + x.2.1 ≤ 16) → t'.fullAt o = true)) ∧
      (∀ pa cls, l.loc = .mem pa cls → s1.dieDown (homeDie pa) = false → s1.writeBlocked (cpeDie cpe) (homeDie pa) = false →
        ∃ u j' r, exec (.engineLineWrite cpe k n) s = .next u ∧ u.dram = s1.dram ∧ u.net = s1.net ++ [r] ∧ r.cells = valCells pa vs ∧
          r.write = true ∧ r.loc = .mem pa cls ∧ r.home = homeDie pa ∧ r.src = 1000 + cpe ∧ r.ent = j.uid ∧ u.job? cpe j.uid = some j' ∧
          ∀ x ∈ j'.lines, x.va = l.va → x.els = l.els → x.loc = l.loc → x.sent = true)) ∧
    (∀ k j, (s.cpe cpe).jobs[k]? = some j → j.started = true → j.lines = [] → j.ctx = ctx →
      CanRecord s (1000 + cpe) (cpeDie cpe) ctx (Pkt.of j.pkt).hdl →
      ∃ u, exec (.engineComplete cpe k) s = .next u ∧ (u.cpe cpe).jobs = (s.cpe cpe).jobs.filter (·.uid != j.uid) ∧
        RecordGiven s u ctx (Pkt.of j.pkt).hdl (if j.status = 0 then ⟨1, 0, copyProd cpe, 0, j.total, 0⟩
          else ⟨j.status, j.fcode, copyProd cpe, 0, j.written, j.ffa⟩))

/-- 11 R236, R237, R241, R243, R246 to R248, R254 to R256: a lease passes to the next waiting team on a cleared engine; MWLD latches its
tile's elements; a single-block MMA adds the window sum of activation row and weight row into each element; MACZ clears, MACWR converts rows
into the tile, and MACRD converts rows out of it into the window; each reads or writes all that is left of its bytes.
Model's choices: log 22 and 41. -/
def Obligations.MatrixEnginesWork : Prop :=
  ∀ (s : State) (e i : Nat) (r : MReq) (s1 : State),
    (e < 48 → ((s.eng e).lease = none ∧ (s.eng e).waits ≠ []) ∨ (∃ t, (s.eng e).lease = some t ∧ (s.eng e).leaving = true ∧
        ∀ j < 3, s.teamReqs t (e / 3 * 3 + j) = false) →
      ∃ u, exec (.leaseGrant e) s = .next u ∧ (u.eng e).lease = (s.eng e).waits.head? ∧ (u.eng e).waits = (s.eng e).waits.drop 1 ∧
        (u.eng e).leaving = false ∧ (u.eng e).chain = 1 ∧ (u.eng e).table = [] ∧ (∀ k < 4, nth (u.eng e).tiles k = []) ∧
        (∀ k < 8, nth (u.eng e).decl k = (15, false)) ∧ u.dram = s.dram ∧ u.teams = s.teams) ∧
    (∀ h o got s2, r.instr = .mwld h o → o.f.acc = false → o.set < 8 → o.f.n ≤ 256 →
      PortServes s e i r Instr.isMwld (fun a b => decide (a.uid < b.uid)) s1 →
      let T := mTile o.f.fmt o.f.nw o.f.n
      s1.readPieces (s1.reqEng { r with acc := true, wait := none }) false 0 0 r.source r.got [] = .ok got s2 →
      let data := joinChunks (got.map (·.getD 0))
      ∃ u, exec (.weightLoad e ⟨i, 0⟩) s = .next u ∧ RequestEnded u r 1 0 T ∧ (nth (u.eng e).sets o.set).fmt = o.f.fmt ∧
        (nth (u.eng e).sets o.set).nw = o.f.nw ∧ (nth (u.eng e).sets o.set).status = 1 ∧
        (∀ m < o.f.n, ∀ k < 256, let x := setEl (nth (u.eng e).sets o.set) (256 * m + k)
          let y := (tileEl o.f.fmt o.f.nw o.f.n data m k).val
          x = y ∨ (x.isZero = true ∧ y.isZero = true)) ∧
        ∀ k < 8, k ≠ o.set → nth (u.eng e).sets k = nth (s2.eng e).sets k) ∧
    (∀ h o data, r.instr = .mma h o → o.f.shp = false → o.f.tl < 4 → o.f.ws < 8 → r.data = some data → r.passes = 0 →
      PortServes s e i r Instr.isMma (fun a b => decide (b.fld.pri < a.fld.pri) || (a.fld.pri == b.fld.pri && decide (a.uid < b.uid))) s1 →
      s1.chainOf r.team e = 1 →
      ∃ u, exec (.arrayPass e ⟨i, 0⟩) s = .next u ∧ RequestEnded u r 1 1 (12 * 256 * o.f.n) ∧
        (∀ m < 256, ∀ n < 256, let old := tileGet (nth (s.eng e).tiles o.f.tl) (256 * m + n)
          let w := window ((List.range 256).map fun k => (tileEl o.f.fmt o.f.nw o.f.n data m k).val)
            ((List.range 256).map fun k => setEl (nth (s.eng e).sets o.f.ws) (256 * n + k))
          tileGet (nth (u.eng e).tiles o.f.tl) (256 * m + n) = if m < o.f.n then addz old w.1 w.2 o.f.z else old) ∧
        (∀ k < 4, k ≠ o.f.tl → nth (u.eng e).tiles k = nth (s.eng e).tiles k) ∧ (u.eng e).sets = (s.eng e).sets) ∧
    (∀ h en mask, r.instr = .macz h en mask → PortServes s e i r Instr.isTile (fun a b => decide (a.uid < b.uid)) s1 →
      ∃ u, exec (.tilePortServe e ⟨i, 0⟩) s = .next u ∧ RequestEnded u r 1 0 0 ∧ u.teams = s.teams ∧
        ∀ k < 4, nth (u.eng e).tiles k = if bit mask k then [] else nth (s.eng e).tiles k) ∧
    (∀ h o got s2, r.instr = .macwr h o → o.f.tl < 4 → PortServes s e i r Instr.isTile (fun a b => decide (a.uid < b.uid)) s1 →
      let size := macSize o.f.fmt
      let r' := { r with acc := true, wait := none }
      let rows := (List.range o.f.n).map fun (k : Nat) => r.a + .ofNat 64 k * r.b
      s1.rowsBad r' rows (256 * size) = none →
      s1.readPieces (s1.reqEng r') true 0 0 r.source r.got [] = .ok got s2 →
      ∃ u, exec (.tilePortServe e ⟨i, 0⟩) s = .next u ∧ RequestEnded u r 1 0 (o.f.n * (256 * size)) ∧
        ∀ m < 256, ∀ n < 256, tileGet (nth (u.eng e).tiles o.f.tl) (256 * m + n) =
          if o.f.row ≤ m ∧ m < o.f.row + o.f.n then
            macIn o.f.fmt (joinChunks (got.map (·.getD 0)) / 2 ^ (8 * size * (256 * (m - o.f.row) + n)) % 2 ^ (8 * size))
          else tileGet (nth (s2.eng e).tiles o.f.tl) (256 * m + n)) ∧
    (∀ h o (t : Team) o0, r.instr = .macrd h o → r.acc = false → o.f.tl < 4 → o.f.row + o.f.n ≤ 256 → 0 < o.f.n →
      PortServes s e i r Instr.isTile (fun a b => decide (a.uid < b.uid)) s1 →
      let size := macSize o.f.fmt
      r.a.toNat = windowBase + o0 → o0 % 16 = 0 → r.b.toNat % 16 = 0 → 256 * size ≤ r.b.toNat → r.b.toNat < 2 ^ 24 →
      o0 + (o.f.n - 1) * r.b.toNat + 256 * size ≤ t.size → t.size ≤ 2 ^ 24 → s.team? r.team = some t → s.team? t.id = some t →
      s.tagTeam? t.ctag = some t → t.bankq = [] → Memory.wf t.win = true → (∀ off, s.owned (.pad t.id off) 16 r.uid = false) →
      ∃ u t', exec (.tilePortServe e ⟨i, 0⟩) s = .next u ∧ u.team? t.id = some t' ∧ (r.hdl = 0 → u.dram = s.dram) ∧
        (∀ m < o.f.n, ∀ n < 256, memReadN t'.win (o0 + m * r.b.toNat + size * n) size =
          (macOut o.f.fmt (Rm.ofCode o.f.rm 0) o.f.sat (tileGet (nth (s.eng e).tiles o.f.tl) (256 * (o.f.row + m) + n))).1 % 2 ^ (8 * size)) ∧
        (∀ b, (∀ m < o.f.n, b < o0 + m * r.b.toNat ∨ o0 + m * r.b.toNat + 256 * size ≤ b) → memRead t'.win b = memRead t.win b) ∧
        ∀ m < 256, ∀ n < 256, tileGet (nth (u.eng e).tiles o.f.tl) (256 * m + n) =
          if o.f.z = true ∧ o.f.row ≤ m ∧ m < o.f.row + o.f.n then 0 else tileGet (nth (s.eng e).tiles o.f.tl) (256 * m + n))
namespace Sys2Proof.Machine

/-! ### The dispatcher -/

/-- A message of a kind leaves over a link. -/
def LinkSays (s u : State) (link kind : Nat) (ws : List W64) : Prop :=
  link < 16 → (nth u.md.links link).out = (nth s.md.links link).out ++ [(kind, ws)]

/-- LAUNCH_PACKET and STACK_LAUNCH: a ready packet whose turn it is starts a grid under the next GRIDID, and its slot is taken (12 R262, R263). -/
def LaunchStarts : Prop :=
  ∀ (s s1 : State) (die ctx q pa w hdr : Nat) (h : QHdr) (stack : Bool), die < 4 → (s.desc ctx).wellFormed = true →
    (s.ctxD ctx).badDesc = false → s.launchHead? die ctx q = some (pa, h, w) → fld w 0 8 = 1 → s.launchState die ctx q w = .start hdr →
    ((Hd.of hdr).lvl = 1 ↔ stack = true) → s.nextQueue die = some (ctx, q) → s.takeSlot (5000 + die) die pa h = some s1 →
    ∃ u k, exec (if stack then .stackLaunch die ctx q else .launchPacket die ctx q) s = .next u ∧ u.grids = s.grids ++ [k] ∧ k.ctx = ctx ∧
      k.q = q ∧ k.die = die ∧ k.seqno = h.rd ∧ k.pkt = toWords 8 w ∧ k.hdr = toWords 8 hdr ∧ k.stack = stack ∧ k.next = 0 ∧
      k.ending = none ∧ k.remote = none ∧ k.gang = k.p.gang ∧
      k.gridid = .ofNat 64 (2 ^ 48 * (s1.desc ctx).tag + (Config.firstLaunch ctx + (s.ctxD ctx).gridCount) % 2 ^ 48) ∧
      (u.ctxD ctx).gridCount = (s.ctxD ctx).gridCount + 1 ∧ nth (u.die die).lastServed (Lp.of w).pri = some (ctx, q) ∧
      (PlainlyTaken s (pktId ctx q h.rd) → u.dram = s1.dram ∧ u.quads = s1.quads) ∧ ((Lp.of w).gang = false → u.md = s1.md)

/-- A taken slot's kind is 0, and rd has advanced (10 R217, R218). -/
def SlotTaken : Prop :=
  ∀ (s s1 : State) (src d pa : Nat) (h : QHdr), s.takeSlot src d pa h = some s1 → HomeOk s pa → HomeOk s h.pa → pa / 64 ≠ h.pa / 64 →
    tierOf pa ≠ .lp → tierOf h.pa ≠ .lp → s1.homeRead pa 1 = 0 ∧ s1.homeRead (h.pa + 16) 8 = (h.rd + 1) % 2 ^ 64

/-- A refused launch ends with its status, one for dies that the part lacks with 0x04 and fcode 0x6; one without a translation is held by a fault record of slot 126 (12 R261, R269). -/
def LaunchRefusedOrHeld : Prop :=
  ∀ (s : State) (die ctx q pa w : Nat) (h : QHdr), (s.desc ctx).wellFormed = true → (s.ctxD ctx).badDesc = false →
    s.launchHead? die ctx q = some (pa, h, w) → fld w 0 8 = 1 →
    ((Lp.of w).hdl ∉ (s.ctxD ctx).cancels → s.absentDies (Lp.of w) = true → s.launchState die ctx q w = .refuse 4 6 0) ∧
    (∀ st fc ffa s1 s2, s.launchState die ctx q w = .refuse st fc ffa →
      s.putRecord (5000 + die) die ctx (Pkt.of w).hdl ⟨st, fc, dispProd die, 0, 0, ffa⟩ = some s1 → s1.takeSlot (5000 + die) die pa h = some s2 →
      ∃ u, exec (.launchPacket die ctx q) s = .next u ∧ (PlainlyTaken s (pktId ctx q h.rd) → u.dram = s2.dram ∧ u.quads = s2.quads) ∧
        u.grids = s.grids ∧ ∀ g ∈ u.groups, pktId ctx q h.rd ∉ g.engines) ∧
    (∀ va wk, s.launchState die ctx q w = .miss va wk →
      ∃ u f, exec (.launchPacket die ctx q) s = .next u ∧ f ∈ (u.ctxD ctx).faults ∧ f.va = va ∧ f.seq = none ∧ f.slot = 126 ∧ f.core = 0 ∧
        f.die = die ∧ f.who = 3 ∧ f.grp = q ∧ (q, f.uid, none) ∈ (u.ctxD ctx).held ∧ u.grids = s.grids ∧ u.dram = s.dram ∧ u.quads = s.quads)

/-- A group as it stands at launch (02 R41, 03 R51). -/
def GroupsAtLaunch : Prop :=
  ∀ (x : GroupAt), let g := x.group
    (∀ r < 256, ∀ l < 128, (g.v r).get l = 0) ∧ (∀ r < 192, g.s r = 0) ∧ (∀ r < 8, g.p r = if r = 0 then BitVec.allOnes 128 else 0) ∧ (∀ r < 16, g.h r = 0) ∧
    g.donem = BitVec.allOnes 128 ∧ (∀ l < 128, nth g.pcv l = x.entry ∧ nth g.lanes l = if l < x.live then .ready else .exited) ∧
    (∀ i < 8, g.freed.getLsbD i = decide (x.live ≤ 16 * i))

/-- TEAM_PLACE: the next cluster of a grid takes the arc chosen; each window holds the image, then the arguments, then its channels, and the
groups of each team stand at the entry (12 R264 to R267). -/
def TeamsPlaced : Prop :=
  ∀ (s s1 s2 s3 : State) (grid hd init arg : Nat) (tab arc : List Nat) (k : Grid), s.grid? grid = some k → k.stack = false → k.ending = none →
    k.aborted = false → k.next < k.p.teams → s.gridHeld k = false → k.hdr ≠ [] → s.restoreFirst k.p.pri = false → s.depHolds k = false →
    s.extQuiet = true → s.pickArc k.h k.p = some arc →
    let n := if k.h.init = 0 then 0 else 16 * k.h.initsz
    let m := if k.p.arg = 0 then 0 else 16 * k.p.argsz
    s.dispRead k.die k.ctx (.ofNat 64 k.h.init) n = .ok init s1 → s1.dispRead k.die k.ctx k.p.arg (16 * k.p.argsz) = .ok arg s2 →
    s2.readHeader k.die k.ctx k.p = .ok (hd, tab) s3 →
    ∃ u new, exec (.teamPlace grid) s = .next u ∧ u.grid? grid = some { k with next := k.next + (k.h.ctm + 1), wait := none } ∧
      u.teams = s.teams ++ new ∧ new.length = k.h.ctm + 1 ∧ (∀ g ∈ s.groups, (∀ e ∈ g.obq, e.stage ≠ .filling) → g ∈ u.groups) ∧
      ∀ r t, new[r]? = some t →
        let cs := (tab.map Chan.of).filter (·.rrank == r)
        arc[r]? = some t.core ∧ t.grid = grid ∧ t.teamid = (k.p.tbase + k.next + r) % 2 ^ 32 ∧ t.crank = (k.next + r) % (k.h.ctm + 1) ∧
        t.size = 4096 * k.h.scr ∧ t.groups = k.p.groups ∧ t.left = k.p.groups ∧ t.bankq = [] ∧ t.bad = false ∧ t.saved = false ∧
        (arc.length = 1 → s.windowAt t.core t.size = some t.base) ∧
        (cs = [] → ∀ o, t.fullAt o = (decide (o < n) || decide (16 * k.h.argoff ≤ o ∧ o < 16 * k.h.argoff + m)) ∧
          memRead t.win o = if 16 * k.h.argoff ≤ o ∧ o < 16 * k.h.argoff + m then .ofNat 8 (arg / 2 ^ (8 * (o - 16 * k.h.argoff)))
            else if o < n then .ofNat 8 (init / 2 ^ (8 * o)) else 0) ∧
        (∀ c, cs = [c] → t.fullAt (16 * c.obj) = true ∧
          NumIs 128 (t.rd (16 * c.obj) 16) 0 [(84, 4, c.rrank), (80, 4, c.srank), (56, 8, c.cap), (40, 16, c.buf), (38, 2, 2)] ∧
          ∀ o, 16 * c.buf ≤ o → o < 16 * c.buf + 512 * (c.cap + 1) → o / 16 ≠ c.obj → t.fullAt o = false) ∧
        ∀ j < k.p.groups, ∃ x : GroupAt, x.group ∈ u.groups ∧ x.team = t.id ∧ x.gid = j ∧ x.core = t.core ∧ x.nv = k.h.nv + 1 ∧
          x.ns = k.h.ns + 1 ∧ x.live = min 128 (k.p.lpt + 1 - 128 * j) ∧ x.entry = .ofNat 32 k.h.entry ∧
          x.friv = (if k.h.fair = 0 then 12 else k.h.fair) ∧ (arc.length = 1 → x.slot ∈ s.freeSlots t.core)

/-- The groups of a grid that run take GANGABORT at their next safe point. -/
def GangMarked (s u : State) (k : Grid) : Prop :=
  ∀ g ∈ u.groups, (s.team? g.team).map (·.grid) = some k.id → g.res ≠ .draining → g.gangAbort = true

/-- The abort of a gang by its taking dispatcher: its groups are marked, the acknowledging devices told, the record takes status 0x06 and the
lowest link that did not acknowledge. -/
def GangAborts (i : Instr) (s : State) (k : Grid) : Prop :=
  ∃ u k', exec i s = .next u ∧ u.grid? k.id = some k' ∧ k'.aborted = true ∧ GangMarked s u k ∧
    (∀ j < 16, j ∈ k.acks → (3, k.pkt) ∈ (nth u.md.links j).out) ∧
    ∀ j < 16, bit k.p.pmask j = true → j ∉ k.acks → (∀ x < j, bit k.p.pmask x = true → x ∈ k.acks) →
      k'.ending = k.ending.or (some (6, j))

/-- Gangs (12 R271). -/
def GangSteps : Prop :=
  (∀ (s s1 : State) (link ctx die hd : Nat) (tab : List Nat) (pkt : List W64) (k : Grid),
    let w := ofWords pkt
    let p := Lp.of w
    (((List.range 4).all fun d => !(p.allows d && (s.die d).phase == .run && (nth s.md.capdie d).getLsbD 84)) = true →
      ∃ u, exec (.gangPacket link ctx pkt) s = .next u ∧ LinkSays s u link 2 pkt ∧ u.grids = s.grids) ∧
    (((List.range 4).find? fun d => p.allows d && (s.die d).phase == .run && (nth s.md.capdie d).getLsbD 84) = some die →
      s.extQuiet = true → s.descOk ctx = true → p.kind = 1 → p.gang = true → (nth s.md.links link).up = true →
      packetBad w (p.dep != 0 && ((s.record ctx p.dep) == .bad || (s.record ctx p.dep) == .noPage)) = none →
      (newGrid s die ctx 0 0 0 pkt false (some link)).1 = k →
      ((newGrid s die ctx 0 0 0 pkt false (some link)).2.setGrid { k with hdr := [] }).readHeader die ctx p = .ok (hd, tab) s1 →
      (s1.headerBad hd w tab = none →
        ∃ u k', exec (.gangPacket link ctx pkt) s = .next u ∧ LinkSays s u link 1 pkt ∧ u.grid? k.id = some k' ∧ k'.hdr = toWords 8 hd ∧
          k'.pkt = pkt ∧ k'.remote = some link ∧ k'.die = die ∧ k'.ctx = ctx ∧ k'.next = 0) ∧
      (s1.headerBad hd w tab ≠ none →
        ∃ u, exec (.gangPacket link ctx pkt) s = .next u ∧ LinkSays s u link 2 pkt ∧ u.grid? k.id = none))) ∧
  (∀ (s : State) (grid link : Nat) (k : Grid), s.grid? grid = some k → k.gang = true →
    (k.remote = none → bit k.p.pmask link = true →
      (k.aborted = false → (s.die k.die).cycle ≤ k.sentAt + k.p.timeout →
        ∃ u k', exec (.gangAck grid link true) s = .next u ∧ u.grid? grid = some k' ∧ link ∈ k'.acks ∧ (∀ i ∈ k.acks, i ∈ k'.acks) ∧
          k'.aborted = false ∧ k'.ending = k.ending ∧ u.md = s.md ∧ u.groups = s.groups) ∧
      (k.aborted = true → ∃ u k', exec (.gangAck grid link true) s = .next u ∧ LinkSays s u link 3 k.pkt ∧ u.grid? grid = some k' ∧
        link ∈ k'.acks) ∧
      (k.aborted = false → k.sentAt + k.p.timeout < (s.die k.die).cycle → link ∉ k.acks →
        ∃ u k', exec (.gangAck grid link true) s = .next u ∧ LinkSays s u link 3 k.pkt ∧ u.grid? grid = some k' ∧ link ∈ k'.acks ∧
          k'.aborted = true ∧ GangMarked s u k) ∧
      (∃ u k', exec (.gangAck grid link false) s = .next u ∧ u.grid? grid = some k' ∧ link ∈ k'.ends ∧ k'.aborted = true) ∧
      (k.aborted = false → GangAborts (.gangAck grid link false) s k) ∧
      ∃ u k', exec (.gangEndReport grid link) s = .next u ∧ u.grid? grid = some k' ∧ link ∈ k'.ends ∧ (∀ i ∈ k.ends, i ∈ k'.ends) ∧
        k'.acks = k.acks ∧ u.groups = s.groups) ∧
    (k.remote = none → k.aborted = false → (∃ i < 16, bit k.p.pmask i = true ∧ i ∉ k.acks) → k.sentAt + k.p.timeout < (s.die k.die).cycle →
      GangAborts (.gangTimeout grid) s k) ∧
    (k.remote = some link → k.next = 0 →
      ∃ u, exec (.gangAbortMsg grid) s = .next u ∧ LinkSays s u link 4 k.pkt ∧ u.grid? grid = none ∧ u.groups = s.groups) ∧
    (k.remote = some link → k.next ≠ 0 → k.aborted = false →
      ∃ u k', exec (.gangAbortMsg grid) s = .next u ∧ u.grid? grid = some k' ∧ k'.aborted = true ∧ GangMarked s u k))

/-- GRID_END: the record of an ended grid, and what it frees (12 R269). -/
def GridsEnd : Prop :=
  ∀ (s : State) (grid : Nat) (k : Grid), s.grid? grid = some k → k.stack = false → k.hdr ≠ [] → s.gridOver k = true →
    (k.remote = none → CanRecord s (5000 + k.die) k.die k.ctx k.p.hdl →
      ∃ u, exec (.gridEnd grid) s = .next u ∧ u.grid? grid = none ∧ (∀ t ∈ u.teams, t.grid ≠ grid) ∧ (∀ d < 4, (u.die d).curd.owner ≠ some grid) ∧
        RecordGiven s u k.ctx k.p.hdl ⟨(k.ending.getD (1, 0)).1, (k.ending.getD (1, 0)).2, dispProd k.die, k.gridid.toNat,
          (s.teams.filter fun t => t.grid == grid && !t.bad).length, k.ffa⟩) ∧
    (∀ link, k.remote = some link →
      ∃ u, exec (.gridEnd grid) s = .next u ∧ u.grid? grid = none ∧ (∀ t ∈ u.teams, t.grid ≠ grid) ∧ LinkSays s u link 4 k.pkt)

end Sys2Proof.Machine

/-- 02 R41, 03 R51, 12 R261 to R267, R269, R271: dispatchers start the grids of ready packets, refuse or hold others, place teams on arcs with
their windows filled and their groups at launch state; a gang's packet, acknowledgements, reports, timeout and abort; an ended grid gives its
record and leaves.
Model's choices: log 7, 9, 22, 59, 60, 63, 93 and 110. -/
def Obligations.DispatchersRunGrids : Prop :=
  LaunchStarts ∧ SlotTaken ∧ LaunchRefusedOrHeld ∧ GroupsAtLaunch ∧ TeamsPlaced ∧ GangSteps ∧ GridsEnd
namespace Sys2Proof.Machine

/-! ### The system controller -/

/-- The commands that each entry of the table performs (14 R316). -/
def ctlOf : Instr → Command → Bool
  | .resolve, c => c.op == 1 && !c.flag8
  | .resolveRefuse, c => c.op == 1 && c.flag8
  | .trapactResume, c => c.op == 2 && c.a1 % 4 == 0
  | .trapactRetry, c => c.op == 2 && c.a1 % 4 == 1
  | .trapactEnd, c => c.op == 2 && c.a1 % 4 == 2
  | .trapactSave, c => c.op == 2 && c.a1 % 4 == 3
  | .shoot, c => c.op == 3
  | .move, c => c.op == 4
  | .evict, c => c.op == 5
  | .fillEnter, c => c.op == 6 && c.flag8
  | .fillLeave, c => c.op == 6 && !c.flag8
  | .pmcfg, c => c.op == 7
  | .ncwset, c => c.op == 8
  | .unknownOpCommand, c => decide (8 < c.op)
  | _, _ => false

/-- The head of the control queue holds the command w, nothing waits before it, and s1 is the state once its slot is taken. -/
structure CtlHead (s : State) (w : Nat) (s1 : State) : Prop where
  head : ∃ pa hp rd, s.ctlHead? = some (pa, hp, rd, w) ∧ populated pa = true ∧ s.takeCmd pa hp rd = some s1
  word : (Command.of w).done = 0 ∨ populated (Command.of w).done = true
  idle : s.md.held = []
  free : s.behindShoot (Command.of w) = false
  ops  : s.md.cmds = [] ∧ ∀ d < 4, (s.die d).unitOps = []

/-- No reserved field is set, and a context named exists. -/
def CmdFair (s : State) (c : Command) : Prop := c.bad = false ∧ (c.named = true → c.ctx < s.md.ctxcnt.toNat)

/-- The command's effect is b; its completion word holds a code, where it asks for one, and vector 2 is sent. -/
def CtlDone (i : Instr) (s : State) (w : Nat) (b : State) (code : Nat) : Prop :=
  ((Command.of w).done = 0 → exec i s = .next (b.signal 2)) ∧
  ∀ u, (Command.of w).done ≠ 0 → b.writeDone (Command.of w).done code = some u → exec i s = .next u

/-- Completion words; commands answered with 0x04; RESOLVE (14 R316, R317). -/
def CommandsAnswered : Prop :=
  (∀ (s : State) (done code : Nat), tierOf done = .lp → s.writeDone done code = some (s.signal 2)) ∧
  (∀ (s : State) (done code : Nat), done ≠ 0 → tierOf done ≠ .lp → s.peerDown done = false → s.directOk 6000 0 done 8 true = true →
    ∃ u, s.writeDone done code = some u ∧ nth u.md.msix 2 = nth s.md.msix 2 + 1 ∧
      (done % 8 = 0 → Memory.wf s.dram = true → (∀ x, s.homeTile? done = some x → x.bytes.length = 1024) →
        u.homeRead done 8 = code % 2 ^ 64)) ∧
  ∀ (s s1 : State) (w : Nat), CtlHead s w s1 →
    let c := Command.of w
    (∀ i, ctlOf i c = true → ¬ CmdFair s c → CtlDone i s w s1 4) ∧
    (8 < c.op → CtlDone .unknownOpCommand s w s1 4) ∧
    (∀ i, c.op = 2 → ctlOf i c = true → CmdFair s c → s1.trapNamed c = none → CtlDone i s w s1 4) ∧
    (c.op = 1 → CmdFair s c →
      let i := if c.flag8 then Instr.resolveRefuse else .resolve
      let open' := (s1.ctxD c.ctx).faults.filter fun f => f.seq.isSome
      (open'.find? (·.seq == some c.a0) = none → CtlDone i s w s1 4) ∧
      ∀ f, open'.find? (·.seq == some c.a0) = some f →
        let fs := if c.flag9 then open'.filter fun x => x.page == f.page && x.psize == f.psize else [f]
        (c.flag8 = false → (∀ x ∈ fs, s1.forced c.ctx x = false) →
          ∃ b, CtlDone i s w b 1 ∧ b.groups = s.groups ∧ b.dram = s1.dram ∧ b.quads = s1.quads ∧
            (b.ctxD c.ctx).faults = (s1.ctxD c.ctx).faults.filter fun x => fs.all (·.uid != x.uid)) ∧
        (∀ g, c.flag9 = false → (c.flag8 = true ∨ s1.forced c.ctx f = true) → f.who = 0 → s.grp? f.grp = some g → g.res = .resident →
          g.trap = none →
          ∃ b g' t, CtlDone i s w b 1 ∧ b.grp? f.grp = some g' ∧ g'.trap = some t ∧ t.cause = Cause.prot ∧ t.pc = f.pc ∧ t.va = f.va ∧
            (∀ l < 128, t.lanes.getLsbD l = waitsOn f.uid (nth g.lanes l) ∧
              nth g'.lanes l = if waitsOn f.uid (nth g.lanes l) then .ready else nth g.lanes l) ∧
            RegsKept { g with trap := g'.trap, trapc := g'.trapc } g' ∧ ∀ x ∈ (b.ctxD c.ctx).faults, x.uid ≠ f.uid))

/-- TRAPACT (14 R312). -/
def TrapActions : Prop :=
  ∀ (s s1 : State) (w : Nat) (t : TrapRec) (g : Group) (x : TrapSt), CtlHead s w s1 →
    let c := Command.of w
    CmdFair s c → c.op = 2 → c.a1 < 4 → s1.trapNamed c = some (t, g, x) → ¬ (x.cause = Cause.memerr ∧ x.lanes = 0 ∧ c.a1 ≠ 2) →
    let Over := fun (b : State) (g' : Group) => b.grp? g.id = some g' ∧
      (g.later = [] → g'.trap = none ∧ RegsKept { g with trap := none } g') ∧
      (∀ y ys, g.later = y :: ys → g'.later = ys ∧ ∃ z, g'.trap = some z ∧ z.cause = y.cause ∧ z.pc = y.pc ∧ z.lanes = y.lanes ∧ z.va = y.va) ∧
      g'.lanes = g.lanes ∧ b.dram = s1.dram ∧ ∀ r ∈ (b.ctxD c.ctx).traps, r.seq = some c.a0 → r.resolved = true
    (c.a1 = 0 → ∃ b g', CtlDone .trapactResume s w b 1 ∧ Over b g' ∧
      (g.res ≠ .saved → ∀ l < 128, nth g'.pcv l =
        if x.after = true ∧ x.lanes.getLsbD l = true ∧ nth g.pcv l = x.pc ∧ (nth g.lanes l).isExited = false then nextPc x.pc x.size
        else nth g.pcv l) ∧
      (g.res = .saved → x.after = true → g'.adv = g.adv ++ [(x.lanes, nextPc x.pc x.size)])) ∧
    (c.a1 = 1 → ∃ b g', CtlDone .trapactRetry s w b 1 ∧ Over b g' ∧ g'.pcv = g.pcv ∧ g'.adv = g.adv) ∧
    (∀ k, c.a1 = 2 → s1.grpGrid? g = some k → k.ending = none →
      ∃ b k', CtlDone .trapactEnd s w b 1 ∧ b.grid? k.id = some k' ∧ k'.ending = some (9, x.cause) ∧
        ∀ y, b.grp? g.id = some y → y.res = .draining) ∧
    (∀ s2, c.a1 = 3 → g.res = .resident → (s1.reserveGroup g.id).isSome = true → s1.saveGroup g.id = some s2 →
      ∃ b g', CtlDone .trapactSave s w b 1 ∧ b.grp? g.id = some g' ∧ g'.res = .saved ∧ g'.trap = g.trap ∧ g'.img.isSome = true ∧
        ∀ r ∈ (b.ctxD c.ctx).traps, r.seq = some c.a0 → r.saved = true)

/-- SHOOT and its completion (14 R321, R322). -/
def ShootSteps : Prop :=
  (∀ (s s1 : State) (w : Nat), CtlHead s w s1 → let c := Command.of w
    CmdFair s c → c.op = 3 →
    let hit := fun (t : Tlb) => t.ctx == c.ctx && crosses c.a0 c.a1 t.base t.size
    ∃ u x, exec .shoot s = .next u ∧ u.md.shoots = s.md.shoots ++ [x] ∧ x.ctx = c.ctx ∧ x.base = c.a0 ∧ x.len = c.a1 ∧ x.code = c.flag8 ∧
      x.done = c.done ∧ u.dram = s1.dram ∧ u.groups = s.groups ∧
      (∀ k < 192, (u.core k).tlb = (s.core k).tlb.filter fun t => !hit t) ∧ ∀ d < 4, (u.die d).walker = (s.die d).walker.filter fun t => !hit t) ∧
  ∀ (s : State) (i : Nat) (x : Shoot), s.md.shoots[i]? = some x → s.shootOver x = true → (x.done = 0 ∨ (s.writeDone x.done 1).isSome = true) →
    ∃ u, exec (.shootComplete i) s = .next u ∧ u.md.shoots = s.md.shoots.eraseIdx i ∧ nth u.md.msix 2 = nth s.md.msix 2 + 1 ∧
      (x.code = true → (∀ k < 192, ∀ b ∈ (u.core k).icache, ¬ (b.1 = x.ctx ∧ crosses x.base x.len b.2.1 32 = true)) ∧
        ∀ g ∈ u.groups, u.grpCtx g = x.ctx → g.ibuf = none ∧ g.iblk = [])

/-- MOVE, EVICT, FILL, and what a move does once it ends (14 R335 to R337). -/
def TierCommands : Prop :=
  (∀ (s s1 : State) (w : Nat), CtlHead s w s1 → let c := Command.of w
    CmdFair s c → s1.unitsOk c.a0 c.a1 = true →
    let us := (List.range c.a1).map fun k => c.a0 + 65536 * k
    let Ended := fun (u : State) => c.done = 0 → u.md.cmds = [] ∧ nth u.md.msix 2 = nth s.md.msix 2 + 1
    let Gone := fun (u : State) => (∀ k < 192, ∀ l ∈ (u.core k).l1, unitOf l.addr ∉ us) ∧
      ∀ q < 16, ∀ t ∈ (u.quad q).tiles, t.copy = true → t.addr % 1024 = 0 → unitOf t.addr ∉ us
    (c.op = 4 → c.a2 % 65536 = 0 → (∀ x ∈ us, s1.frameOk c.flag8 x (c.a2 + (x - c.a0)) = true) → (∀ d < 4, (s.die d).staged.length + c.a1 ≤ 65536) →
      ∃ u, exec .move s = .next u ∧ (∀ d < 4, (u.die d).staged = (s.die d).staged ∧
        (u.die d).unitOps.map (fun o => (o.kind, o.unit, o.dst)) =
          (us.filter fun x => homeDie x == d).map fun x => (0, x, c.a2 + (x - c.a0))) ∧ (c.a1 = 0 → Ended u)) ∧
    (c.op = 5 → ∃ u, exec .evict s = .next u ∧ Ended u ∧
      ∀ d < 4, ∀ p, p ∈ (u.die d).staged ↔ p ∈ (s.die d).staged ∧ ¬ (p.1 ∈ us ∧ homeDie p.1 = d)) ∧
    (c.op = 6 → c.flag8 = true → ∃ u, exec .fillEnter s = .next u ∧ Ended u ∧ Gone u ∧
      ∀ x ∈ us, x ∈ (u.die (homeDie x)).fill ∧ ∀ p ∈ (u.die (homeDie x)).staged, p.1 ≠ x) ∧
    (c.op = 6 → c.flag8 = false → (∀ x ∈ us, s.unitWritten x = false) → ∃ u, exec .fillLeave s = .next u ∧ Ended u ∧ Gone u ∧
      ∀ x ∈ us, x ∉ (u.die (homeDie x)).fill ∧ ∀ p ∈ (u.die (homeDie x)).staged, p.1 ≠ x)) ∧
  (∀ (s : State) (die i : Nat) (o : UnitOp) (swm : Bool), die < 4 → (s.die die).unitOps[i]? = some o → o.kind = 0 →
    ((s.die die).unitOps.filter (·.unit == o.unit)).length = 1 → o.unit % 65536 = 0 → tierOf o.unit = .lp → homeDie o.unit = die →
    s.frameOk swm o.unit o.dst = true → (∀ x ∈ s.md.cmds, x.done = 0) → Memory.wf s.dram = true →
    ∃ u, exec (.moveComplete die i) s = .next u ∧ (o.unit, o.dst) ∈ (u.die die).staged ∧ (u.die die).unitOps = (s.die die).unitOps.eraseIdx i ∧
      ∀ a, memRead u.dram a = if o.dst ≤ a ∧ a < o.dst + 65536 then memRead s.dram (o.unit + (a - o.dst)) else memRead s.dram a) ∧
  ∀ (s : State) (die unit : Nat), die < 4 → tierOf (unitOf unit) = .lp → homeDie (unitOf unit) = die →
    ∃ u, exec (.stagedEvict die unit) s = .next u ∧ u.dram = s.dram ∧
      (s.unitBusy (unitOf unit) = false → (u.die die).staged = (s.die die).staged.filter (·.1 != unitOf unit)) ∧
      (s.unitBusy (unitOf unit) = true → (u.die die).unitOps = (s.die die).unitOps ++ [⟨1, unitOf unit, 0, 0⟩])

/-- PMCFG and NCWSET (14 R316, R338, 15 R353). -/
def CountersAndWindows : Prop :=
  ∀ (s s1 : State) (w : Nat), CtlHead s w s1 → let c := Command.of w
    CmdFair s c →
    (let sel := fld c.a0 0 8
     let die := fld c.a0 14 2
     let core := 48 * die + fld c.a0 8 6
     let quad := 4 * die + fld c.a0 8 2
     let here := s.diePresent die = true ∧ (sel / 64 = 0 → fld c.a0 8 6 < 48 ∧ s.corePresent core = true)
     c.op = 7 → (¬ (here ∧ pmSelOk sel = true ∧ pmSource (sel / 64) c.a1 = true) → CtlDone .pmcfg s w s1 4) ∧
      (here → pmSelOk sel = true → pmSource (sel / 64) c.a1 = true → (s.die die).phase = .run → ∃ b, CtlDone .pmcfg s w b 1 ∧ b.groups = s.groups ∧ b.dram = s1.dram ∧
        (sel / 64 = 0 → nth (b.core core).ctrs (sel % 8) = ⟨0, c.a1⟩ ∧ ∀ k < 8, k ≠ sel % 8 → nth (b.core core).ctrs k = nth (s1.core core).ctrs k) ∧
        (sel / 64 = 1 → nth (b.quad quad).ctrs (sel % 8) = ⟨0, c.a1⟩ ∧ ∀ k < 8, k ≠ sel % 8 → nth (b.quad quad).ctrs k = nth (s1.quad quad).ctrs k) ∧
        (sel / 64 = 2 → nth (b.die die).ctrs (sel % 16) = ⟨0, c.a1⟩ ∧ ∀ k < 16, k ≠ sel % 16 → nth (b.die die).ctrs k = nth (s1.die die).ctrs k))) ∧
    (let v := c.a1 + 2 ^ 64 * c.a2
     let clean := s1.windowsClean c.ctx (nth (s1.ctxD c.ctx).ncw c.a0).toNat
     c.op = 8 → c.a0 ≤ 15 → ncwBad v = false → (∀ k ∈ s.grids, k.ctx = c.ctx → k.next = 0 ∧ k.tasks = []) →
      (clean = false → ∃ u, exec .ncwset s = .next u ∧ u.md.held = [w] ∧ (u.ctxD c.ctx).ncw = (s1.ctxD c.ctx).ncw) ∧
      (clean = true → ∃ b, CtlDone .ncwset s w b 1 ∧ nth (b.ctxD c.ctx).ncw c.a0 = .ofNat 128 v ∧
        (∀ g ∈ s.groups, (∀ e ∈ g.obq, e.stage ≠ .filling) → g ∈ b.groups) ∧
        (∀ k < 192, ∀ l ∈ (b.core k).l1, ncwLine c.ctx (nth (s1.ctxD c.ctx).ncw c.a0).toNat l = false) ∧
        ∀ n < 16, n ≠ c.a0 → nth (b.ctxD c.ctx).ncw n = nth (s1.ctxD c.ctx).ncw n))

end Sys2Proof.Machine

/-- 14 R312, R316, R317, R321, R322, R335 to R338, 15 R353: the head of the control queue is performed and answered, with 0x04 where a field
is reserved, no context is named or no record is meant; RESOLVE, TRAPACT, SHOOT, MOVE, EVICT, FILL, PMCFG and NCWSET have their effects, NCWSET once the old
range's dirty bytes are home; what trapped a group meanwhile follows as its trap is over.
Model's choices: log 50 to 53, 105 and 109. -/
def Obligations.ControllerPerformsCommands : Prop :=
  CommandsAnswered ∧ TrapActions ∧ ShootSteps ∧ TierCommands ∧ CountersAndWindows
namespace Sys2Proof.Machine

/-! ### The module -/

/-- A warm reset: the mark and the vector, the teams asked to yield, the drained die reset, its re-admission (15 R349 to R351). -/
def WarmResets : Prop :=
  (∀ (s : State) (die : Nat) (byDriver : Bool), die < 4 → (byDriver = true → s.md.recovery = false) →
    (s.diePresent die = true → (s.die die).phase = .run →
      ∃ u, exec (.warmReset die byDriver) s = .next u ∧ (u.die die).phase = .draining ∧ fld u.md.modstat.toNat (2 * die) 2 = 2 ∧
        nth u.md.msix 5 = nth s.md.msix 5 + 1 ∧
        (∀ t s1, s.teams.filter (fun t => t.core / 48 == die && t.left != 0 && !t.saved) = [t] → s.team? t.id = some t →
          ((s.modDie die fun d => { d with phase := .draining }).setStat die 2).reserveTeam t = some s1 →
          ∀ g ∈ u.groups, g.team = t.id → g.res = .resident → g.preempt.isSome = true) ∧
        ∀ v : W64, byDriver = true → fld v.toNat 0 4 = 2 ^ die → exec (.registerWrite 0x078 v) s = .next u) ∧
    ((s.die die).phase = .draining → s.drained die = true →
      ∃ u, exec (.warmReset die byDriver) s = .next u ∧ (u.die die).phase = .flush ∧ u.dram = s.dram ∧
        ∀ k < 192, k / 48 ≠ die → ∀ l ∈ (u.core k).l1, l.addr % 128 = 0 →
          homeDie l.addr ≠ die ∨ (l.dirty ≠ [] ∧ u.writeBlocked (k / 48) die = true)) ∧
    ((s.die die).phase = .flush → s.portsBusy die = true →
      ∃ u, exec (.warmReset die byDriver) s = .next u ∧ (u.die die).phase = .flush ∧ u.dram = s.dram) ∧
    ((s.die die).phase = .flush → s.heldElsewhere die = false → s.portsBusy die = false → s.flushStopped die = false → Memory.wf s.dram = true →
      ∃ u, exec (.warmReset die byDriver) s = .next u ∧ (u.die die).phase = .reset ∧ (u.die die).cycle = 0 ∧ (u.die die).walker = [] ∧
        (∀ q < 4, (u.quad (4 * die + q)).tiles = [] ∧ (u.quad (4 * die + q)).front = 0) ∧
        (∀ k < 48, (u.core (48 * die + k)).l1 = [] ∧ (u.core (48 * die + k)).tlb = [] ∧ (u.core (48 * die + k)).icache = [] ∧
          (u.core (48 * die + k)).resv = []) ∧
        (∀ e < 12, u.eng (12 * die + e) = Engine.reset) ∧
        ∀ q < 4, ∀ t ∈ (s.quad (4 * die + q)).tiles, t.copy = false → ∀ a ∈ t.dirty,
          (∀ q' < 4, ∀ t' ∈ (s.quad (4 * die + q')).tiles, t'.copy = false → a ∈ t'.dirty → t' = t) → memRead u.dram a = t.byte a) ∧
    ((s.die die).phase = .reset → exec (.warmReset die byDriver) s = .next s)) ∧
  ∀ (s : State) (die : Nat), die < 4 → (s.die die).phase = .reset → fld s.md.modstat.toNat (2 * die) 2 = 2 →
    (∃ u, exec (.warmResetReadmit die false) s = .next u ∧ fld u.md.modstat.toNat (2 * die) 2 = 3 ∧ (u.die die).phase = .reset ∧
      nth u.md.msix 5 = nth s.md.msix 5 + 1) ∧
    (s.net = [] → (∀ d < 4, (∀ k < 4, nth (s.die d).applyq k = []) ∧ (s.die d).snoop = []) → (∀ q < 16, (s.quad q).accs = [] ∧ (s.quad q).pulls = []) →
      ∃ u, exec (.warmResetReadmit die true) s = .next u ∧ fld u.md.modstat.toNat (2 * die) 2 = 0 ∧ (u.die die).phase = .run ∧
        nth u.md.msix 5 = nth s.md.msix 5 + 1 ∧ (u.die die).drops = [0, 0, 0, 0, 0] ∧
        ∀ x < 5, ∀ h < 4,
          let m := (((List.range 4).filter (· != die)).map fun o => depAt (s.die o).dep x h).foldl max 0
          depAt (u.die die).dep x h = if h = die then max m (depAt (s.die die).dep x die + ((s.die die).drops[x]?).getD 0) else m)

/-- Registers of the module as written and read (15 R343); while a context is enabled a guarded one keeps its value or takes the new one. -/
def RegisterWrites : Prop :=
  ∀ (s : State) (off : Nat) (v : W64), s.md.recovery = false →
    let guarded := fun (r : Module → W64) => ∃ u, exec (.registerWrite off v) s = .next u ∧ u.dram = s.dram ∧ u.groups = s.groups ∧
      (s.anyEnabled = false → r u.md = v) ∧ (r u.md = v ∨ r u.md = r s.md)
    (off = 0x080 → guarded (·.ctxbase)) ∧ (off = 0x090 → guarded (·.ctlq)) ∧ (off = 0x098 → guarded (·.notq)) ∧
    (off = 0x0A0 → guarded (·.errq)) ∧
    (off = 0x088 → exec (.registerWrite off v) s = .next { s with md := { s.md with ctxcnt := v } }) ∧
    (off = 0x0A8 → exec (.registerWrite off v) s = .next { s with md := { s.md with acthr := v &&& 0xFFFF } }) ∧
    (off = 0x078 → fld v.toNat 0 4 = 0 → exec (.registerWrite off v) s = .next s) ∧
    (off ∉ [0x078, 0x080, 0x088, 0x090, 0x098, 0x0A0, 0x0A8] → exec (.registerWrite off v) s = .next s) ∧
    (∀ d < 4, s.registerRead (0x0B0 + 8 * d) = .ofNat 64 (s.die d).cycle) ∧ (0x0D8 ≤ off → s.registerRead off = 0)

/-- Records of the module's queues (14 R333, 15 R346): notices of 16 bytes, error records of 32. -/
def SystemRecords : Prop :=
  (∀ (s s1 s2 : State) (notice : Bool) (i : Nat) (r : SysRec),
    s.md.recs[i]? = some r → r.notice = notice → (∀ j < i, ∀ x, s.md.recs[j]? = some x → x.notice ≠ notice) →
    let base := (if notice then s.md.notq else s.md.errq).toNat
    let n := if notice then 16 else 32
    let wr := s.homeRead base 8
    let z := 2 ^ Config.sysQueueSize notice
    let pa := base + 64 + n * (wr % z)
    populated base = true → populated pa = true → tierOf base ≠ .lp → tierOf pa ≠ .lp → (wr + 2 ^ 64 - s.homeRead (base + 8) 8) % 2 ^ 64 < z →
    s.directWrite 6000 0 pa n (ofWords r.words) = some s1 → s1.directWrite 6000 0 base 8 ((wr + 1) % 2 ^ 64) = some s2 →
    ∃ u, exec (if notice then .noticeRecordWrite else .errorRecordWrite) s = .next u ∧ u.md.recs = s.md.recs.eraseIdx i ∧
      nth u.md.msix (if notice then 3 else 4) = nth s.md.msix (if notice then 3 else 4) + 1 ∧
      (base % 64 = 0 → Memory.wf s.dram = true → (∀ a x, s.homeTile? a = some x → x.bytes.length = 1024) →
        ofWords r.words < 2 ^ (8 * n) →
        u.homeRead pa n = ofWords r.words ∧ u.homeRead base 8 = (wr + 1) % 2 ^ 64)) ∧
  ∀ (s : State) (die region n : Nat) (host : Bool), die < 4 →
    let cs := fun (d : Die) => if host then d.accDev else d.accHost
    let thr := fld s.md.acthr.toNat 0 16
    (cs (s.die die)).find? (·.1 == region) = some (region, n) → thr ≠ 0 → thr ≤ n →
    ∃ u, exec (.accessNotice die host region) s = .next u ∧ (cs (u.die die)).find? (·.1 == region) = some (region, 0) ∧ u.dram = s.dram ∧
      ∃ r, u.md.recs = s.md.recs ++ [r] ∧ r.notice = true ∧ NumIs 128 (ofWords r.words) 0 [(0, 1, host.toNat), (16, 16, thr), (64, 64, region % 2 ^ 64)]

/-- Routes, directories, throttling, links, corrected errors (14 R334, 15 R347, R348, R352, R353). -/
def ModuleEvents : Prop :=
  ∀ (s : State) (die : Nat), die < 4 →
    (die < 2 → (s.die die).viaOld ≠ ((s.die die).phase == .run) → s.net = [] → s.replies = [] →
      ∃ u, exec (.routeSwitch die) s = .next u ∧ (u.die die).viaOld = ((s.die die).phase == .run) ∧ u.dram = s.dram ∧ u.groups = s.groups) ∧
    (∀ tile col lead n, (s.die die).dirs.find? (·.1 == tile) = some (tile, col, lead, n) → 16 ≤ n → col ≠ lead →
      ∃ u, exec (.drift die tile) s = .next u ∧ (u.die die).dirs.find? (·.1 == tile) = some (tile, lead, lead, 0) ∧ u.dram = s.dram ∧
        u.quads = s.quads) ∧
    (∀ on, ∃ u, exec (.throttle die on) s = .next u ∧ (u.die die).throttled = on ∧ u.dram = s.dram ∧ u.groups = s.groups) ∧
    (∀ link up, link < 16 → s.md.cappeer.getLsbD link = true → (nth s.md.links link).up = up → exec (.peerLinkState link up) s = .next s) ∧
    (∀ link up, link < 16 → s.md.cappeer.getLsbD link = true → (nth s.md.links link).up ≠ up →
      ∃ u, exec (.peerLinkState link up) s = .next u ∧ (nth u.md.links link).up = up ∧ u.md.cappeer.getLsbD (16 + link) = up ∧
        (∀ b < 64, b ≠ 16 + link → u.md.cappeer.getLsbD b = s.md.cappeer.getLsbD b) ∧ nth u.md.msix 6 = nth s.md.msix 6 + 1) ∧
    ∃ u, exec (.softErrorCorrected die) s = .next u ∧ u.dram = s.dram ∧ ∀ k < 16, let c := nth (s.die die).ctrs k
      nth (u.die die).ctrs k = if c.src = 0x21 then { c with val := c.val + 1 } else c

/-- Uncorrectable errors, by what they strike: an entry of a queue, a write, a job's or a request's source, the next row of an RLD or WAITEV's
word, a backing area (14 R340). -/
def MemoryErrors : Prop :=
  (∀ (s : State) (gid i : Nat) (g : Group) (x : Entry), s.grp? gid = some g → g.obq[i]? = some x → x.kind.isRead = true →
    x.kind.unreached = false → x.stage ≠ .done → x.stage ≠ .applied → g.res = .resident → g.trap = none → g.later = [] →
    ∃ u g' t, exec (.memerr (.entry gid i)) s = .next u ∧ u.grp? gid = some g' ∧ g'.trap = some t ∧ t.cause = Cause.memerr ∧ t.pc = x.pc ∧
      t.lanes = x.mask ∧ t.va = x.va ∧ g'.vregs = g.vregs ∧ g'.sregs = g.sregs ∧ u.dram = s.dram ∧
      ∀ l < 128, let back := (if x.lane < 128 ∧ x.whole = false then decide (l = x.lane) else x.mask.getLsbD l) && !(nth g.lanes l).isExited
        nth g'.pcv l = (if back then x.pc else nth g.pcv l) ∧ g'.donem.getLsbD l = (g.donem.getLsbD l && !back)) ∧
  (∀ (s : State) (i : Nat) (r : Req), s.net[i]? = some r → r.write = true → (r.kind = .store ∨ r.kind = .sc) →
    ∃ u e, exec (.memerr (.store i)) s = .next u ∧ u.net = s.net.set i (if r.kind = .sc then { r with n := 0, cells := [] } else { r with kind := .load, cells := [] }) ∧ u.md.recs = s.md.recs ++ [e] ∧
      e.notice = false ∧ e.words[2]? = some (s.writerGrid r).1 ∧ e.words[3]? = some (.ofNat 64 r.pa) ∧ u.dram = s.dram) ∧
  (∀ (s : State) (die i : Nat) (r : Req), die < 4 → (s.die die).extq[i]? = some r → r.kind ≠ .sc →
    ∃ u e, exec (.memerr (.outside die i)) s = .next u ∧ (u.die die).extq = (s.die die).extq.set i { r with kind := .load, cells := [] } ∧
      u.md.recs = s.md.recs ++ [e] ∧ e.notice = false ∧ e.words[3]? = some (.ofNat 64 r.pa) ∧ u.dram = s.dram) ∧
  (∀ (s : State) (sc grid : Nat) (r : RowOp) (more : List (Nat × RowOp)), sc < 256 → (s.stk sc).left = (grid, r) :: more →
    ∃ u e, exec (.memerr (.row sc)) s = .next u ∧ (u.stk sc).left = (r.after.map fun r => (grid, r)).toList ++ more ∧
      u.md.recs = s.md.recs ++ [e] ∧ e.notice = false ∧ e.words[3]? = some (.ofNat 64 ((r.pas.head?).getD 0)) ∧ u.dram = s.dram) ∧
  (∀ (s : State) (cpe i va : Nat) (j : Job), cpe < 32 → (s.cpe cpe).jobs[i]? = some j → s.job? cpe j.uid = some j → j.status = 0 →
    s.jobReady j = true → .ofNat 64 va ∈ j.sources →
    ∃ u j', exec (.memerr (.job cpe i va)) s = .next u ∧ u.job? cpe j.uid = some j' ∧ j'.status = 3 ∧ j'.fcode = 3 ∧ j'.ffa = .ofNat 64 va ∧
      u.dram = s.dram) ∧
  (∀ (s : State) (e i va k : Nat) (r : MReq), e < 48 → (s.eng e).table[i]? = some r → r.eng = e → r.done = false → r.status = 0 → r.data = none →
    (r.started = true ∨ (s.accept r).isSome = true) → r.source[k]? = some (.ofNat 64 va) → (r.got[k]?).bind id = none →
    ∃ u, exec (.memerr (.request e i va)) s = .next u ∧ (r.hdl = 0 → u.dram = s.dram) ∧
      ∀ x ∈ (u.eng e).table, x.uid = r.uid → x.done = true ∧ x.status = 3 ∧ x.fcode = 3 ∧ x.ffa = .ofNat 64 va) ∧
  (∀ (s : State) (e i k va pa cls : Nat) (r : MReq), e < 48 → (s.eng e).table[i]? = some r → r.done = false →
    r.own = [(k, .ofNat 64 va, .mem pa cls)] →
    ∃ u x, exec (.memerr (.piece e i va)) s = .next u ∧ u.md.recs = s.md.recs ++ [x] ∧ x.notice = false ∧ x.words[2]? = some r.grid ∧
      x.words[3]? = some (.ofNat 64 pa) ∧ NumIs 64 ((x.words[0]?).getD 0).toNat 0 [(0, 34, 2), (34, 2, e / 12), (36, 12, 3), (48, 16, r.ctx % 2 ^ 16)] ∧
      u.dram = s.dram ∧ ∃ y ∈ (u.eng e).table, y.uid = r.uid ∧ y.own = [(k, .ofNat 64 va, .nowhere)]) ∧
  (∀ (s : State) (sc lane : Nat) (t : Task), sc < 256 → s.task? sc = some t → t.fin = none →
    (∀ r rest, t.rowops = r :: rest → r.kind = 0 → r.pas ≠ [] →
      TTraps (.memerr (.task sc lane)) s sc { t with pc := r.pc } Cause.memerr 0xFF r.va) ∧
    (∀ h a b cond pa, t.rowops = [] → t.wait = .no → s.fetchStack sc t = .ok (.waitev h a b cond) →
      s.homeTgt sc (s.taskCtx t) 0 (t.xr a) = .ok pa → TTraps (.memerr (.task sc lane)) s sc t Cause.memerr 0xFF (t.xr a))) ∧
  ∀ (s : State) (gid : Nat) (g : Group), s.grp? gid = some g → g.res = .resident → g.hidden = true → g.trap = none →
    ∃ u g' t, exec (.memerr (.backing gid)) s = .next u ∧ u.grp? gid = some g' ∧ g'.trap = some t ∧ t.cause = Cause.memerr ∧ t.lanes = 0 ∧
      g'.sregs = g.sregs ∧ g'.preds = g.preds ∧ g'.hnds = g.hnds ∧ u.dram = s.dram

/-- Firmware and measurement (15 R355, R356). -/
def FirmwareAndReports : Prop :=
  (∀ (s : State) (stage x : Nat), stage < 3 →
    ∃ u, exec (.externalWrite (.image stage x)) s = .next u ∧ u.dram = s.dram ∧ u.md.images = s.md.images ∧ nth u.md.loaded stage = some x ∧
      ∀ k < 3, k ≠ stage → nth u.md.loaded k = nth s.md.loaded k) ∧
  (∀ (s : State) (ctl disp ldr : Option Nat),
    let given (k : Nat) : Option Nat := (if k = 0 then ctl else if k = 1 then disp else ldr).or (nth s.md.loaded k)
    let image (k : Nat) : Nat := (given k).getD (nth s.md.images k)
    let good (k : Nat) : Prop := Config.imageVerifies (image k) = true ∧ s.md.minVer ≤ Config.imageVersion (image k)
    let step (m k : Nat) : Nat := Config.sha256 (m + 2 ^ 256 * Config.sha256 (image k)) % 2 ^ 256
    ∃ u, exec (.coldReset ctl disp ldr) s = .next u ∧ u.dram = s.dram ∧ u.groups = [] ∧ u.teams = [] ∧ u.grids = [] ∧
      (∀ d < 4, (u.die d).cycle = 0) ∧ (∀ k < 3, nth u.md.images k = image k ∧ nth u.md.loaded k = none) ∧
      (good 0 ∧ good 1 ∧ good 2 → u.md.recovery = false ∧ (nth u.md.meas 0).toNat = step (step (step 0 0) 1) 2 ∧ s.md.minVer ≤ u.md.minVer ∧
        (∀ k < 3, ∀ x, given k = some x → Config.imageVersion x ≤ u.md.minVer) ∧
        (u.md.minVer = s.md.minVer ∨ ∃ k < 3, ∃ x, given k = some x ∧ u.md.minVer = Config.imageVersion x)) ∧
      (¬ (good 0 ∧ good 1 ∧ good 2) → u.md.recovery = true ∧ u.md.minVer = s.md.minVer) ∧
      (¬ good 0 → nth u.md.meas 0 = 0) ∧ (good 0 → ¬ good 1 → (nth u.md.meas 0).toNat = step 0 0)) ∧
  (∀ (s : State) (off : Nat) (v : W64), s.md.recovery = true → exec (.registerWrite off v) s = .next s) ∧
  ∀ (s : State) (nonce : Nat), let d := Config.sha256 ((s.md.meas.toList.foldr (fun x acc => x.toNat + 2 ^ 256 * acc) 0) + 2 ^ 2048 * nonce)
    exec (.spdmRequest nonce) s = .next { s with md := { s.md with report := some (d, Config.reportSignature d) } }

end Sys2Proof.Machine

/-- 14 R333, R334, R340, 15 R343, R346 to R353, R355, R356: warm resets and re-admission, register writes, records of the module's queues,
routes, directories, links and throttling, uncorrectable errors, firmware and measurement.
CYC0 to CYC3 read as CYCLE, and offsets from 0x0D8 on as 0. Model's choices: record counts and the place of the notice and error queues (log 2), what a warm reset keeps (log 37), lanes set
back and void requests at an uncorrectable line (log 38), the values of lost data (log 39), a guarded register (log 70), recovery (log 71),
memory after a cold reset (log 72), the measured register (log 73), the report (log 74), a group's later traps (log 105), the order and number
of the boot stages (log 108), queues in the LPDDR-6 tier (log 109). -/
def Obligations.ModuleBehaves : Prop :=
  WarmResets ∧ RegisterWrites ∧ SystemRecords ∧ ModuleEvents ∧ MemoryErrors ∧ FirmwareAndReports
/-- 02 R24 to R27, R46, 13 R287, R289: words written out from the encoding tables decode to the instructions they stand for, core and stack
instructions of one opcode apart. -/
def Obligations.EncodedWordsDecode : Prop :=
  decodeCore 0x0004000030202532 = .ok (.icmp ⟨.l128, 3, false, false, false, 0⟩ ⟨false, 0, .n32⟩ ⟨2, .vec 3 ⟨.id, 0⟩, .imm 0, .none, 0⟩) ∧
  decodeCore 0xFFFFFFC00000000000030221 = .ok (.bra ⟨.l96, 2, false, false, false, 3⟩ 0xFFFFFFC0) ∧
  decodeCore 0x0000000061400500 = .ok (.callx ⟨.l64, 0, false, false, false, 0⟩ 20 (.vec 6 ⟨.id, 0⟩) 0) ∧
  decodeCore 0x000C0000A0009400 = .ok (.lkacq ⟨.l64, 0, false, false, false, 0⟩ 10 3) ∧
  (∃ h o, decodeCore 0x00010003300000000000005020B202 = .ok (.mma h o)) ∧
  decodeStack 0x0006038020401000 = .ok (.sAdd ⟨.l64, 0, false, false, false, 0⟩ ⟨false, 0, .n32⟩ ⟨4, .vec 2 ⟨.id, 0⟩, .sca 7, .none, 0⟩) ∧
  decodeStack 0x0300028040003000 = .ok (.rld ⟨.l64, 0, false, false, false, 0⟩ 4 5 3)

/-- 02 R24 to R33, R46: the decoder gives back every well-formed core instruction from its own bits, whatever its operands. -/
def Obligations.CoreEncodingRoundTrip : Prop := ∀ i : Instr, i.WfCore → decodeCore (encode i) = .ok i ∧ encode i < 2 ^ (8 * i.size)

/-- 13 R287 to R290: the stack decoder gives back every well-formed stack-core instruction from its own bits. -/
def Obligations.StackEncodingRoundTrip : Prop := ∀ i : Instr, i.WfStack → decodeStack (encode i) = .ok i ∧ encode i < 2 ^ (8 * i.size)

/-- 02 R46, 13 R289: what a decoder accepts is well formed in its own set and has, up to its length, no other bits than its encoding; the
length code 3 is refused. -/
def Obligations.DecodedInstructionsAreWellFormed : Prop :=
  ∀ (w : Nat) (i : Instr),
    (decodeCore w = .ok i → i.WfCore ∧ encode i = w % 2 ^ (8 * i.size) ∧ Sys2Proof.sizeOf w = some i.size) ∧
    (decodeStack w = .ok i → i.WfStack ∧ encode i = w % 2 ^ (8 * i.size) ∧ Sys2Proof.sizeOf w = some i.size) ∧
    (w % 4 = 3 → decodeCore w = .error .badLen ∧ decodeStack w = .error .badLen)

/-- 02 R24 to R26, R40, 03 R61, 13 R287, log 1: a step of the schedule is an event, a cycle of a die or, with nothing scheduled, of all, or the execution of the instruction that the bytes
at the issue address of the group chosen, or at the task's PC, decode to; one that is held back leaves the groups as they were.
Model's choice: the schedule (log 1). -/
def Obligations.StepRunsDecodedInstruction : Prop :=
  ∀ (s : State) (rest : List Turn), let s0 := { s with sched := rest, cur := .none }
    (∀ i, s.sched = .event i :: rest → step s = exec i s0) ∧
    (∀ d, s.sched = .tick d :: rest → step s = .next (s0.tick d)) ∧
    (s.sched = [] → ∃ t, step s = .next t ∧ (∀ d < 4, (t.die d).cycle = (s.die d).cycle + 1) ∧
      ((∀ q < 16, (s.quad q).promos = [] ∧ (s.quad q).accs = [] ∧ (s.quad q).pulls = []) → (∀ g ∈ s.groups, g.preempt = none) →
        (∀ sc < 256, ∀ x, s.task? sc = some x → x.preempt = none) → t.dram = s.dram)) ∧
    (∀ c k g gs a m blk i, s.sched = .issue c k :: rest → c < 192 → k < 4 →
      let p := s0.prepared c k
      let now := (p.die (c / 48)).cycle
      let x := a.toNat
      let w := bytesNat (blk.drop (x % 32))
      let u := p.issuing c k g i
      (nth (p.core c).slots k).last ≤ now → p.order c k = g :: gs → g.rotate.issueAddr = some a →
      x % 4 = 0 → x % 32 ≠ 28 → p.grpGrid? g = some m → x < m.csize →
      ((g.iblk.find? (·.1 == x / 32)).map (·.2)).or (p.codeBlock g.core m.ctx (m.code + x / 32 * 32)) = some blk →
      x % 32 + i.size ≤ 32 → Sys2Proof.sizeOf w = some i.size → decodeCore (w % 2 ^ (8 * i.size)) = .ok i →
      u.cur = .group g.id ∧ u.teams = p.teams ∧ u.dram = p.dram ∧ u.quads = p.quads ∧ u.sched = rest ∧
        (g.rot.isSome = g.rotate.rot.isSome → p.grp? g.id = some g → u.grp? g.id = some { g.rotate with room := 0 }) ∧
        (∀ n, n ≠ g.id → u.grp? n = p.grp? n) ∧
        (∀ t, exec i u = .next t → t.tookCycle g.id now = true → p.shortage t c = 0 → step s = .next t) ∧
        (∀ t, exec i u = .next t → t.tookCycle g.id now = false → gs = [] → ∃ v, step s = .next v ∧ v.groups = p.groups ∧ v.teams = p.teams ∧
          v.dram = p.dram ∧ v.quads = p.quads) ∧
        (∀ f, exec i u = .fault f → step s = .fault f) ∧ (∀ f, exec i u = .refused f → step s = .refused f)) ∧
    (∀ sc t k i, s.sched = .stack sc :: rest → sc < 256 → s.task? sc = some t → t.wait = .no → t.fin = none → t.nextIssue ≤ s.stackNow sc →
      s.dieDown (dieOfStack sc) = false → s.late sc t = false → s.fetchHeld t = false → (t.preempt = none ∨ (hdrOf i).sp = false) → s.grid? t.grid = some k →
      let x := t.pc.toNat
      let va := k.code + x / 32 * 32
      x % 4 = 0 → x % 32 ≠ 28 → x < k.csize →
      (∀ b z e, s0.permit (s0.lookup none (dieOfStack sc) k.ctx va s0.free) va 0 = .ok b z e → pteX e = true →
        let w := s.homeRead (pteFrame e + (va - b) + x % 32) (32 - x % 32)
        x % 32 + i.size ≤ 32 → Sys2Proof.sizeOf w = some i.size → decodeStack (w % 2 ^ (8 * i.size)) = .ok i →
        ∃ u, step s = exec i u ∧ u.cur = .task sc ∧ u.task? sc = some t ∧ u.dram = s.dram ∧ u.quads = s.quads ∧ u.grids = s.grids))

/-- 02 R41, 05 R100, 07 R150, 10 R220, 11 R236, 14 R314, R338, 15 R343, R353, R354: what reset leaves where the manual says so, and the
invariant of memory. Model's choices: that the module does not start in recovery (log 12), and that MODSTAT shows a full part with all dies running
(log 10). -/
def Obligations.ResetValues : Prop :=
  (∀ d < 4, (State.reset.die d).cycle = 0) ∧ (∀ q < 16, (State.reset.quad q).tiles = [] ∧ (State.reset.quad q).front = 0) ∧
  (∀ c < 192, ∀ k < 8, nth (State.reset.core c).ctrs k = ⟨0, 0⟩) ∧ (∀ q < 16, ∀ k < 8, nth (State.reset.quad q).ctrs k = ⟨0, 0⟩) ∧
  (∀ d < 4, ∀ k < 16, nth (State.reset.die d).ctrs k = ⟨0, 0⟩) ∧
  (∀ e < 48, (State.reset.eng e).lease = none ∧ (State.reset.eng e).chain = 1 ∧ (∀ k < 4, nth (State.reset.eng e).tiles k = []) ∧
    ∀ k < 8, (nth (State.reset.eng e).sets k).fmt = 15) ∧
  State.reset.groups = [] ∧ State.reset.teams = [] ∧ State.reset.grids = [] ∧ State.reset.net = [] ∧
  State.reset.md.modstat = 0 ∧ State.reset.md.recovery = false ∧ (∀ k < 8, nth State.reset.md.meas k = 0) ∧
  (∀ c k, k < 16 → (State.reset.ctxD c).allocN = 0 ∧ (State.reset.ctxD c).faultSeq = 1 ∧ (State.reset.ctxD c).trapSeq = 1 ∧
    nth (State.reset.ctxD c).ncw k = 0) ∧
  State.reset.memOk = true

/-- 06 R124, R131, 13 R283: every step keeps each memory of the machine in its canonical form, so that equal memories are equal data.
The form is the model's own representation of bytes. -/
def Obligations.StepsKeepMemoryForm : Prop :=
  ∀ (s t : State), s.memOk = true → step s = .next t → t.memOk = true
end

