-- ==== Sys2Proof/Laws/State.lean ====
section
/-! SUPPORT. State.lean: what each update of the state leaves as it was, field by field, and what reading back gives. -/

namespace Sys2Proof.Machine

open Sys2Proof

variable (s : State)


@[simp] theorem State.setGrp_sched (g : Group) : (s.setGrp g).sched = s.sched := rfl
@[simp] theorem State.setGrp_cur (g : Group) : (s.setGrp g).cur = s.cur := rfl
@[simp] theorem State.setGrp_free (g : Group) : (s.setGrp g).free = s.free := rfl
@[simp] theorem State.setGrp_nextId (g : Group) : (s.setGrp g).nextId = s.nextId := rfl
@[simp] theorem State.setGrp_dram (g : Group) : (s.setGrp g).dram = s.dram := rfl
@[simp] theorem State.setGrp_dies (g : Group) : (s.setGrp g).dies = s.dies := rfl
@[simp] theorem State.setGrp_quads (g : Group) : (s.setGrp g).quads = s.quads := rfl
@[simp] theorem State.setGrp_cores (g : Group) : (s.setGrp g).cores = s.cores := rfl
@[simp] theorem State.setGrp_engines (g : Group) : (s.setGrp g).engines = s.engines := rfl
@[simp] theorem State.setGrp_copyEngs (g : Group) : (s.setGrp g).copyEngs = s.copyEngs := rfl
@[simp] theorem State.setGrp_stackCores (g : Group) : (s.setGrp g).stackCores = s.stackCores := rfl
@[simp] theorem State.setGrp_chans (g : Group) : (s.setGrp g).chans = s.chans := rfl
@[simp] theorem State.setGrp_teams (g : Group) : (s.setGrp g).teams = s.teams := rfl
@[simp] theorem State.setGrp_grids (g : Group) : (s.setGrp g).grids = s.grids := rfl
@[simp] theorem State.setGrp_ctxs (g : Group) : (s.setGrp g).ctxs = s.ctxs := rfl
@[simp] theorem State.setGrp_net (g : Group) : (s.setGrp g).net = s.net := rfl
@[simp] theorem State.setGrp_replies (g : Group) : (s.setGrp g).replies = s.replies := rfl
@[simp] theorem State.setGrp_saved (g : Group) : (s.setGrp g).saved = s.saved := rfl
@[simp] theorem State.setGrp_md (g : Group) : (s.setGrp g).md = s.md := rfl

@[simp] theorem State.setTeam_sched (t : Team) : (s.setTeam t).sched = s.sched := rfl
@[simp] theorem State.setTeam_cur (t : Team) : (s.setTeam t).cur = s.cur := rfl
@[simp] theorem State.setTeam_free (t : Team) : (s.setTeam t).free = s.free := rfl
@[simp] theorem State.setTeam_nextId (t : Team) : (s.setTeam t).nextId = s.nextId := rfl
@[simp] theorem State.setTeam_dram (t : Team) : (s.setTeam t).dram = s.dram := rfl
@[simp] theorem State.setTeam_dies (t : Team) : (s.setTeam t).dies = s.dies := rfl
@[simp] theorem State.setTeam_quads (t : Team) : (s.setTeam t).quads = s.quads := rfl
@[simp] theorem State.setTeam_cores (t : Team) : (s.setTeam t).cores = s.cores := rfl
@[simp] theorem State.setTeam_engines (t : Team) : (s.setTeam t).engines = s.engines := rfl
@[simp] theorem State.setTeam_copyEngs (t : Team) : (s.setTeam t).copyEngs = s.copyEngs := rfl
@[simp] theorem State.setTeam_stackCores (t : Team) : (s.setTeam t).stackCores = s.stackCores := rfl
@[simp] theorem State.setTeam_chans (t : Team) : (s.setTeam t).chans = s.chans := rfl
@[simp] theorem State.setTeam_groups (t : Team) : (s.setTeam t).groups = s.groups := rfl
@[simp] theorem State.setTeam_grids (t : Team) : (s.setTeam t).grids = s.grids := rfl
@[simp] theorem State.setTeam_ctxs (t : Team) : (s.setTeam t).ctxs = s.ctxs := rfl
@[simp] theorem State.setTeam_net (t : Team) : (s.setTeam t).net = s.net := rfl
@[simp] theorem State.setTeam_replies (t : Team) : (s.setTeam t).replies = s.replies := rfl
@[simp] theorem State.setTeam_saved (t : Team) : (s.setTeam t).saved = s.saved := rfl
@[simp] theorem State.setTeam_md (t : Team) : (s.setTeam t).md = s.md := rfl

@[simp] theorem State.setGrid_sched (k : Grid) : (s.setGrid k).sched = s.sched := rfl
@[simp] theorem State.setGrid_cur (k : Grid) : (s.setGrid k).cur = s.cur := rfl
@[simp] theorem State.setGrid_free (k : Grid) : (s.setGrid k).free = s.free := rfl
@[simp] theorem State.setGrid_nextId (k : Grid) : (s.setGrid k).nextId = s.nextId := rfl
@[simp] theorem State.setGrid_dram (k : Grid) : (s.setGrid k).dram = s.dram := rfl
@[simp] theorem State.setGrid_dies (k : Grid) : (s.setGrid k).dies = s.dies := rfl
@[simp] theorem State.setGrid_quads (k : Grid) : (s.setGrid k).quads = s.quads := rfl
@[simp] theorem State.setGrid_cores (k : Grid) : (s.setGrid k).cores = s.cores := rfl
@[simp] theorem State.setGrid_engines (k : Grid) : (s.setGrid k).engines = s.engines := rfl
@[simp] theorem State.setGrid_copyEngs (k : Grid) : (s.setGrid k).copyEngs = s.copyEngs := rfl
@[simp] theorem State.setGrid_stackCores (k : Grid) : (s.setGrid k).stackCores = s.stackCores := rfl
@[simp] theorem State.setGrid_chans (k : Grid) : (s.setGrid k).chans = s.chans := rfl
@[simp] theorem State.setGrid_teams (k : Grid) : (s.setGrid k).teams = s.teams := rfl
@[simp] theorem State.setGrid_groups (k : Grid) : (s.setGrid k).groups = s.groups := rfl
@[simp] theorem State.setGrid_ctxs (k : Grid) : (s.setGrid k).ctxs = s.ctxs := rfl
@[simp] theorem State.setGrid_net (k : Grid) : (s.setGrid k).net = s.net := rfl
@[simp] theorem State.setGrid_replies (k : Grid) : (s.setGrid k).replies = s.replies := rfl
@[simp] theorem State.setGrid_saved (k : Grid) : (s.setGrid k).saved = s.saved := rfl
@[simp] theorem State.setGrid_md (k : Grid) : (s.setGrid k).md = s.md := rfl

@[simp] theorem State.setCtx_sched (c : Ctx) : (s.setCtx c).sched = s.sched := rfl
@[simp] theorem State.setCtx_cur (c : Ctx) : (s.setCtx c).cur = s.cur := rfl
@[simp] theorem State.setCtx_free (c : Ctx) : (s.setCtx c).free = s.free := rfl
@[simp] theorem State.setCtx_nextId (c : Ctx) : (s.setCtx c).nextId = s.nextId := rfl
@[simp] theorem State.setCtx_dram (c : Ctx) : (s.setCtx c).dram = s.dram := rfl
@[simp] theorem State.setCtx_dies (c : Ctx) : (s.setCtx c).dies = s.dies := rfl
@[simp] theorem State.setCtx_quads (c : Ctx) : (s.setCtx c).quads = s.quads := rfl
@[simp] theorem State.setCtx_cores (c : Ctx) : (s.setCtx c).cores = s.cores := rfl
@[simp] theorem State.setCtx_engines (c : Ctx) : (s.setCtx c).engines = s.engines := rfl
@[simp] theorem State.setCtx_copyEngs (c : Ctx) : (s.setCtx c).copyEngs = s.copyEngs := rfl
@[simp] theorem State.setCtx_stackCores (c : Ctx) : (s.setCtx c).stackCores = s.stackCores := rfl
@[simp] theorem State.setCtx_chans (c : Ctx) : (s.setCtx c).chans = s.chans := rfl
@[simp] theorem State.setCtx_teams (c : Ctx) : (s.setCtx c).teams = s.teams := rfl
@[simp] theorem State.setCtx_groups (c : Ctx) : (s.setCtx c).groups = s.groups := rfl
@[simp] theorem State.setCtx_grids (c : Ctx) : (s.setCtx c).grids = s.grids := rfl
@[simp] theorem State.setCtx_net (c : Ctx) : (s.setCtx c).net = s.net := rfl
@[simp] theorem State.setCtx_replies (c : Ctx) : (s.setCtx c).replies = s.replies := rfl
@[simp] theorem State.setCtx_saved (c : Ctx) : (s.setCtx c).saved = s.saved := rfl
@[simp] theorem State.setCtx_md (c : Ctx) : (s.setCtx c).md = s.md := rfl

@[simp] theorem State.setCore_sched (c : Nat) (x : Core) : (s.setCore c x).sched = s.sched := rfl
@[simp] theorem State.setCore_cur (c : Nat) (x : Core) : (s.setCore c x).cur = s.cur := rfl
@[simp] theorem State.setCore_free (c : Nat) (x : Core) : (s.setCore c x).free = s.free := rfl
@[simp] theorem State.setCore_nextId (c : Nat) (x : Core) : (s.setCore c x).nextId = s.nextId := rfl
@[simp] theorem State.setCore_dram (c : Nat) (x : Core) : (s.setCore c x).dram = s.dram := rfl
@[simp] theorem State.setCore_dies (c : Nat) (x : Core) : (s.setCore c x).dies = s.dies := rfl
@[simp] theorem State.setCore_quads (c : Nat) (x : Core) : (s.setCore c x).quads = s.quads := rfl
@[simp] theorem State.setCore_engines (c : Nat) (x : Core) : (s.setCore c x).engines = s.engines := rfl
@[simp] theorem State.setCore_copyEngs (c : Nat) (x : Core) : (s.setCore c x).copyEngs = s.copyEngs := rfl
@[simp] theorem State.setCore_stackCores (c : Nat) (x : Core) : (s.setCore c x).stackCores = s.stackCores := rfl
@[simp] theorem State.setCore_chans (c : Nat) (x : Core) : (s.setCore c x).chans = s.chans := rfl
@[simp] theorem State.setCore_teams (c : Nat) (x : Core) : (s.setCore c x).teams = s.teams := rfl
@[simp] theorem State.setCore_groups (c : Nat) (x : Core) : (s.setCore c x).groups = s.groups := rfl
@[simp] theorem State.setCore_grids (c : Nat) (x : Core) : (s.setCore c x).grids = s.grids := rfl
@[simp] theorem State.setCore_ctxs (c : Nat) (x : Core) : (s.setCore c x).ctxs = s.ctxs := rfl
@[simp] theorem State.setCore_net (c : Nat) (x : Core) : (s.setCore c x).net = s.net := rfl
@[simp] theorem State.setCore_replies (c : Nat) (x : Core) : (s.setCore c x).replies = s.replies := rfl
@[simp] theorem State.setCore_saved (c : Nat) (x : Core) : (s.setCore c x).saved = s.saved := rfl
@[simp] theorem State.setCore_md (c : Nat) (x : Core) : (s.setCore c x).md = s.md := rfl

@[simp] theorem State.setDie_sched (d : Nat) (x : Die) : (s.setDie d x).sched = s.sched := rfl
@[simp] theorem State.setDie_cur (d : Nat) (x : Die) : (s.setDie d x).cur = s.cur := rfl
@[simp] theorem State.setDie_free (d : Nat) (x : Die) : (s.setDie d x).free = s.free := rfl
@[simp] theorem State.setDie_nextId (d : Nat) (x : Die) : (s.setDie d x).nextId = s.nextId := rfl
@[simp] theorem State.setDie_dram (d : Nat) (x : Die) : (s.setDie d x).dram = s.dram := rfl
@[simp] theorem State.setDie_quads (d : Nat) (x : Die) : (s.setDie d x).quads = s.quads := rfl
@[simp] theorem State.setDie_cores (d : Nat) (x : Die) : (s.setDie d x).cores = s.cores := rfl
@[simp] theorem State.setDie_engines (d : Nat) (x : Die) : (s.setDie d x).engines = s.engines := rfl
@[simp] theorem State.setDie_copyEngs (d : Nat) (x : Die) : (s.setDie d x).copyEngs = s.copyEngs := rfl
@[simp] theorem State.setDie_stackCores (d : Nat) (x : Die) : (s.setDie d x).stackCores = s.stackCores := rfl
@[simp] theorem State.setDie_chans (d : Nat) (x : Die) : (s.setDie d x).chans = s.chans := rfl
@[simp] theorem State.setDie_teams (d : Nat) (x : Die) : (s.setDie d x).teams = s.teams := rfl
@[simp] theorem State.setDie_groups (d : Nat) (x : Die) : (s.setDie d x).groups = s.groups := rfl
@[simp] theorem State.setDie_grids (d : Nat) (x : Die) : (s.setDie d x).grids = s.grids := rfl
@[simp] theorem State.setDie_ctxs (d : Nat) (x : Die) : (s.setDie d x).ctxs = s.ctxs := rfl
@[simp] theorem State.setDie_net (d : Nat) (x : Die) : (s.setDie d x).net = s.net := rfl
@[simp] theorem State.setDie_replies (d : Nat) (x : Die) : (s.setDie d x).replies = s.replies := rfl
@[simp] theorem State.setDie_saved (d : Nat) (x : Die) : (s.setDie d x).saved = s.saved := rfl
@[simp] theorem State.setDie_md (d : Nat) (x : Die) : (s.setDie d x).md = s.md := rfl

@[simp] theorem State.setQuad_sched (q : Nat) (x : Quad) : (s.setQuad q x).sched = s.sched := rfl
@[simp] theorem State.setQuad_cur (q : Nat) (x : Quad) : (s.setQuad q x).cur = s.cur := rfl
@[simp] theorem State.setQuad_free (q : Nat) (x : Quad) : (s.setQuad q x).free = s.free := rfl
@[simp] theorem State.setQuad_nextId (q : Nat) (x : Quad) : (s.setQuad q x).nextId = s.nextId := rfl
@[simp] theorem State.setQuad_dram (q : Nat) (x : Quad) : (s.setQuad q x).dram = s.dram := rfl
@[simp] theorem State.setQuad_dies (q : Nat) (x : Quad) : (s.setQuad q x).dies = s.dies := rfl
@[simp] theorem State.setQuad_cores (q : Nat) (x : Quad) : (s.setQuad q x).cores = s.cores := rfl
@[simp] theorem State.setQuad_engines (q : Nat) (x : Quad) : (s.setQuad q x).engines = s.engines := rfl
@[simp] theorem State.setQuad_copyEngs (q : Nat) (x : Quad) : (s.setQuad q x).copyEngs = s.copyEngs := rfl
@[simp] theorem State.setQuad_stackCores (q : Nat) (x : Quad) : (s.setQuad q x).stackCores = s.stackCores := rfl
@[simp] theorem State.setQuad_chans (q : Nat) (x : Quad) : (s.setQuad q x).chans = s.chans := rfl
@[simp] theorem State.setQuad_teams (q : Nat) (x : Quad) : (s.setQuad q x).teams = s.teams := rfl
@[simp] theorem State.setQuad_groups (q : Nat) (x : Quad) : (s.setQuad q x).groups = s.groups := rfl
@[simp] theorem State.setQuad_grids (q : Nat) (x : Quad) : (s.setQuad q x).grids = s.grids := rfl
@[simp] theorem State.setQuad_ctxs (q : Nat) (x : Quad) : (s.setQuad q x).ctxs = s.ctxs := rfl
@[simp] theorem State.setQuad_net (q : Nat) (x : Quad) : (s.setQuad q x).net = s.net := rfl
@[simp] theorem State.setQuad_replies (q : Nat) (x : Quad) : (s.setQuad q x).replies = s.replies := rfl
@[simp] theorem State.setQuad_saved (q : Nat) (x : Quad) : (s.setQuad q x).saved = s.saved := rfl
@[simp] theorem State.setQuad_md (q : Nat) (x : Quad) : (s.setQuad q x).md = s.md := rfl

@[simp] theorem State.setEng_sched (e : Nat) (x : Engine) : (s.setEng e x).sched = s.sched := rfl
@[simp] theorem State.setEng_cur (e : Nat) (x : Engine) : (s.setEng e x).cur = s.cur := rfl
@[simp] theorem State.setEng_free (e : Nat) (x : Engine) : (s.setEng e x).free = s.free := rfl
@[simp] theorem State.setEng_nextId (e : Nat) (x : Engine) : (s.setEng e x).nextId = s.nextId := rfl
@[simp] theorem State.setEng_dram (e : Nat) (x : Engine) : (s.setEng e x).dram = s.dram := rfl
@[simp] theorem State.setEng_dies (e : Nat) (x : Engine) : (s.setEng e x).dies = s.dies := rfl
@[simp] theorem State.setEng_quads (e : Nat) (x : Engine) : (s.setEng e x).quads = s.quads := rfl
@[simp] theorem State.setEng_cores (e : Nat) (x : Engine) : (s.setEng e x).cores = s.cores := rfl
@[simp] theorem State.setEng_copyEngs (e : Nat) (x : Engine) : (s.setEng e x).copyEngs = s.copyEngs := rfl
@[simp] theorem State.setEng_stackCores (e : Nat) (x : Engine) : (s.setEng e x).stackCores = s.stackCores := rfl
@[simp] theorem State.setEng_chans (e : Nat) (x : Engine) : (s.setEng e x).chans = s.chans := rfl
@[simp] theorem State.setEng_teams (e : Nat) (x : Engine) : (s.setEng e x).teams = s.teams := rfl
@[simp] theorem State.setEng_groups (e : Nat) (x : Engine) : (s.setEng e x).groups = s.groups := rfl
@[simp] theorem State.setEng_grids (e : Nat) (x : Engine) : (s.setEng e x).grids = s.grids := rfl
@[simp] theorem State.setEng_ctxs (e : Nat) (x : Engine) : (s.setEng e x).ctxs = s.ctxs := rfl
@[simp] theorem State.setEng_net (e : Nat) (x : Engine) : (s.setEng e x).net = s.net := rfl
@[simp] theorem State.setEng_replies (e : Nat) (x : Engine) : (s.setEng e x).replies = s.replies := rfl
@[simp] theorem State.setEng_saved (e : Nat) (x : Engine) : (s.setEng e x).saved = s.saved := rfl
@[simp] theorem State.setEng_md (e : Nat) (x : Engine) : (s.setEng e x).md = s.md := rfl

@[simp] theorem State.setCpe_sched (e : Nat) (x : CopyEng) : (s.setCpe e x).sched = s.sched := rfl
@[simp] theorem State.setCpe_cur (e : Nat) (x : CopyEng) : (s.setCpe e x).cur = s.cur := rfl
@[simp] theorem State.setCpe_free (e : Nat) (x : CopyEng) : (s.setCpe e x).free = s.free := rfl
@[simp] theorem State.setCpe_nextId (e : Nat) (x : CopyEng) : (s.setCpe e x).nextId = s.nextId := rfl
@[simp] theorem State.setCpe_dram (e : Nat) (x : CopyEng) : (s.setCpe e x).dram = s.dram := rfl
@[simp] theorem State.setCpe_dies (e : Nat) (x : CopyEng) : (s.setCpe e x).dies = s.dies := rfl
@[simp] theorem State.setCpe_quads (e : Nat) (x : CopyEng) : (s.setCpe e x).quads = s.quads := rfl
@[simp] theorem State.setCpe_cores (e : Nat) (x : CopyEng) : (s.setCpe e x).cores = s.cores := rfl
@[simp] theorem State.setCpe_engines (e : Nat) (x : CopyEng) : (s.setCpe e x).engines = s.engines := rfl
@[simp] theorem State.setCpe_stackCores (e : Nat) (x : CopyEng) : (s.setCpe e x).stackCores = s.stackCores := rfl
@[simp] theorem State.setCpe_chans (e : Nat) (x : CopyEng) : (s.setCpe e x).chans = s.chans := rfl
@[simp] theorem State.setCpe_teams (e : Nat) (x : CopyEng) : (s.setCpe e x).teams = s.teams := rfl
@[simp] theorem State.setCpe_groups (e : Nat) (x : CopyEng) : (s.setCpe e x).groups = s.groups := rfl
@[simp] theorem State.setCpe_grids (e : Nat) (x : CopyEng) : (s.setCpe e x).grids = s.grids := rfl
@[simp] theorem State.setCpe_ctxs (e : Nat) (x : CopyEng) : (s.setCpe e x).ctxs = s.ctxs := rfl
@[simp] theorem State.setCpe_net (e : Nat) (x : CopyEng) : (s.setCpe e x).net = s.net := rfl
@[simp] theorem State.setCpe_replies (e : Nat) (x : CopyEng) : (s.setCpe e x).replies = s.replies := rfl
@[simp] theorem State.setCpe_saved (e : Nat) (x : CopyEng) : (s.setCpe e x).saved = s.saved := rfl
@[simp] theorem State.setCpe_md (e : Nat) (x : CopyEng) : (s.setCpe e x).md = s.md := rfl

@[simp] theorem State.setStk_sched (k : Nat) (x : StackCore) : (s.setStk k x).sched = s.sched := rfl
@[simp] theorem State.setStk_cur (k : Nat) (x : StackCore) : (s.setStk k x).cur = s.cur := rfl
@[simp] theorem State.setStk_free (k : Nat) (x : StackCore) : (s.setStk k x).free = s.free := rfl
@[simp] theorem State.setStk_nextId (k : Nat) (x : StackCore) : (s.setStk k x).nextId = s.nextId := rfl
@[simp] theorem State.setStk_dram (k : Nat) (x : StackCore) : (s.setStk k x).dram = s.dram := rfl
@[simp] theorem State.setStk_dies (k : Nat) (x : StackCore) : (s.setStk k x).dies = s.dies := rfl
@[simp] theorem State.setStk_quads (k : Nat) (x : StackCore) : (s.setStk k x).quads = s.quads := rfl
@[simp] theorem State.setStk_cores (k : Nat) (x : StackCore) : (s.setStk k x).cores = s.cores := rfl
@[simp] theorem State.setStk_engines (k : Nat) (x : StackCore) : (s.setStk k x).engines = s.engines := rfl
@[simp] theorem State.setStk_copyEngs (k : Nat) (x : StackCore) : (s.setStk k x).copyEngs = s.copyEngs := rfl
@[simp] theorem State.setStk_chans (k : Nat) (x : StackCore) : (s.setStk k x).chans = s.chans := rfl
@[simp] theorem State.setStk_teams (k : Nat) (x : StackCore) : (s.setStk k x).teams = s.teams := rfl
@[simp] theorem State.setStk_groups (k : Nat) (x : StackCore) : (s.setStk k x).groups = s.groups := rfl
@[simp] theorem State.setStk_grids (k : Nat) (x : StackCore) : (s.setStk k x).grids = s.grids := rfl
@[simp] theorem State.setStk_ctxs (k : Nat) (x : StackCore) : (s.setStk k x).ctxs = s.ctxs := rfl
@[simp] theorem State.setStk_net (k : Nat) (x : StackCore) : (s.setStk k x).net = s.net := rfl
@[simp] theorem State.setStk_replies (k : Nat) (x : StackCore) : (s.setStk k x).replies = s.replies := rfl
@[simp] theorem State.setStk_saved (k : Nat) (x : StackCore) : (s.setStk k x).saved = s.saved := rfl
@[simp] theorem State.setStk_md (k : Nat) (x : StackCore) : (s.setStk k x).md = s.md := rfl

@[simp] theorem State.setChan_sched (k : Nat) (x : Channel) : (s.setChan k x).sched = s.sched := rfl
@[simp] theorem State.setChan_cur (k : Nat) (x : Channel) : (s.setChan k x).cur = s.cur := rfl
@[simp] theorem State.setChan_free (k : Nat) (x : Channel) : (s.setChan k x).free = s.free := rfl
@[simp] theorem State.setChan_nextId (k : Nat) (x : Channel) : (s.setChan k x).nextId = s.nextId := rfl
@[simp] theorem State.setChan_dram (k : Nat) (x : Channel) : (s.setChan k x).dram = s.dram := rfl
@[simp] theorem State.setChan_dies (k : Nat) (x : Channel) : (s.setChan k x).dies = s.dies := rfl
@[simp] theorem State.setChan_quads (k : Nat) (x : Channel) : (s.setChan k x).quads = s.quads := rfl
@[simp] theorem State.setChan_cores (k : Nat) (x : Channel) : (s.setChan k x).cores = s.cores := rfl
@[simp] theorem State.setChan_engines (k : Nat) (x : Channel) : (s.setChan k x).engines = s.engines := rfl
@[simp] theorem State.setChan_copyEngs (k : Nat) (x : Channel) : (s.setChan k x).copyEngs = s.copyEngs := rfl
@[simp] theorem State.setChan_stackCores (k : Nat) (x : Channel) : (s.setChan k x).stackCores = s.stackCores := rfl
@[simp] theorem State.setChan_teams (k : Nat) (x : Channel) : (s.setChan k x).teams = s.teams := rfl
@[simp] theorem State.setChan_groups (k : Nat) (x : Channel) : (s.setChan k x).groups = s.groups := rfl
@[simp] theorem State.setChan_grids (k : Nat) (x : Channel) : (s.setChan k x).grids = s.grids := rfl
@[simp] theorem State.setChan_ctxs (k : Nat) (x : Channel) : (s.setChan k x).ctxs = s.ctxs := rfl
@[simp] theorem State.setChan_net (k : Nat) (x : Channel) : (s.setChan k x).net = s.net := rfl
@[simp] theorem State.setChan_replies (k : Nat) (x : Channel) : (s.setChan k x).replies = s.replies := rfl
@[simp] theorem State.setChan_saved (k : Nat) (x : Channel) : (s.setChan k x).saved = s.saved := rfl
@[simp] theorem State.setChan_md (k : Nat) (x : Channel) : (s.setChan k x).md = s.md := rfl

@[simp] theorem State.bumpCore_sched (c src n : Nat) : (s.bumpCore c src n).sched = s.sched := rfl
@[simp] theorem State.bumpCore_cur (c src n : Nat) : (s.bumpCore c src n).cur = s.cur := rfl
@[simp] theorem State.bumpCore_free (c src n : Nat) : (s.bumpCore c src n).free = s.free := rfl
@[simp] theorem State.bumpCore_nextId (c src n : Nat) : (s.bumpCore c src n).nextId = s.nextId := rfl
@[simp] theorem State.bumpCore_dram (c src n : Nat) : (s.bumpCore c src n).dram = s.dram := rfl
@[simp] theorem State.bumpCore_dies (c src n : Nat) : (s.bumpCore c src n).dies = s.dies := rfl
@[simp] theorem State.bumpCore_quads (c src n : Nat) : (s.bumpCore c src n).quads = s.quads := rfl
@[simp] theorem State.bumpCore_engines (c src n : Nat) : (s.bumpCore c src n).engines = s.engines := rfl
@[simp] theorem State.bumpCore_copyEngs (c src n : Nat) : (s.bumpCore c src n).copyEngs = s.copyEngs := rfl
@[simp] theorem State.bumpCore_stackCores (c src n : Nat) : (s.bumpCore c src n).stackCores = s.stackCores := rfl
@[simp] theorem State.bumpCore_chans (c src n : Nat) : (s.bumpCore c src n).chans = s.chans := rfl
@[simp] theorem State.bumpCore_teams (c src n : Nat) : (s.bumpCore c src n).teams = s.teams := rfl
@[simp] theorem State.bumpCore_groups (c src n : Nat) : (s.bumpCore c src n).groups = s.groups := rfl
@[simp] theorem State.bumpCore_grids (c src n : Nat) : (s.bumpCore c src n).grids = s.grids := rfl
@[simp] theorem State.bumpCore_ctxs (c src n : Nat) : (s.bumpCore c src n).ctxs = s.ctxs := rfl
@[simp] theorem State.bumpCore_net (c src n : Nat) : (s.bumpCore c src n).net = s.net := rfl
@[simp] theorem State.bumpCore_replies (c src n : Nat) : (s.bumpCore c src n).replies = s.replies := rfl
@[simp] theorem State.bumpCore_saved (c src n : Nat) : (s.bumpCore c src n).saved = s.saved := rfl
@[simp] theorem State.bumpCore_md (c src n : Nat) : (s.bumpCore c src n).md = s.md := rfl

@[simp] theorem State.bumpQuad_sched (q src n : Nat) : (s.bumpQuad q src n).sched = s.sched := rfl
@[simp] theorem State.bumpQuad_cur (q src n : Nat) : (s.bumpQuad q src n).cur = s.cur := rfl
@[simp] theorem State.bumpQuad_free (q src n : Nat) : (s.bumpQuad q src n).free = s.free := rfl
@[simp] theorem State.bumpQuad_nextId (q src n : Nat) : (s.bumpQuad q src n).nextId = s.nextId := rfl
@[simp] theorem State.bumpQuad_dram (q src n : Nat) : (s.bumpQuad q src n).dram = s.dram := rfl
@[simp] theorem State.bumpQuad_dies (q src n : Nat) : (s.bumpQuad q src n).dies = s.dies := rfl
@[simp] theorem State.bumpQuad_cores (q src n : Nat) : (s.bumpQuad q src n).cores = s.cores := rfl
@[simp] theorem State.bumpQuad_engines (q src n : Nat) : (s.bumpQuad q src n).engines = s.engines := rfl
@[simp] theorem State.bumpQuad_copyEngs (q src n : Nat) : (s.bumpQuad q src n).copyEngs = s.copyEngs := rfl
@[simp] theorem State.bumpQuad_stackCores (q src n : Nat) : (s.bumpQuad q src n).stackCores = s.stackCores := rfl
@[simp] theorem State.bumpQuad_chans (q src n : Nat) : (s.bumpQuad q src n).chans = s.chans := rfl
@[simp] theorem State.bumpQuad_teams (q src n : Nat) : (s.bumpQuad q src n).teams = s.teams := rfl
@[simp] theorem State.bumpQuad_groups (q src n : Nat) : (s.bumpQuad q src n).groups = s.groups := rfl
@[simp] theorem State.bumpQuad_grids (q src n : Nat) : (s.bumpQuad q src n).grids = s.grids := rfl
@[simp] theorem State.bumpQuad_ctxs (q src n : Nat) : (s.bumpQuad q src n).ctxs = s.ctxs := rfl
@[simp] theorem State.bumpQuad_net (q src n : Nat) : (s.bumpQuad q src n).net = s.net := rfl
@[simp] theorem State.bumpQuad_replies (q src n : Nat) : (s.bumpQuad q src n).replies = s.replies := rfl
@[simp] theorem State.bumpQuad_saved (q src n : Nat) : (s.bumpQuad q src n).saved = s.saved := rfl
@[simp] theorem State.bumpQuad_md (q src n : Nat) : (s.bumpQuad q src n).md = s.md := rfl

@[simp] theorem State.bumpDie_sched (d src n : Nat) : (s.bumpDie d src n).sched = s.sched := rfl
@[simp] theorem State.bumpDie_cur (d src n : Nat) : (s.bumpDie d src n).cur = s.cur := rfl
@[simp] theorem State.bumpDie_free (d src n : Nat) : (s.bumpDie d src n).free = s.free := rfl
@[simp] theorem State.bumpDie_nextId (d src n : Nat) : (s.bumpDie d src n).nextId = s.nextId := rfl
@[simp] theorem State.bumpDie_dram (d src n : Nat) : (s.bumpDie d src n).dram = s.dram := rfl
@[simp] theorem State.bumpDie_quads (d src n : Nat) : (s.bumpDie d src n).quads = s.quads := rfl
@[simp] theorem State.bumpDie_cores (d src n : Nat) : (s.bumpDie d src n).cores = s.cores := rfl
@[simp] theorem State.bumpDie_engines (d src n : Nat) : (s.bumpDie d src n).engines = s.engines := rfl
@[simp] theorem State.bumpDie_copyEngs (d src n : Nat) : (s.bumpDie d src n).copyEngs = s.copyEngs := rfl
@[simp] theorem State.bumpDie_stackCores (d src n : Nat) : (s.bumpDie d src n).stackCores = s.stackCores := rfl
@[simp] theorem State.bumpDie_chans (d src n : Nat) : (s.bumpDie d src n).chans = s.chans := rfl
@[simp] theorem State.bumpDie_teams (d src n : Nat) : (s.bumpDie d src n).teams = s.teams := rfl
@[simp] theorem State.bumpDie_groups (d src n : Nat) : (s.bumpDie d src n).groups = s.groups := rfl
@[simp] theorem State.bumpDie_grids (d src n : Nat) : (s.bumpDie d src n).grids = s.grids := rfl
@[simp] theorem State.bumpDie_ctxs (d src n : Nat) : (s.bumpDie d src n).ctxs = s.ctxs := rfl
@[simp] theorem State.bumpDie_net (d src n : Nat) : (s.bumpDie d src n).net = s.net := rfl
@[simp] theorem State.bumpDie_replies (d src n : Nat) : (s.bumpDie d src n).replies = s.replies := rfl
@[simp] theorem State.bumpDie_saved (d src n : Nat) : (s.bumpDie d src n).saved = s.saved := rfl
@[simp] theorem State.bumpDie_md (d src n : Nat) : (s.bumpDie d src n).md = s.md := rfl

@[simp] theorem State.clearResv_sched (g : Group) : (s.clearResv g).sched = s.sched := rfl
@[simp] theorem State.clearResv_cur (g : Group) : (s.clearResv g).cur = s.cur := rfl
@[simp] theorem State.clearResv_free (g : Group) : (s.clearResv g).free = s.free := rfl
@[simp] theorem State.clearResv_nextId (g : Group) : (s.clearResv g).nextId = s.nextId := rfl
@[simp] theorem State.clearResv_dram (g : Group) : (s.clearResv g).dram = s.dram := rfl
@[simp] theorem State.clearResv_dies (g : Group) : (s.clearResv g).dies = s.dies := rfl
@[simp] theorem State.clearResv_quads (g : Group) : (s.clearResv g).quads = s.quads := rfl
@[simp] theorem State.clearResv_engines (g : Group) : (s.clearResv g).engines = s.engines := rfl
@[simp] theorem State.clearResv_copyEngs (g : Group) : (s.clearResv g).copyEngs = s.copyEngs := rfl
@[simp] theorem State.clearResv_stackCores (g : Group) : (s.clearResv g).stackCores = s.stackCores := rfl
@[simp] theorem State.clearResv_chans (g : Group) : (s.clearResv g).chans = s.chans := rfl
@[simp] theorem State.clearResv_teams (g : Group) : (s.clearResv g).teams = s.teams := rfl
@[simp] theorem State.clearResv_groups (g : Group) : (s.clearResv g).groups = s.groups := rfl
@[simp] theorem State.clearResv_grids (g : Group) : (s.clearResv g).grids = s.grids := rfl
@[simp] theorem State.clearResv_ctxs (g : Group) : (s.clearResv g).ctxs = s.ctxs := rfl
@[simp] theorem State.clearResv_net (g : Group) : (s.clearResv g).net = s.net := rfl
@[simp] theorem State.clearResv_replies (g : Group) : (s.clearResv g).replies = s.replies := rfl
@[simp] theorem State.clearResv_saved (g : Group) : (s.clearResv g).saved = s.saved := rfl
@[simp] theorem State.clearResv_md (g : Group) : (s.clearResv g).md = s.md := rfl

@[simp] theorem State.drew_sched : (s.drew ).sched = s.sched := rfl
@[simp] theorem State.drew_cur : (s.drew ).cur = s.cur := rfl
@[simp] theorem State.drew_nextId : (s.drew ).nextId = s.nextId := rfl
@[simp] theorem State.drew_dram : (s.drew ).dram = s.dram := rfl
@[simp] theorem State.drew_dies : (s.drew ).dies = s.dies := rfl
@[simp] theorem State.drew_quads : (s.drew ).quads = s.quads := rfl
@[simp] theorem State.drew_cores : (s.drew ).cores = s.cores := rfl
@[simp] theorem State.drew_engines : (s.drew ).engines = s.engines := rfl
@[simp] theorem State.drew_copyEngs : (s.drew ).copyEngs = s.copyEngs := rfl
@[simp] theorem State.drew_stackCores : (s.drew ).stackCores = s.stackCores := rfl
@[simp] theorem State.drew_chans : (s.drew ).chans = s.chans := rfl
@[simp] theorem State.drew_teams : (s.drew ).teams = s.teams := rfl
@[simp] theorem State.drew_groups : (s.drew ).groups = s.groups := rfl
@[simp] theorem State.drew_grids : (s.drew ).grids = s.grids := rfl
@[simp] theorem State.drew_ctxs : (s.drew ).ctxs = s.ctxs := rfl
@[simp] theorem State.drew_net : (s.drew ).net = s.net := rfl
@[simp] theorem State.drew_replies : (s.drew ).replies = s.replies := rfl
@[simp] theorem State.drew_saved : (s.drew ).saved = s.saved := rfl
@[simp] theorem State.drew_md : (s.drew ).md = s.md := rfl

@[simp] theorem State.ctlWrite_sched (cs : List Host.Cell) : (s.ctlWrite cs).sched = s.sched := rfl
@[simp] theorem State.ctlWrite_cur (cs : List Host.Cell) : (s.ctlWrite cs).cur = s.cur := rfl
@[simp] theorem State.ctlWrite_free (cs : List Host.Cell) : (s.ctlWrite cs).free = s.free := rfl
@[simp] theorem State.ctlWrite_nextId (cs : List Host.Cell) : (s.ctlWrite cs).nextId = s.nextId := rfl
@[simp] theorem State.ctlWrite_dies (cs : List Host.Cell) : (s.ctlWrite cs).dies = s.dies := rfl
@[simp] theorem State.ctlWrite_quads (cs : List Host.Cell) : (s.ctlWrite cs).quads = s.quads := rfl
@[simp] theorem State.ctlWrite_cores (cs : List Host.Cell) : (s.ctlWrite cs).cores = s.cores := rfl
@[simp] theorem State.ctlWrite_engines (cs : List Host.Cell) : (s.ctlWrite cs).engines = s.engines := rfl
@[simp] theorem State.ctlWrite_copyEngs (cs : List Host.Cell) : (s.ctlWrite cs).copyEngs = s.copyEngs := rfl
@[simp] theorem State.ctlWrite_stackCores (cs : List Host.Cell) : (s.ctlWrite cs).stackCores = s.stackCores := rfl
@[simp] theorem State.ctlWrite_chans (cs : List Host.Cell) : (s.ctlWrite cs).chans = s.chans := rfl
@[simp] theorem State.ctlWrite_teams (cs : List Host.Cell) : (s.ctlWrite cs).teams = s.teams := rfl
@[simp] theorem State.ctlWrite_groups (cs : List Host.Cell) : (s.ctlWrite cs).groups = s.groups := rfl
@[simp] theorem State.ctlWrite_grids (cs : List Host.Cell) : (s.ctlWrite cs).grids = s.grids := rfl
@[simp] theorem State.ctlWrite_ctxs (cs : List Host.Cell) : (s.ctlWrite cs).ctxs = s.ctxs := rfl
@[simp] theorem State.ctlWrite_net (cs : List Host.Cell) : (s.ctlWrite cs).net = s.net := rfl
@[simp] theorem State.ctlWrite_replies (cs : List Host.Cell) : (s.ctlWrite cs).replies = s.replies := rfl
@[simp] theorem State.ctlWrite_saved (cs : List Host.Cell) : (s.ctlWrite cs).saved = s.saved := rfl
@[simp] theorem State.ctlWrite_md (cs : List Host.Cell) : (s.ctlWrite cs).md = s.md := rfl

/-! ### Reading back -/

theorem find?_map_put {α : Type} (k : α → Nat) (x : α) (l : List α) :
    (l.map fun y => if k y = k x then x else y).find? (fun y => k y == k x) = (l.find? fun y => k y == k x).map fun _ => x := by
  induction l with
  | nil => rfl
  | cons y ys ih =>
    by_cases h : k y = k x <;> simp_all

theorem find?_map_other {α : Type} (k : α → Nat) (x : α) (n : Nat) (h : n ≠ k x) (l : List α) :
    (l.map fun y => if k y = k x then x else y).find? (fun y => k y == n) = l.find? fun y => k y == n := by
  induction l with
  | nil => rfl
  | cons y ys ih =>
    by_cases hy : k y = k x
    · simp [hy, h.symm, ih]
    · by_cases h3 : k y = n <;> simp_all

/-- A group that is present reads back as it was set. -/
theorem State.grp?_setGrp_of {g' : Group} {g : Group} {n : Nat} (h : s.grp? n = some g) (e : g'.id = n) : (s.setGrp g').grp? n = some g' := by
  subst e
  simp only [State.grp?, State.setGrp] at *
  rw [find?_map_put Group.id g', h]; rfl

theorem State.grp?_setGrp_other {g' : Group} {n : Nat} (h : n ≠ g'.id) : (s.setGrp g').grp? n = s.grp? n := by
  simp only [State.grp?, State.setGrp]
  exact find?_map_other Group.id g' n h s.groups

theorem State.grp?_id {g : Group} {n : Nat} (h : s.grp? n = some g) : g.id = n := by
  simpa using List.find?_some h

theorem State.team?_setTeam_of {t' t : Team} {n : Nat} (h : s.team? n = some t) (e : t'.id = n) : (s.setTeam t').team? n = some t' := by
  subst e
  simp only [State.team?, State.setTeam] at *
  rw [find?_map_put Team.id t', h]; rfl

theorem State.team?_setTeam_other {t' : Team} {n : Nat} (h : n ≠ t'.id) : (s.setTeam t').team? n = s.team? n := by
  simp only [State.team?, State.setTeam]
  exact find?_map_other Team.id t' n h s.teams

theorem State.team?_id {t : Team} {n : Nat} (h : s.team? n = some t) : t.id = n := by
  simpa using List.find?_some h

theorem nth_put_self {α : Type} {n : Nat} (v : Vector α n) (i : Nat) (x : α) (h : 0 < n) (hi : i < n) : nth (put v i x) i h = x := by
  simp [nth, put, Nat.mod_eq_of_lt hi]

theorem nth_put_other {α : Type} {n : Nat} (v : Vector α n) (i j : Nat) (x : α) (h : 0 < n) (hj : j < n) (hij : i ≠ j) :
    nth (put v i x) j h = nth v j h := by
  simp [nth, put, Nat.mod_eq_of_lt hj, hij]

theorem nth_mkLanes {α : Type} (f : Nat → α) (l : Nat) (h : l < 128) : nth (mkLanes f) l = f l := by
  simp [nth, mkLanes, Nat.mod_eq_of_lt h]

@[simp] theorem State.core_setCore (c : Nat) (x : Core) (h : c < 192) : (s.setCore c x).core c = x := nth_put_self _ _ _ _ h
@[simp] theorem State.die_setDie (d : Nat) (x : Die) (h : d < 4) : (s.setDie d x).die d = x := nth_put_self _ _ _ _ h
@[simp] theorem State.quad_setQuad (q : Nat) (x : Quad) (h : q < 16) : (s.setQuad q x).quad q = x := nth_put_self _ _ _ _ h
@[simp] theorem State.eng_setEng (e : Nat) (x : Engine) (h : e < 48) : (s.setEng e x).eng e = x := nth_put_self _ _ _ _ h
@[simp] theorem State.cpe_setCpe (e : Nat) (x : CopyEng) (h : e < 32) : (s.setCpe e x).cpe e = x := nth_put_self _ _ _ _ h
@[simp] theorem State.stk_setStk (k : Nat) (x : StackCore) (h : k < 256) : (s.setStk k x).stk k = x := nth_put_self _ _ _ _ h
@[simp] theorem State.chan_setChan (k : Nat) (x : Channel) (h : k < 256) : (s.setChan k x).chan k = x := nth_put_self _ _ _ _ h

end Sys2Proof.Machine
end

