-- ==== Sys2Proof/Laws/Issue.lean ====
section
/-! SUPPORT. Issue.lean: what the frame of a core instruction does, once: the group that issues, the results it adds, how its lanes
move, and what stays. -/

namespace Sys2Proof.Machine

open Sys2Proof

/-! ### Cores -/

theorem CoreKept.refl (n : Nat) (x : Core) : CoreKept n x x :=
  ⟨rfl, rfl, rfl, rfl, rfl, rfl, rfl, fun _ h => h, fun _ h _ => h⟩

theorem CoreKept.trans {n : Nat} {x y z : Core} (h : CoreKept n x y) (k : CoreKept n y z) : CoreKept n x z := by
  obtain ⟨a, b, c, d, e, f, m, g, i⟩ := h
  obtain ⟨a', b', c', d', e', f', m', g', i'⟩ := k
  exact ⟨a'.trans a, b'.trans b, c'.trans c, d'.trans d, e'.trans e, f'.trans f, m'.trans m, fun r hr => g r (g' r hr),
    fun r hr hn => i' r (i r hr hn) hn⟩

/-- Replacing a core by one that kept its contents. -/
theorem State.core_setCore_kept (s : State) (n c : Nat) (x : Core) (h : CoreKept n (s.core c) x) :
    CoreKept n (s.core c) ((s.setCore c x).core c) := by
  by_cases hc : c < 192
  · simpa [hc] using h
  · have e : put s.cores c x = s.cores := Vector.setIfInBounds_eq_of_size_le (Nat.le_of_not_lt hc)
    simpa [State.core, State.setCore, e] using CoreKept.refl n _

theorem State.core_setCore_other (s : State) (c d : Nat) (x : Core) (hd : d < 192) (h : d ≠ c) : (s.setCore c x).core d = s.core d :=
  nth_put_other _ _ _ _ _ hd (Ne.symm h)

/-! ### Around -/

theorem Around.refl (n c : Nat) (s : State) : Around n c s s :=
  ⟨rfl, rfl, rfl, rfl, rfl, rfl, rfl, rfl, rfl, rfl, rfl, rfl, rfl, rfl, fun _ _ => rfl, fun _ _ _ => rfl, CoreKept.refl _ _⟩

theorem Around.trans {n c : Nat} {s t u : State} (h : Around n c s t) (k : Around n c t u) : Around n c s u where
  dram := k.dram.trans h.dram
  dies := k.dies.trans h.dies
  quads := k.quads.trans h.quads
  teams := k.teams.trans h.teams
  grids := k.grids.trans h.grids
  ctxs := k.ctxs.trans h.ctxs
  engs := k.engs.trans h.engs
  cpes := k.cpes.trans h.cpes
  stks := k.stks.trans h.stks
  chans := k.chans.trans h.chans
  net := k.net.trans h.net
  reps := k.reps.trans h.reps
  savd := k.savd.trans h.savd
  md := k.md.trans h.md
  grps m hm := (k.grps m hm).trans (h.grps m hm)
  cores d hd hn := (k.cores d hd hn).trans (h.cores d hd hn)
  own := h.own.trans k.own

theorem around_setGrp (s : State) (g : Group) (c : Nat) : Around g.id c s (s.setGrp g) where
  dram := rfl
  dies := rfl
  quads := rfl
  teams := rfl
  grids := rfl
  ctxs := rfl
  engs := rfl
  cpes := rfl
  stks := rfl
  chans := rfl
  net := rfl
  reps := rfl
  savd := rfl
  md := rfl
  grps _ h := State.grp?_setGrp_other s h
  cores _ _ _ := rfl
  own := CoreKept.refl _ _

theorem around_setCore (s : State) (n c : Nat) (x : Core) (h : CoreKept n (s.core c) x) : Around n c s (s.setCore c x) where
  dram := rfl
  dies := rfl
  quads := rfl
  teams := rfl
  grids := rfl
  ctxs := rfl
  engs := rfl
  cpes := rfl
  stks := rfl
  chans := rfl
  net := rfl
  reps := rfl
  savd := rfl
  md := rfl
  grps _ _ := rfl
  cores _ hd hn := State.core_setCore_other s c _ x hd hn
  own := State.core_setCore_kept s n c x h

theorem around_bumpCore (s : State) (n c src k : Nat) : Around n c s (s.bumpCore c src k) :=
  around_setCore s n c _ ⟨rfl, rfl, rfl, rfl, rfl, rfl, rfl, fun _ h => h, fun _ h _ => h⟩

theorem around_clearResv (s : State) (g : Group) : Around g.id g.core s (s.clearResv g) :=
  around_setCore s g.id g.core _ (by
    refine ⟨rfl, rfl, rfl, rfl, rfl, rfl, rfl, fun r hr => (List.mem_filter.1 hr).1, fun r hr hn => ?_⟩
    simpa [List.mem_filter] using ⟨hr, hn⟩)

@[simp] theorem State.grp?_bumpCore (s : State) (c src k n : Nat) : (s.bumpCore c src k).grp? n = s.grp? n := rfl
@[simp] theorem State.grp?_clearResv (s : State) (g : Group) (n : Nat) : (s.clearResv g).grp? n = s.grp? n := rfl
@[simp] theorem State.grp?_drew (s : State) (n : Nat) : s.drew.grp? n = s.grp? n := rfl
@[simp] theorem State.now_drew (s : State) (g : Group) : s.drew.now g = s.now g := rfl

/-! ### The group that issues -/

/-- The executing group: resident, untrapped, with its due results committed. -/
theorem State.curGrp?_some {s : State} {g : Group} (h : s.curGrp? = some g) :
    ∃ x, s.cur = .group x.id ∧ s.grp? x.id = some x ∧ x.res = .resident ∧ x.trap = none ∧ g = x.flush (s.now x) := by
  unfold State.curGrp? at h
  split at h
  · rename_i n hc
    split at h
    · rename_i x hx
      split at h
      · rename_i hr
        have hid := State.grp?_id s hx
        simp only [Bool.and_eq_true, decide_eq_true_eq, Option.isNone_iff_eq_none] at hr
        refine ⟨x, by rw [hid]; exact hc, by rw [hid]; exact hx, hr.1, hr.2, by injection h with h; exact h.symm⟩
      · cases h
    · cases h
  · cases h

theorem Group.commit_id (g : Group) (w : Wr) : (g.commit w).id = g.id ∧ (g.commit w).core = g.core := by
  cases w <;> simp [Group.commit]
  split <;> simp

theorem Group.commitAll_id (ws : List Wr) (g : Group) : (g.commitAll ws).id = g.id ∧ (g.commitAll ws).core = g.core := by
  induction ws generalizing g with
  | nil => exact ⟨rfl, rfl⟩
  | cons w ws ih =>
    have := ih (g.commit w)
    simpa [Group.commitAll, Group.commit_id] using this

theorem foldl_commit_id (ps : List Pend) (g : Group) :
    (ps.foldl (fun g p => g.commitAll p.wrs) g).id = g.id ∧ (ps.foldl (fun g p => g.commitAll p.wrs) g).core = g.core := by
  induction ps generalizing g with
  | nil => exact ⟨rfl, rfl⟩
  | cons p ps ih => simpa [Group.commitAll_id] using ih (g.commitAll p.wrs)

@[simp] theorem Group.flush_id (g : Group) (t : Nat) : (g.flush t).id = g.id := (foldl_commit_id _ g).1
@[simp] theorem Group.flush_core (g : Group) (t : Nat) : (g.flush t).core = g.core := (foldl_commit_id _ g).2

theorem State.grp?_of_cur {s : State} {g : Group} (h : s.curGrp? = some g) : ∃ x, s.grp? g.id = some x := by
  obtain ⟨x, -, hx, -, -, rfl⟩ := State.curGrp?_some h
  exact ⟨x, by simpa using hx⟩

/-! ### Path changes (03 R59) -/

@[simp] theorem Group.dropLr_id (g : Group) : g.dropLr.id = g.id := rfl
theorem Group.onPath_cases (g : Group) (a : W32) : g.onPath a = g ∨ g.onPath a = g.dropLr := by
  unfold Group.onPath; split <;> simp

theorem Group.dropLr_uids (g : Group) : g.dropLr.obq.map (·.uid) = g.obq.map (·.uid) := by
  simp only [Group.dropLr, List.map_map]
  apply List.map_congr_left
  intro e _
  dsimp only [Function.comp]; split <;> rfl

theorem RegsKept.refl (g : Group) : RegsKept g g := ⟨rfl, rfl, rfl, rfl, rfl, rfl, rfl, rfl, rfl, rfl, rfl, rfl, rfl, rfl, rfl⟩
theorem RegsKept.trans {g h k : Group} (x : RegsKept g h) (y : RegsKept h k) : RegsKept g k where
  vregs := y.vregs.trans x.vregs
  sregs := y.sregs.trans x.sregs
  preds := y.preds.trans x.preds
  hnds := y.hnds.trans x.hnds
  fpf := y.fpf.trans x.fpf
  freed := y.freed.trans x.freed
  donem := y.donem.trans x.donem
  spoob := y.spoob.trans x.spoob
  spooba := y.spooba.trans x.spooba
  friv := y.friv.trans x.friv
  sbchk := y.sbchk.trans x.sbchk
  trapc := y.trapc.trans x.trapc
  trap := y.trap.trans x.trap
  uids := y.uids.trans x.uids
  engs := y.engs.trans x.engs

theorem Group.dropLr_kept (g : Group) : RegsKept g g.dropLr :=
  ⟨rfl, rfl, rfl, rfl, rfl, rfl, rfl, rfl, rfl, rfl, rfl, rfl, rfl, g.dropLr_uids, rfl⟩
theorem Group.onPath_kept (g : Group) (a : W32) : RegsKept g (g.onPath a) := by
  rcases g.onPath_cases a with h | h <;> rw [h]
  · exact RegsKept.refl g
  · exact g.dropLr_kept

@[simp] theorem Group.onPath_id (g : Group) (a : W32) : (g.onPath a).id = g.id := by rcases g.onPath_cases a with h | h <;> simp [h]
@[simp] theorem Group.onPath_core (g : Group) (a : W32) : (g.onPath a).core = g.core := by
  rcases g.onPath_cases a with h | h <;> simp [h, Group.dropLr]
@[simp] theorem Group.onPath_pend (g : Group) (a : W32) : (g.onPath a).pend = g.pend := by
  rcases g.onPath_cases a with h | h <;> simp [h, Group.dropLr]
@[simp] theorem Group.onPath_pcv (g : Group) (a : W32) : (g.onPath a).pcv = g.pcv := by
  rcases g.onPath_cases a with h | h <;> simp [h, Group.dropLr]
@[simp] theorem Group.onPath_lanes (g : Group) (a : W32) : (g.onPath a).lanes = g.lanes := by
  rcases g.onPath_cases a with h | h <;> simp [h, Group.dropLr]
@[simp] theorem Group.onPath_vregs (g : Group) (a : W32) : (g.onPath a).vregs = g.vregs := (g.onPath_kept a).vregs
@[simp] theorem Group.onPath_sregs (g : Group) (a : W32) : (g.onPath a).sregs = g.sregs := (g.onPath_kept a).sregs
@[simp] theorem Group.onPath_preds (g : Group) (a : W32) : (g.onPath a).preds = g.preds := (g.onPath_kept a).preds
@[simp] theorem Group.onPath_hnds (g : Group) (a : W32) : (g.onPath a).hnds = g.hnds := (g.onPath_kept a).hnds
@[simp] theorem Group.onPath_freed (g : Group) (a : W32) : (g.onPath a).freed = g.freed := (g.onPath_kept a).freed
@[simp] theorem Group.onPath_fpf (g : Group) (a : W32) : (g.onPath a).fpf = g.fpf := (g.onPath_kept a).fpf
@[simp] theorem Group.onPath_rot (g : Group) (a : W32) : (g.onPath a).rot = g.rot := by
  rcases g.onPath_cases a with h | h <;> simp [h, Group.dropLr]

theorem startOf_grp {s : State} {g : Group} (h : s.curGrp? = some g) (a : W32) : (startOf s g a).grp? g.id = some (g.onPath a) := by
  obtain ⟨x, hx⟩ := State.grp?_of_cur h
  have h1 : (s.setGrp g).grp? g.id = some g := State.grp?_setGrp_of s hx rfl
  have h2 := State.grp?_setGrp_of (s.setGrp g) (g' := g.onPath a) h1 (by simp)
  unfold startOf State.path
  split
  · simpa using h2
  · exact h2

theorem startOf_now (s : State) (g k : Group) (a : W32) : (startOf s g a).now k = s.now k := by
  unfold startOf State.path; split <;> rfl

theorem startOf_around (s : State) (g : Group) (a : W32) : Around g.id g.core s (startOf s g a) := by
  have h1 := around_setGrp s g g.core
  have h2 := around_setGrp (s.setGrp g) (g.onPath a) g.core
  rw [Group.onPath_id] at h2
  have h3 := h1.trans h2
  unfold startOf State.path
  split
  · exact h3.trans (around_clearResv _ g)
  · exact h3

/-- An instruction that issues runs its own meaning (02 R34, R38-R40). -/
theorem withIssue_acts {i : Instr} {s : State} {g : Group} {a : W32} (H : Acts i s g a) (body : Issue → State → Out) :
    withIssue i s body = body (issueOf i g a) (startOf s g a) := by
  obtain ⟨h, hact⟩ := H
  unfold withIssue
  rw [h.cur]
  simp only [h.addr]
  have h1 := h.runs
  have h2 := h.ready
  have h3 := h.index
  have h4 := h.unif
  have h5 := h.stall
  simp only [h1, h2, h3, h4, h5, Bool.false_eq_true, if_false]
  have hn : (decide (g.active i (g.lanesAt a) = 0) && !unpredicated i) = false := by
    rcases hact with hh | hh
    · have : decide (g.active i (g.lanesAt a) = 0) = false := decide_eq_false hh
      rw [this]; rfl
    · simp [hh]
  simp only [hn, Bool.false_eq_true, if_false]
  rfl

/-- With no active lane an instruction only moves its lanes on (02 R34, 03 R53). -/
theorem withIssue_idle {i : Instr} {s : State} {g : Group} {a : W32} (h : Issues i s g a) (ha : actOf i g a = 0)
    (hu : unpredicated i = false) (body : Issue → State → Out) :
    withIssue i s body = .next ((startOf s g a).done (issueOf i g a)) := by
  unfold withIssue
  rw [h.cur]
  simp only [h.addr]
  have h1 := h.runs
  have h2 := h.ready
  have h3 := h.index
  have h4 := h.unif
  have h5 := h.stall
  simp only [h1, h2, h3, h4, h5, Bool.false_eq_true, if_false]
  have hn : (decide (g.active i (g.lanesAt a) = 0) && !unpredicated i) = true := by
    simp only [actOf] at ha; simp [ha, hu]
  simp only [hn, if_true]
  rfl

/-! ### Moving on -/

/-- What the move of the instruction buffer leaves of a group. -/
theorem Group.bufferFrom_kept (g : Group) (a : W32) (t : Nat) :
    RegsKept g (g.bufferFrom a t) ∧ (g.bufferFrom a t).pend = g.pend ∧ (g.bufferFrom a t).id = g.id ∧ (g.bufferFrom a t).core = g.core ∧
    (g.bufferFrom a t).pcv = g.pcv ∧ (g.bufferFrom a t).lanes = g.lanes :=
  ⟨⟨rfl, rfl, rfl, rfl, rfl, rfl, rfl, rfl, rfl, rfl, rfl, rfl, rfl, rfl, rfl⟩, rfl, rfl, rfl, rfl, rfl⟩

/-- `advance` moves the lanes, may end a rotation, and may move the buffer. -/
theorem Group.advance_cases (g : Group) (c : Issue) (t : Nat) (tgt : Nat → Option W32) (w : Nat → Option Wait) (r : Nat) :
    ∃ k, (k = g.moved c t tgt w ∨ k = { g.moved c t tgt w with rot := none, fair := 0, rotReq := false }) ∧
      (g.advance c t tgt w r = k ∨ ∃ b n, g.advance c t tgt w r = k.bufferFrom b n) := by
  unfold Group.advance
  dsimp only
  generalize hk : (g.moved c t tgt w).stopRot _ = k
  refine ⟨k, ?_, ?_⟩
  · rw [← hk, Group.stopRot]
    split
    · exact .inr rfl
    · exact .inl rfl
  · cases k.issueAddr with
    | none => exact .inl rfl
    | some b => exact .inr ⟨_, _, rfl⟩

theorem Group.moved_kept (g : Group) (c : Issue) (t : Nat) (tgt : Nat → Option W32) (w : Nat → Option Wait) :
    RegsKept g (g.moved c t tgt w) ∧ (g.moved c t tgt w).pend = g.pend ∧ (g.moved c t tgt w).id = g.id ∧ (g.moved c t tgt w).core = g.core := by
  unfold Group.moved
  dsimp only
  generalize mkLanes _ = p
  generalize mkLanes _ = l
  exact ⟨⟨rfl, rfl, rfl, rfl, rfl, rfl, rfl, rfl, rfl, rfl, rfl, rfl, rfl, rfl, rfl⟩, rfl, rfl, rfl⟩

/-- What `advance` leaves of a group. -/
theorem Group.advance_kept (g : Group) (c : Issue) (t : Nat) (tgt : Nat → Option W32) (w : Nat → Option Wait) (r : Nat) :
    RegsKept g (g.advance c t tgt w r) ∧ (g.advance c t tgt w r).pend = g.pend ∧ (g.advance c t tgt w r).id = g.id ∧
    (g.advance c t tgt w r).core = g.core := by
  obtain ⟨k, hk, h⟩ := g.advance_cases c t tgt w r
  have e : RegsKept g k ∧ k.pend = g.pend ∧ k.id = g.id ∧ k.core = g.core := by
    have m := g.moved_kept c t tgt w
    generalize g.moved c t tgt w = x at hk m
    rcases hk with rfl | rfl
    · exact m
    · exact ⟨m.1.trans ⟨rfl, rfl, rfl, rfl, rfl, rfl, rfl, rfl, rfl, rfl, rfl, rfl, rfl, rfl, rfl⟩, m.2⟩
  rcases h with h | ⟨b, n, h⟩
  · rw [h]; exact e
  · obtain ⟨b1, b2, b3, b4, -⟩ := k.bufferFrom_kept b n
    rw [h]
    exact ⟨e.1.trans b1, b2.trans e.2.1, b3.trans e.2.2.1, b4.trans e.2.2.2⟩

/-- Where `advance` leaves the lanes. -/
theorem Group.advance_moves (g : Group) (c : Issue) (t : Nat) (tgt : Nat → Option W32) (w : Nat → Option Wait) (r : Nat) :
    (g.advance c t tgt w r).pcv = mkLanes (fun l =>
      if c.lns.getLsbD l then
        (if c.act.getLsbD l then (if (w l).isSome then c.a else (tgt l).getD (nextPc c.a c.size)) else nextPc c.a c.size)
      else nth g.pcv l) ∧
    (g.advance c t tgt w r).lanes = mkLanes (fun l =>
      if c.act.getLsbD l then (match w l with
        | some x => .waiting x
        | none => nth g.lanes l)
      else nth g.lanes l) := by
  obtain ⟨k, hk, h⟩ := g.advance_cases c t tgt w r
  have e : k.pcv = (g.moved c t tgt w).pcv ∧ k.lanes = (g.moved c t tgt w).lanes := by
    rcases hk with rfl | rfl <;> exact ⟨rfl, rfl⟩
  rcases h with h | ⟨b, n, h⟩
  · rw [h]; exact e
  · obtain ⟨-, -, -, -, b5, b6⟩ := k.bufferFrom_kept b n
    rw [h]
    exact ⟨b5.trans e.1, b6.trans e.2⟩

/-- The group after an instruction has moved its lanes. -/
def Group.finished (g : Group) (c : Issue) (t : Nat) (tgt : Nat → Option W32) (w : Nat → Option Wait) (r : Nat) : Group :=
  let g' := g.advance c t tgt w r
  if g.rot.isSome && g'.rot.isNone then g'.dropLr else g'

theorem Group.finished_kept (g : Group) (c : Issue) (t : Nat) (tgt : Nat → Option W32) (w : Nat → Option Wait) (r : Nat) :
    RegsKept g (g.finished c t tgt w r) ∧ (g.finished c t tgt w r).pend = g.pend ∧ (g.finished c t tgt w r).id = g.id ∧
    (g.finished c t tgt w r).pcv = (g.advance c t tgt w r).pcv ∧ (g.finished c t tgt w r).lanes = (g.advance c t tgt w r).lanes := by
  obtain ⟨h1, h2, h3, -⟩ := g.advance_kept c t tgt w r
  unfold Group.finished
  dsimp only
  split
  · exact ⟨h1.trans (Group.dropLr_kept _), h2, h3, rfl, rfl⟩
  · exact ⟨h1, h2, h3, rfl, rfl⟩

theorem State.finish_grp {s : State} {c : Issue} {g : Group} (h : s.grp? c.g.id = some g) (tgt : Nat → Option W32) (w : Nat → Option Wait)
    (r : Nat) : (s.finish c tgt w r).grp? c.g.id = some (g.finished c (s.now g) tgt w r) := by
  have hid : (g.finished c (s.now g) tgt w r).id = c.g.id := by
    rw [(g.finished_kept c (s.now g) tgt w r).2.2.1]; exact State.grp?_id s h
  have key := State.grp?_setGrp_of s (g' := g.finished c (s.now g) tgt w r) h hid
  unfold State.finish
  rw [h]
  unfold Group.finished at key ⊢
  dsimp only at key ⊢
  split <;> split <;> simp_all

theorem State.finish_around {s : State} {c : Issue} {g : Group} (h : s.grp? c.g.id = some g) (tgt : Nat → Option W32)
    (w : Nat → Option Wait) (r : Nat) : Around g.id g.core s (s.finish c tgt w r) := by
  have hid : (g.finished c (s.now g) tgt w r).id = g.id := (g.finished_kept c (s.now g) tgt w r).2.2.1
  have h1 := around_setGrp s (g.finished c (s.now g) tgt w r) g.core
  rw [hid] at h1
  have hc : (g.advance c (s.now g) tgt w r).core = g.core := (g.advance_kept c (s.now g) tgt w r).2.2.2
  have hi : (g.advance c (s.now g) tgt w r).id = g.id := (g.advance_kept c (s.now g) tgt w r).2.2.1
  have h2 := h1.trans (around_bumpCore _ g.id g.core 0x02 1)
  unfold State.finish
  rw [h]
  unfold Group.finished at h2
  dsimp only at h2 ⊢
  generalize hk : g.advance c (s.now g) tgt w r = k at *
  by_cases ho : (g.rot.isSome && k.rot.isNone) = true
  · rw [if_pos ho] at h2 ⊢
    simp only [if_pos ho]
    split
    · have h3 := around_clearResv ((s.setGrp k.dropLr).bumpCore g.core 2 1) k
      rw [hi, hc] at h3
      exact h2.trans h3
    · have h3 := around_clearResv (((s.setGrp k.dropLr).bumpCore g.core 2 1).bumpCore g.core 4 1) k
      rw [hi, hc] at h3
      exact (h2.trans (around_bumpCore _ g.id g.core 0x04 1)).trans h3
  · rw [if_neg ho] at h2 ⊢
    simp only [if_neg ho]
    split
    · exact h2
    · exact h2.trans (around_bumpCore _ g.id g.core 0x04 1)

/-! ### Results -/

theorem State.addPend_grp {s : State} {n : Nat} {g : Group} (h : s.grp? n = some g) (p : Pend) :
    (s.addPend n p).grp? n = some { g with pend := g.pend ++ [p] } := by
  have hid := State.grp?_id s h
  unfold State.addPend
  rw [h]
  exact State.grp?_setGrp_of s h hid

theorem State.addPend_around {s : State} {n : Nat} {g : Group} (h : s.grp? n = some g) (c : Nat) (p : Pend) :
    Around n c s (s.addPend n p) := by
  have hid := State.grp?_id s h
  unfold State.addPend
  rw [h]
  subst hid
  exact around_setGrp s { g with pend := g.pend ++ [p] } c

@[simp] theorem State.addPend_now (s : State) (n : Nat) (p : Pend) (g : Group) : (s.addPend n p).now g = s.now g := by
  unfold State.addPend; split <;> rfl

/-! ### An instruction that only issues one result -/

/-- The group that issued a result and moved on. -/
theorem result_then_done {i : Instr} {s : State} {g : Group} {a : W32} (h : s.curGrp? = some g) (p : Pend) :
    ∃ g', (((startOf s g a).addPend g.id p).done (issueOf i g a)).grp? g.id = some g' ∧ g'.pend = g.pend ++ [p] ∧
      Fell i g g' a ∧ RegsKept g g' ∧ Around g.id g.core s (((startOf s g a).addPend g.id p).done (issueOf i g a)) := by
  have h1 := startOf_grp h a
  have h2 := State.addPend_grp h1 p
  have e : (issueOf i g a).g.id = g.id := Group.onPath_id g a
  have h3 : ((startOf s g a).addPend g.id p).grp? (issueOf i g a).g.id = some { g.onPath a with pend := (g.onPath a).pend ++ [p] } := by
    rw [e]; exact h2
  have h4 := State.finish_grp h3 (fun _ => none) (fun _ => none) 8
  have h5 := State.finish_around h3 (fun _ => none) (fun _ => none) 8
  rw [e] at h4
  refine ⟨_, h4, ?_, ⟨?_, ?_⟩, ?_, ?_⟩
  · rw [(Group.finished_kept _ _ _ _ _ _).2.1]; simp
  · rw [(Group.finished_kept _ _ _ _ _ _).2.2.2.2, (Group.advance_moves _ _ _ _ _ _).2]
    apply Vector.ext
    intro l hl
    simp [mkLanes, nth, Nat.mod_eq_of_lt hl]
  · intro l hl
    rw [(Group.finished_kept _ _ _ _ _ _).2.2.2.1, (Group.advance_moves _ _ _ _ _ _).1, nth_mkLanes _ _ hl]
    simp [issueOf]
  · refine (Group.onPath_kept g a).trans (RegsKept.trans ?_ (Group.finished_kept _ _ _ _ _ _).1)
    exact ⟨rfl, rfl, rfl, rfl, rfl, rfl, rfl, rfl, rfl, rfl, rfl, rfl, rfl, rfl, rfl⟩
  · have h6 := (startOf_around s g a).trans (State.addPend_around h1 g.core p)
    simp only [Group.onPath_core, Group.onPath_id] at h5
    exact h6.trans h5

end Sys2Proof.Machine
end

