-- ==== Sys2Proof/Laws/Memory.lean ====
section
/-! SUPPORT. Memory.lean: byte memories: their canonical form, and what reads give after writes (06 R124, R131, 07 R149). -/

namespace Sys2Proof.Machine

open Sys2Proof

/-! ### Rising addresses -/

theorem cellsRise_iff (m : List Host.Cell) : cellsRise m = true ↔ m.Pairwise fun x y => x.1 < y.1 := by
  induction m with
  | nil => simp [cellsRise]
  | cons x m ih =>
    cases m with
    | nil => simp [cellsRise]
    | cons y m =>
      rw [cellsRise, Bool.and_eq_true, decide_eq_true_iff, ih, List.pairwise_cons (a := x)]
      constructor
      · rintro ⟨h, hm⟩
        refine ⟨fun z hz => ?_, hm⟩
        rcases List.mem_cons.1 hz with rfl | hz
        · exact h
        · exact Nat.lt_trans h ((List.pairwise_cons.1 hm).1 z hz)
      · rintro ⟨h, hm⟩
        exact ⟨h y (List.mem_cons_self), hm⟩

theorem mem_cellPut {m : List Host.Cell} {a : Nat} {b : Byte} {x : Host.Cell} (h : x ∈ cellPut m a b) : x = (a, b) ∨ x ∈ m := by
  induction m with
  | nil => simpa [cellPut] using h
  | cons y m ih =>
    simp only [cellPut] at h
    split at h
    · simpa using h
    · split at h
      · rcases List.mem_cons.1 h with rfl | h
        · exact .inl rfl
        · exact .inr (List.mem_cons_of_mem _ h)
      · rcases List.mem_cons.1 h with rfl | h
        · exact .inr (List.mem_cons_self)
        · exact (ih h).imp_right (List.mem_cons_of_mem _)

theorem mem_cellDel {m : List Host.Cell} {a : Nat} {x : Host.Cell} (h : x ∈ cellDel m a) : x ∈ m := by
  induction m with
  | nil => simp [cellDel] at h
  | cons y m ih =>
    simp only [cellDel] at h
    split at h
    · exact List.mem_cons_of_mem _ h
    · rcases List.mem_cons.1 h with rfl | h
      · exact List.mem_cons_self
      · exact List.mem_cons_of_mem _ (ih h)

theorem rise_cellPut {m : List Host.Cell} (a : Nat) (b : Byte) (h : m.Pairwise fun x y => x.1 < y.1) :
    (cellPut m a b).Pairwise fun x y => x.1 < y.1 := by
  induction m with
  | nil => simp [cellPut]
  | cons y m ih =>
    obtain ⟨hy, hm⟩ := List.pairwise_cons.1 h
    simp only [cellPut]
    split
    · rename_i c
      refine List.pairwise_cons.2 ⟨fun z hz => ?_, h⟩
      rcases List.mem_cons.1 hz with rfl | hz
      · exact c
      · exact Nat.lt_trans c (hy z hz)
    · split
      · rename_i c1 c2
        exact List.pairwise_cons.2 ⟨fun z hz => by have := hy z hz; simp only at this ⊢; omega, hm⟩
      · refine List.pairwise_cons.2 ⟨fun z hz => ?_, ih hm⟩
        rcases mem_cellPut hz with rfl | hz
        · simp only; omega
        · exact hy z hz

theorem rise_cellDel {m : List Host.Cell} (a : Nat) (h : m.Pairwise fun x y => x.1 < y.1) :
    (cellDel m a).Pairwise fun x y => x.1 < y.1 := by
  induction m with
  | nil => simp [cellDel]
  | cons y m ih =>
    obtain ⟨hy, hm⟩ := List.pairwise_cons.1 h
    simp only [cellDel]
    split
    · exact hm
    · exact List.pairwise_cons.2 ⟨fun z hz => hy z (mem_cellDel hz), ih hm⟩

/-! ### The canonical form -/

theorem Memory.wf_iff (m : List Host.Cell) :
    Memory.wf m = true ↔ (m.Pairwise fun x y => x.1 < y.1) ∧ ∀ c ∈ m, c.2 ≠ emptyByte := by
  simp [Memory.wf, cellsRise_iff]

@[simp] theorem Memory.wf_nil : Memory.wf [] = true := rfl

/-- A write keeps the canonical form. -/
theorem wf_memWrite {m : List Host.Cell} (a : Nat) (b : Byte) (h : Memory.wf m = true) : Memory.wf (memWrite m a b) = true := by
  rw [Memory.wf_iff] at h ⊢
  unfold memWrite
  split
  · exact ⟨rise_cellDel a h.1, fun c hc => h.2 c (mem_cellDel hc)⟩
  · rename_i hb
    refine ⟨rise_cellPut a b h.1, fun c hc => ?_⟩
    rcases mem_cellPut hc with rfl | hc
    · exact hb
    · exact h.2 c hc

theorem wf_memWriteAll (cs : List Host.Cell) {m : List Host.Cell} (h : Memory.wf m = true) : Memory.wf (memWriteAll m cs) = true := by
  unfold memWriteAll
  induction cs generalizing m with
  | nil => exact h
  | cons c cs ih => exact ih (wf_memWrite c.1 c.2 h)

theorem wf_filter {m : List Host.Cell} (p : Host.Cell → Bool) (h : Memory.wf m = true) : Memory.wf (m.filter p) = true := by
  rw [Memory.wf_iff] at h ⊢
  exact ⟨h.1.filter _, fun c hc => h.2 c (List.mem_filter.1 hc).1⟩

/-! ### Reads after writes -/

theorem cellGet?_cellPut_self (m : List Host.Cell) (a : Nat) (b : Byte) : cellGet? (cellPut m a b) a = some b := by
  induction m with
  | nil => simp [cellPut, cellGet?]
  | cons y m ih =>
    simp only [cellPut]
    split
    · simp [cellGet?]
    · split
      · simp [cellGet?]
      · rename_i h1 h2
        simp only [cellGet?]
        rw [if_neg (fun e => h2 e.symm), ih]

theorem cellGet?_cellPut_other (m : List Host.Cell) (a x : Nat) (b : Byte) (hx : x ≠ a) : cellGet? (cellPut m a b) x = cellGet? m x := by
  induction m with
  | nil => simp [cellPut, cellGet?, Ne.symm hx]
  | cons y m ih =>
    simp only [cellPut]
    split
    · simp [cellGet?, Ne.symm hx]
    · split
      · rename_i h1 h2
        simp [cellGet?, h2 ▸ Ne.symm hx, Ne.symm hx]
      · simp only [cellGet?, ih]

theorem cellGet?_none {m : List Host.Cell} {a : Nat} (h : ∀ c ∈ m, c.1 ≠ a) : cellGet? m a = none := by
  induction m with
  | nil => rfl
  | cons y m ih =>
    simp only [cellGet?]
    rw [if_neg (h y List.mem_cons_self), ih fun c hc => h c (List.mem_cons_of_mem _ hc)]

theorem cellGet?_cellDel_self {m : List Host.Cell} (a : Nat) (h : m.Pairwise fun x y => x.1 < y.1) : cellGet? (cellDel m a) a = none := by
  induction m with
  | nil => rfl
  | cons y m ih =>
    obtain ⟨hy, hm⟩ := List.pairwise_cons.1 h
    simp only [cellDel]
    split
    · rename_i c
      exact cellGet?_none fun z hz e => by have := hy z hz; omega
    · rename_i c
      simp only [cellGet?]
      rw [if_neg c, ih hm]

theorem cellGet?_cellDel_other (m : List Host.Cell) (a x : Nat) (hx : x ≠ a) : cellGet? (cellDel m a) x = cellGet? m x := by
  induction m with
  | nil => rfl
  | cons y m ih =>
    simp only [cellDel]
    split
    · rename_i c
      simp [cellGet?, c, Ne.symm hx]
    · simp only [cellGet?, ih]

/-- A byte read after a write: the byte written there, else what stood. -/
theorem memRead_memWrite {m : List Host.Cell} (a x : Nat) (b : Byte) (h : Memory.wf m = true) :
    memRead (memWrite m a b) x = if x = a then b else memRead m x := by
  rw [Memory.wf_iff] at h
  unfold memRead memWrite
  by_cases e : x = a
  · subst e
    split
    · rename_i hb
      simp [cellGet?_cellDel_self x h.1, hb]
    · simp [cellGet?_cellPut_self]
  · split
    · rw [cellGet?_cellDel_other m a x e]
    · rw [cellGet?_cellPut_other m a x b e]

/-- A write elsewhere leaves a byte. -/
theorem memRead_memWriteAll_other {m : List Host.Cell} (cs : List Host.Cell) (x : Nat) (h : Memory.wf m = true) (hx : ∀ c ∈ cs, c.1 ≠ x) :
    memRead (memWriteAll m cs) x = memRead m x := by
  unfold memWriteAll
  induction cs generalizing m with
  | nil => rfl
  | cons c cs ih =>
    rw [List.foldl_cons, ih (wf_memWrite c.1 c.2 h) fun z hz => hx z (List.mem_cons_of_mem _ hz), memRead_memWrite _ _ _ h,
      if_neg (Ne.symm (hx c List.mem_cons_self))]

/-- The last of several bytes written at an address stands there. -/
theorem memRead_memWriteAll_last {m : List Host.Cell} (pre post : List Host.Cell) (x : Nat) (b : Byte) (h : Memory.wf m = true)
    (hp : ∀ c ∈ post, c.1 ≠ x) : memRead (memWriteAll m (pre ++ (x, b) :: post)) x = b := by
  have e : memWriteAll m (pre ++ (x, b) :: post) = memWriteAll (memWrite (memWriteAll m pre) x b) post := by
    simp [memWriteAll, List.foldl_append]
  rw [e, memRead_memWriteAll_other post x (wf_memWrite x b (wf_memWriteAll pre h)) hp, memRead_memWrite _ _ _ (wf_memWriteAll pre h),
    if_pos rfl]

theorem mem_leCells {c : Host.Cell} {a n v : Nat} : c ∈ leCells a n v ↔ ∃ i < n, c = (a + i, .ofNat 8 (v / 2 ^ (8 * i))) := by
  simp only [leCells, List.mem_map, List.mem_range]
  exact ⟨fun ⟨i, h, e⟩ => ⟨i, h, e.symm⟩, fun ⟨i, h, e⟩ => ⟨i, h, e.symm⟩⟩

/-- A little-endian number written: each of its bytes, and every other byte as before. -/
theorem memRead_write_le {m : List Host.Cell} (a n v x : Nat) (h : Memory.wf m = true) :
    memRead (memWriteAll m (leCells a n v)) x = if a ≤ x ∧ x < a + n then .ofNat 8 (v / 2 ^ (8 * (x - a))) else memRead m x := by
  induction n with
  | zero =>
    rw [if_neg (by omega)]
    rfl
  | succ n ih =>
    have e : memWriteAll m (leCells a (n + 1) v) = memWrite (memWriteAll m (leCells a n v)) (a + n) (.ofNat 8 (v / 2 ^ (8 * n))) := by
      simp [leCells, List.range_succ, memWriteAll, List.foldl_append]
    rw [e, memRead_memWrite _ _ _ (wf_memWriteAll _ h), ih]
    by_cases c : x = a + n
    · subst c
      rw [if_pos rfl, if_pos (by omega)]
      congr 4
      omega
    · rw [if_neg c]
      by_cases d : a ≤ x ∧ x < a + n
      · rw [if_pos d, if_pos (by omega)]
      · rw [if_neg d, if_neg (by omega)]

theorem leGet_mod (f : Nat → Byte) (v a : Nat) : ∀ n b, (∀ i < n, f (a + b + i) = .ofNat 8 (v / 2 ^ (8 * (b + i)))) →
    leGet f (a + b) n = v / 2 ^ (8 * b) % 2 ^ (8 * n)
  | 0, b, _ => by simp [leGet, Nat.mod_one]
  | n + 1, b, h => by
    have h0 := h 0 (by omega)
    have ih := leGet_mod f v a n (b + 1) fun i hi => by
      have := h (i + 1) (by omega)
      rw [show a + (b + 1) + i = a + b + (i + 1) by omega, show b + 1 + i = b + (i + 1) by omega]
      exact this
    simp only [Nat.add_zero] at h0
    rw [leGet, h0, show a + b + 1 = a + (b + 1) by omega, ih]
    have e1 : 8 * (b + 1) = 8 * b + 8 := by omega
    have e2 : 8 * (n + 1) = 8 + 8 * n := by omega
    rw [e1, e2, Nat.pow_add, ← Nat.div_div_eq_div_mul, Nat.pow_add, Nat.mod_mul, BitVec.toNat_ofNat]

/-- A number of n bytes reads back after it is written. -/
theorem memReadN_write (m : List Host.Cell) (a n v : Nat) (h : Memory.wf m = true) :
    memReadN (memWriteAll m (leCells a n v)) a n = v % 2 ^ (8 * n) := by
  have := leGet_mod (memRead (memWriteAll m (leCells a n v))) v a n 0 fun i hi => by
    rw [memRead_write_le a n v _ h, if_pos (by omega)]
    congr 4
    omega
  simpa [memReadN] using this

/-! ### Operations of the machine -/

theorem wf_ctlWrite {s : State} (cs : List Host.Cell) (h : Memory.wf s.dram = true) : Memory.wf (s.ctlWrite cs).dram = true :=
  wf_memWriteAll cs h

theorem homeWrite_cons (s : State) (c : Host.Cell) (cs : List Host.Cell) : s.homeWrite (c :: cs) = (s.homeWrite [c]).homeWrite cs := rfl

/-- A write at the home points keeps every memory in its canonical form, and windows, groups and grids as they are. -/
theorem homeWrite_keeps (cs : List Host.Cell) (s : State) (h : Memory.wf s.dram = true) :
    Memory.wf (s.homeWrite cs).dram = true ∧ (s.homeWrite cs).teams = s.teams ∧ (s.homeWrite cs).groups = s.groups ∧
      (s.homeWrite cs).grids = s.grids ∧ (s.homeWrite cs).stackCores = s.stackCores := by
  induction cs generalizing s with
  | nil => exact ⟨h, rfl, rfl, rfl, rfl⟩
  | cons c cs ih =>
    rw [homeWrite_cons]
    have one : Memory.wf (s.homeWrite [c]).dram = true ∧ (s.homeWrite [c]).teams = s.teams ∧ (s.homeWrite [c]).groups = s.groups ∧
        (s.homeWrite [c]).grids = s.grids ∧ (s.homeWrite [c]).stackCores = s.stackCores := by
      simp only [State.homeWrite, List.foldl_cons, List.foldl_nil]
      split
      · exact ⟨h, rfl, rfl, rfl, rfl⟩
      · exact ⟨wf_ctlWrite [c] h, rfl, rfl, rfl, rfl⟩
    obtain ⟨a, b, c', d, e⟩ := ih _ one.1
    exact ⟨a, b.trans one.2.1, c'.trans one.2.2.1, d.trans one.2.2.2.1, e.trans one.2.2.2.2⟩

/-- What an agent's access at a home point leaves as it was: all but dies, spirals, cores and memory. -/
def State.SameAside (s t : State) : Prop :=
  t.teams = s.teams ∧ t.groups = s.groups ∧ t.grids = s.grids ∧ t.ctxs = s.ctxs ∧ t.md = s.md ∧ t.net = s.net ∧ t.replies = s.replies ∧
    t.engines = s.engines ∧ t.copyEngs = s.copyEngs ∧ t.stackCores = s.stackCores ∧ t.chans = s.chans ∧ t.saved = s.saved
theorem State.SameAside.trans {s t u : State} (h : s.SameAside t) (k : t.SameAside u) : s.SameAside u := by
  obtain ⟨h1, h2, h3, h4, h5, h6, h7, h8, h9, h10, h11, h12⟩ := h
  obtain ⟨k1, k2, k3, k4, k5, k6, k7, k8, k9, k10, k11, k12⟩ := k
  exact ⟨k1.trans h1, k2.trans h2, k3.trans h3, k4.trans h4, k5.trans h5, k6.trans h6, k7.trans h7, k8.trans h8, k9.trans h9, k10.trans h10, k11.trans h11, k12.trans h12⟩
theorem State.SameAside.refl (s : State) : s.SameAside s := ⟨rfl, rfl, rfl, rfl, rfl, rfl, rfl, rfl, rfl, rfl, rfl, rfl⟩
theorem homeWrite_aside (cs : List Host.Cell) (s : State) : s.SameAside (s.homeWrite cs) := by
  induction cs generalizing s with
  | nil => exact .refl s
  | cons c cs ih =>
    rw [homeWrite_cons]
    refine State.SameAside.trans ?_ (ih _)
    simp only [State.homeWrite, List.foldl_cons, List.foldl_nil]
    split <;> exact .refl _
theorem directTbl_aside (s : State) (d pa : Nat) (write : Bool) : s.SameAside (s.directTbl d pa write) := by
  simp only [State.directTbl]
  split <;> exact .refl _
theorem setDie_aside (s : State) (d : Nat) (x : Die) : s.SameAside (s.setDie d x) := .refl s
theorem directTouch_aside (s : State) (src d pa n : Nat) : s.SameAside (s.directTouch src d pa n) := by
  unfold State.directTouch
  split
  · exact .refl s
  · dsimp only
    refine State.SameAside.trans (t := s.insertIfTouched (homeQuad pa) { blankReq with src, srcDie := d, home := homeDie pa, loc := .mem pa 0, n } pa) ?_ ?_
    · unfold State.insertIfTouched; split <;> exact .refl _
    · unfold State.touch; split <;> exact .refl _
theorem directRead_aside {s t : State} {src d pa n v job : Nat} {quiet : Bool} (h : s.directRead src d pa n job quiet = some (v, t)) :
    s.SameAside t := by
  simp only [State.directRead] at h
  split at h
  · cases h
    refine State.SameAside.trans ?_ (directTbl_aside ..)
    split
    · exact .refl s
    · exact directTouch_aside ..
  · cases h
theorem killResv_aside (s : State) (l : Loc) (n hp cr g lane : Nat) (own : Bool) : s.SameAside (s.killResv l n hp cr g lane own) := by
  simp only [State.SameAside, State.killResv, and_self]
theorem hostGone_aside (s : State) (pa n : Nat) : s.SameAside (s.hostGone pa n) := by
  simp only [State.hostGone]
  split
  · exact .refl s
  · exact setDie_aside ..
theorem directWrite_aside {s t : State} {src d pa n v job : Nat} (h : s.directWrite src d pa n v job = some t) : s.SameAside t := by
  rw [State.directWrite] at h
  split at h
  · cases h
  · have e := ((directTouch_aside s src d pa n).trans (homeWrite_aside (leCells pa n v) _)).trans (directTbl_aside _ d pa true)
    have e2 := (e.trans (hostGone_aside _ pa n)).trans (killResv_aside _ (.mem pa 0) n 0 0 0 128 true)
    rw [Option.some.injEq] at h
    subst h
    exact e2

/-- A write in a window keeps its canonical form and changes nothing else of the team. -/
theorem wf_wr (t : Team) (o n v : Nat) (h : Memory.wf t.win = true) :
    Memory.wf (t.wr o n v).win = true ∧ (t.wr o n v).full = t.full ∧ (t.wr o n v).id = t.id :=
  ⟨wf_memWriteAll _ h, rfl, rfl⟩

theorem rd_wr (t : Team) (o n v : Nat) (h : Memory.wf t.win = true) : (t.wr o n v).rd o n = v % 2 ^ (8 * n) := memReadN_write _ _ _ _ h

/-- Memory at reset is in canonical form. -/
theorem reset_dram_wf : Memory.wf State.reset.dram = true := rfl

end Sys2Proof.Machine
end

