-- ==== Sys2Proof/Laws/Written.lean ====
section
/-! SUPPORT. Written.lean: what the writes of a result leave in the registers, once for every form of destination (02 R31, R35, R36). -/

namespace Sys2Proof.Machine

open Sys2Proof

theorem Group.v_commit_vset_self (g : Group) (d : Nat) (r : VReg) (hd : d < 256) : (g.commit (.vset d r)).v d = r :=
  nth_put_self _ _ _ _ hd
theorem Group.v_commit_vset_other (g : Group) (d k : Nat) (r : VReg) (hk : k < 256) (h : k ≠ d) : (g.commit (.vset d r)).v k = g.v k :=
  nth_put_other _ _ _ _ _ hk (Ne.symm h)
theorem Group.v_commit_vlanes_self (g : Group) (d : Nat) (m : Mask) (v : Lanes W32) (hd : d < 256) :
    (g.commit (.vlanes d m v)).v d = (g.v d).merge m v := nth_put_self _ _ _ _ hd
theorem Group.v_commit_vlanes_other (g : Group) (d k : Nat) (m : Mask) (v : Lanes W32) (hk : k < 256) (h : k ≠ d) :
    (g.commit (.vlanes d m v)).v k = g.v k := nth_put_other _ _ _ _ _ hk (Ne.symm h)

theorem VReg.get_merge (r : VReg) (m : Mask) (v : Lanes W32) (l : Nat) (hl : l < 128) :
    (r.merge m v).get l = if m.getLsbD l then nth v l else r.get l := by
  simp [VReg.merge, VReg.get, nth_mkLanes, hl]

@[simp] theorem VReg.get_uni (u : W32) (l : Nat) : (VReg.uni u).get l = u := rfl

theorem hi_lo (x : W64) : hi32 x ++ lo32 x = x := by
  unfold hi32 lo32
  apply BitVec.eq_of_getLsbD_eq
  intro k hk
  rw [BitVec.getLsbD_append, BitVec.truncate_eq_setWidth, BitVec.truncate_eq_setWidth, BitVec.getLsbD_setWidth, BitVec.getLsbD_setWidth,
    BitVec.getLsbD_ushiftRight]
  by_cases h : k < 32
  · simp [h]
  · have e : 32 + (k - 32) = k := by omega
    have e2 : k - 32 < 32 := by omega
    simp [h, e, e2]

theorem clip_eq (two : Bool) (x : W64) :
    (if two then hi32 x ++ lo32 x else (lo32 x).zeroExtend 64) = clip two x := by
  cases two
  · rfl
  · simp [clip, hi_lo]

/-- Lane k of a mask given by a condition. -/
theorem getLsbD_maskGo (p : Nat → Bool) (n : Nat) (hn : n ≤ 128) (k : Nat) : (maskGo p n).getLsbD k = (decide (k < n) && p k) := by
  induction n with
  | zero => simp [maskGo]
  | succ n ih =>
    rw [maskGo, BitVec.getLsbD_or, ih (by omega)]
    by_cases hk : k = n
    · subst hk
      cases hp : p k
      · simp
      · simp; omega
    · have hz : (if p n = true then BitVec.twoPow 128 n else 0).getLsbD k = false := by
        split
        · rw [BitVec.getLsbD_twoPow]; simp; omega
        · simp
      rw [hz, Bool.or_false]
      have : decide (k < n + 1) = decide (k < n) := by
        by_cases h2 : k < n
        · simp [h2]; omega
        · simp [h2]; omega
      rw [this]

theorem getLsbD_maskOf (p : Nat → Bool) (l : Nat) (hl : l < 128) : (maskOf p).getLsbD l = p l := by
  rw [maskOf, getLsbD_maskGo p 128 (Nat.le_refl _)]
  simp [hl]

/-- Where every lane that has not exited is active, an active lane has its registers and an inactive one has exited. -/
theorem Issue.full_spec {c : Issue} (h : c.full = true) (l : Nat) (hl : l < 128) :
    (c.act.getLsbD l = true → c.g.sliceFreed l = false) ∧ (c.act.getLsbD l = false → (nth c.g.lanes l).isExited = true) := by
  unfold Issue.full at h
  simp only [Bool.and_eq_true, List.all_eq_true, List.mem_range] at h
  refine ⟨fun ha => ?_, fun ha => ?_⟩
  · simpa [ha] using h.2 l hl
  · have e : c.act = c.g.live := by simpa using h.1
    rw [e, Group.live, getLsbD_maskOf _ l hl] at ha
    simpa using ha

/-- A value in one register or a pair reads back in every lane. -/
theorem laneOf_of {g : Group} {two : Bool} {d l : Nat} {x : W64} (h0 : (g.v d).get l = lo32 x)
    (h1 : two = true → (g.v (d + 1)).get l = hi32 x) : laneOf g two d l = clip two x := by
  rw [← clip_eq]
  unfold laneOf
  cases two
  · simp [h0]
  · simp [h0, h1]

theorem Group.v_writeAll_vset (g : Group) (two : Bool) (d : Nat) (a b : VReg) (hd : d < 256) (h1 : two = true → d + 1 < 256) :
    (g.commitAll (.vset d a :: (if two then [.vset (d + 1) b] else []))).v d = a ∧
    (two = true → (g.commitAll (.vset d a :: (if two then [.vset (d + 1) b] else []))).v (d + 1) = b) ∧
    (∀ r < 256, r ≠ d → (two = true → r ≠ d + 1) →
      (g.commitAll (.vset d a :: (if two then [.vset (d + 1) b] else []))).v r = g.v r) := by
  cases two
  · refine ⟨Group.v_commit_vset_self g d a hd, by simp, fun r hr hn _ => Group.v_commit_vset_other g d r a hr hn⟩
  · have hb := h1 rfl
    refine ⟨?_, fun _ => Group.v_commit_vset_self _ _ _ hb, fun r hr hn hm => ?_⟩
    · exact (Group.v_commit_vset_other _ _ _ _ hd (by omega)).trans (Group.v_commit_vset_self g d a hd)
    · exact (Group.v_commit_vset_other _ _ _ _ hr (hm rfl)).trans (Group.v_commit_vset_other g d r a hr hn)

theorem Group.v_writeAll_vlanes (g : Group) (two : Bool) (d : Nat) (m : Mask) (a b : Lanes W32) (hd : d < 256)
    (h1 : two = true → d + 1 < 256) :
    (g.commitAll (.vlanes d m a :: (if two then [.vlanes (d + 1) m b] else []))).v d = (g.v d).merge m a ∧
    (two = true → (g.commitAll (.vlanes d m a :: (if two then [.vlanes (d + 1) m b] else []))).v (d + 1) = (g.v (d + 1)).merge m b) ∧
    (∀ r < 256, r ≠ d → (two = true → r ≠ d + 1) →
      (g.commitAll (.vlanes d m a :: (if two then [.vlanes (d + 1) m b] else []))).v r = g.v r) := by
  cases two
  · refine ⟨Group.v_commit_vlanes_self g d m a hd, by simp, fun r hr hn _ => Group.v_commit_vlanes_other g d r m a hr hn⟩
  · have hb := h1 rfl
    refine ⟨?_, fun _ => ?_, fun r hr hn hm => ?_⟩
    · exact (Group.v_commit_vlanes_other _ _ _ _ _ hd (by omega)).trans (Group.v_commit_vlanes_self g d m a hd)
    · refine (Group.v_commit_vlanes_self _ _ _ _ hb).trans ?_
      rw [Group.v_commit_vlanes_other g d (d + 1) m a hb (by omega)]
    · exact (Group.v_commit_vlanes_other _ _ _ _ _ hr (hm rfl)).trans (Group.v_commit_vlanes_other g d r m a hr hn)

/-- Writes of vector registers leave the other files alone. -/
theorem Group.files_writeAll_vec (g : Group) (ws : List Wr) (h : ∀ w ∈ ws, ∃ d, (∃ r, w = .vset d r) ∨ ∃ m v, w = .vlanes d m v) :
    (g.commitAll ws).sregs = g.sregs ∧ (g.commitAll ws).preds = g.preds ∧ (g.commitAll ws).hnds = g.hnds := by
  induction ws generalizing g with
  | nil => exact ⟨rfl, rfl, rfl⟩
  | cons w ws ih =>
    have hw := h w (List.mem_cons_self ..)
    have hr := ih (g.commit w) fun x hx => h x (List.mem_cons_of_mem _ hx)
    obtain ⟨d, ⟨r, rfl⟩ | ⟨m, v, rfl⟩⟩ := hw <;> exact hr

/-- A result written into a vector register or a pair: lane by lane, by an affine tag that agrees with the lanes, or once where every
active lane has the same value (02 R35, R36). -/
theorem emitVec_written {g : Group} {c : Issue} {two uni : Bool} {d : Nat} {lin : Option VReg} {f : Nat → W64}
    (hlanes : c.g.lanes = g.lanes) (hd : d < 256) (h1 : two = true → d + 1 < 256)
    (hlin : ∀ r, lin = some r → two = false ∧ ∀ l < 128, c.act.getLsbD l = true → c.g.sliceFreed l = false → r.get l = lo32 (f l))
    (huni : uni = true → c.full = true → ∀ l < 128, c.act.getLsbD l = true → clip two (f l) = clip two (f c.l0)) :
    VecWritten g (g.commitAll (emitVec c two d uni lin f)) c.h.u two c.act d f := by
  have hvec : ∀ w ∈ emitVec c two d uni lin f, ∃ d, (∃ r, w = .vset d r) ∨ ∃ m v, w = .vlanes d m v := by
    intro w hw
    unfold emitVec at hw
    dsimp only at hw
    split at hw
    · cases two <;> simp at hw
      · exact ⟨_, .inl ⟨_, hw⟩⟩
      · rcases hw with hw | hw <;> exact ⟨_, .inl ⟨_, hw⟩⟩
    · split at hw
      · cases two <;> simp at hw
        · exact ⟨_, .inr ⟨_, _, hw⟩⟩
        · rcases hw with hw | hw <;> exact ⟨_, .inr ⟨_, _, hw⟩⟩
      · split at hw
        · simp at hw; exact ⟨_, .inl ⟨_, hw⟩⟩
        · split at hw
          · cases two <;> simp at hw
            · exact ⟨_, .inl ⟨_, hw⟩⟩
            · rcases hw with hw | hw <;> exact ⟨_, .inl ⟨_, hw⟩⟩
          · cases two <;> simp at hw
            · exact ⟨_, .inr ⟨_, _, hw⟩⟩
            · rcases hw with hw | hw <;> exact ⟨_, .inr ⟨_, _, hw⟩⟩
  obtain ⟨hs, hp, hh⟩ := Group.files_writeAll_vec g _ hvec
  refine ⟨?_, ?_, hs, hp, hh⟩
  · intro l hl
    have hone : laneOf (g.commitAll (.vset d (.uni (lo32 (f c.l0))) ::
        (if two then [.vset (d + 1) (.uni (hi32 (f c.l0)))] else []))) two d l = clip two (f c.l0) := by
      obtain ⟨e1, e2, -⟩ := Group.v_writeAll_vset g two d (.uni (lo32 (f c.l0))) (.uni (hi32 (f c.l0))) hd h1
      exact laneOf_of (by rw [e1]; rfl) (fun ht => by rw [e2 ht]; rfl)
    unfold emitVec
    dsimp only
    by_cases hu : c.h.u = true
    · rw [if_pos hu, if_pos hu]
      exact hone
    · rw [if_neg hu, if_neg hu]
      have heach : if c.act.getLsbD l then laneOf (g.commitAll (.vlanes d c.act (mkLanes fun l => lo32
            (nth (mkLanes fun l => if c.act.getLsbD l then f l else 0) l)) :: (if two then [.vlanes (d + 1) c.act (mkLanes fun l => hi32
            (nth (mkLanes fun l => if c.act.getLsbD l then f l else 0) l))] else []))) two d l = clip two (f l)
          else laneOf (g.commitAll (.vlanes d c.act (mkLanes fun l => lo32
            (nth (mkLanes fun l => if c.act.getLsbD l then f l else 0) l)) :: (if two then [.vlanes (d + 1) c.act (mkLanes fun l => hi32
            (nth (mkLanes fun l => if c.act.getLsbD l then f l else 0) l))] else []))) two d l = laneOf g two d l := by
        obtain ⟨e1, e2, -⟩ := Group.v_writeAll_vlanes g two d c.act (mkLanes fun l => lo32
            (nth (mkLanes fun l => if c.act.getLsbD l then f l else 0) l)) (mkLanes fun l => hi32
            (nth (mkLanes fun l => if c.act.getLsbD l then f l else 0) l)) hd h1
        split
        · rename_i ha
          refine laneOf_of ?_ fun ht => ?_
          · rw [e1, VReg.get_merge _ _ _ _ hl, if_pos ha, nth_mkLanes _ _ hl, nth_mkLanes _ _ hl, if_pos ha]
          · rw [e2 ht, VReg.get_merge _ _ _ _ hl, if_pos ha, nth_mkLanes _ _ hl, nth_mkLanes _ _ hl, if_pos ha]
        · rename_i ha
          unfold laneOf
          cases two
          · simp only [Bool.false_eq_true, if_false] at e1 ⊢
            rw [e1, VReg.get_merge _ _ _ _ hl, if_neg ha]
          · simp only [if_true] at e1 e2 ⊢
            rw [e1, e2 trivial, VReg.get_merge _ _ _ _ hl, VReg.get_merge _ _ _ _ hl, if_neg ha, if_neg ha]
      by_cases hf : c.full = true
      · obtain ⟨q1, q2⟩ := Issue.full_spec hf l hl
        rw [hlanes] at q2
        have hin : c.act.getLsbD l ≠ true → ∀ P : Prop, (nth g.lanes l).isExited = false → P := by
          intro ha P hx
          rw [q2 (by simpa using ha)] at hx; cases hx
        simp only [hf, Bool.not_true, Bool.false_eq_true, if_false]
        cases hl0 : lin with
        | some r =>
          obtain ⟨ht, hr⟩ := hlin r hl0
          subst ht
          dsimp only
          by_cases ha : c.act.getLsbD l = true
          · rw [if_pos ha]
            exact laneOf_of (by rw [show (g.commitAll [.vset d r]).v d = r from Group.v_commit_vset_self g d r hd]; exact hr l hl ha (q1 ha)) (by simp)
          · rw [if_neg ha]; exact hin ha _
        | none =>
          dsimp only
          by_cases hun : uni = true
          · rw [if_pos hun]
            by_cases ha : c.act.getLsbD l = true
            · rw [if_pos ha, hone, huni hun hf l hl ha]
            · rw [if_neg ha]; exact hin ha _
          · rw [if_neg hun]
            by_cases ha : c.act.getLsbD l = true
            · rw [if_pos ha] at heach ⊢; exact heach
            · rw [if_neg ha] at heach ⊢; exact fun _ => heach
      · simp only [hf, Bool.not_false, if_true]
        by_cases ha : c.act.getLsbD l = true
        · rw [if_pos ha] at heach ⊢; exact heach
        · rw [if_neg ha] at heach ⊢; exact fun _ => heach
  · intro r hr hn hm
    unfold emitVec
    dsimp only
    split
    · exact (Group.v_writeAll_vset g two d _ _ hd h1).2.2 r hr hn hm
    · split
      · exact (Group.v_writeAll_vlanes g two d _ _ _ hd h1).2.2 r hr hn hm
      · split
        · exact Group.v_commit_vset_other g d r _ hr hn
        · split
          · exact (Group.v_writeAll_vset g two d _ _ hd h1).2.2 r hr hn hm
          · exact (Group.v_writeAll_vlanes g two d _ _ _ hd h1).2.2 r hr hn hm

end Sys2Proof.Machine
end

