-- ==== Sys2Proof/Tests/Slice0.lean ====
section
/-! SUPPORT. Slice0.lean: the tests of the model: words from the encoding tables and what they decode to, ill-formed terms that the check
refuses, and for each statement states and operands that meet its hypotheses. -/

open Sys2Proof Sys2Proof.Machine
namespace Sys2Proof.Tests
set_option maxRecDepth 100000
set_option Elab.async false
set_option linter.unusedSimpArgs false

/-! ### Words and their instructions -/

/-- NOP.sp.d5. -/
theorem test_decodes_nop : decodeCore 0x158 = .ok (.nop ⟨.l64, 5, true, false, false, 0⟩) := by rfl
/-- ?p3 BRA.d2. -/
theorem test_decodes_bra : decodeCore 0xFFFFFFC00000000000030221 = .ok (.bra ⟨.l96, 2, false, false, false, 3⟩ 0xFFFFFFC0) := by rfl
/-- CALLX v20. -/
theorem test_decodes_callx : decodeCore 0x61400500 = .ok (.callx ⟨.l64, 0, false, false, false, 0⟩ 20 (.vec 6 ⟨.id, 0⟩) 0) := by rfl
/-- ICMP.eq.n32.d3 p2,v3,#0. -/
theorem test_decodes_icmp : decodeCore 0x4000030202532 = .ok (.icmp ⟨.l128, 3, false, false, false, 0⟩ ⟨false, 0, .n32⟩ ⟨2, .vec 3 ⟨.id, 0⟩, .imm 0x0, .none, 0⟩) := by rfl
/-- FFMA.f32.d5 v8,v1,v2,v3. -/
theorem test_decodes_ffma : decodeCore 0x300010010804350 = .ok (.ffma ⟨.l64, 5, false, false, false, 0⟩ ⟨false, false, 0, .f32⟩ ⟨8, .vec 1 ⟨.id, 0⟩, .vec 2 ⟨.id, 0⟩, .vec 3 ⟨.id, 0⟩, 0⟩) := by rfl
/-- FCVT.e4m3.f32.sat v6,v5. -/
theorem test_decodes_fcvt : decodeCore 0x8040000000050604F01 = .ok (.fcvt ⟨.l96, 0, false, false, false, 0⟩ 6 5 .id 0 ⟨true, 0, 0, 4⟩) := by rfl
/-- LD.n32 v5,[s4+v2<<2]. -/
theorem test_decodes_ld : decodeCore 0x84010040506000 = .ok (.ld ⟨.l64, 0, false, false, false, 0⟩ ⟨5, 4, .id, 2, .id, 4, false, 1, 0x0, false, 0, false, 0⟩) := by rfl
/-- ST.n32 [s4],v5. -/
theorem test_decodes_st : decodeCore 0x80000040506100 = .ok (.st ⟨.l64, 0, false, false, false, 0⟩ ⟨5, 4, .id, 0, .id, 4, false, 0, 0x0, false, 0, false, 0⟩) := by rfl
/-- ATOM. -/
theorem test_decodes_atom : decodeCore 0x704010040608101 = .ok (.atom ⟨.l96, 0, false, false, false, 0⟩ ⟨0, 1, 6, 4, .id, 2, .id, 7, 0, false, false, false, false, 0, 0, false, 0x0⟩) := by rfl
/-- ATOMS.add.n32.rel.clu v3,[s9+16],v4. -/
theorem test_decodes_atoms : decodeCore 0x900100400000090308201 = .ok (.atoms ⟨.l96, 0, false, false, false, 0⟩ ⟨0, 0, 3, 9, .id, 0, .id, 4, 0, false, false, false, false, 2, 2, false, 0x10⟩) := by rfl
/-- LR.n32.acq.die v5,[s4]. -/
theorem test_decodes_lr : decodeCore 0x580000000000040508301 = .ok (.lr ⟨.l96, 0, false, false, false, 0⟩ ⟨0, 0, 5, 4, .id, 0, .id, 0, 0, false, false, false, false, 1, 3, false, 0x0⟩) := by rfl
/-- SC.n32 p2,[s4],v6. -/
theorem test_decodes_sc : decodeCore 0x600000040208401 = .ok (.sc ⟨.l96, 0, false, false, false, 0⟩ ⟨0, 0, 2, 4, .id, 0, .id, 6, 0, false, false, false, false, 0, 0, false, 0x0⟩) := by rfl
/-- XCOPY. -/
theorem test_decodes_xcopy : decodeCore 0x21060C02804020A002 = .ok (.xcopy ⟨.l128, 0, false, false, false, 0⟩ ⟨2, 4, 5, 6, 3, ⟨0, 0, 0, 0, 0, 0, 2, false, 1⟩⟩) := by rfl
/-- MWLD.fp4 h7,[s3],#1,#1. -/
theorem test_decodes_mwld : decodeCore 0x1000000000000002000003070B102 = .ok (.mwld ⟨.l128, 0, false, false, false, 0⟩ ⟨7, 3, 0, 0, 1, ⟨1, 0, 0, false, false, 0, 0, 0, 0, false, false, 0, 0, false, false, 0⟩⟩) := by rfl
/-- LAUNCH h3,p1,#2,[s6]. -/
theorem test_decodes_launch : decodeCore 0x1000800006030C001 = .ok (.launch ⟨.l96, 0, false, false, false, 0⟩ 3 6 2 0 false false false 1) := by rfl
/-- WAPP p2,[v4],v8. -/
theorem test_decodes_wapp : decodeCore 0x4000004080C100 = .ok (.wapp ⟨.l64, 0, false, false, false, 0⟩ 8 4 2) := by rfl
/-- WTAKE v8,p1,p2,[s5]. -/
theorem test_decodes_wtake : decodeCore 0x2802800080C200 = .ok (.wtake ⟨.l64, 0, false, false, false, 0⟩ 8 5 1 2) := by rfl
/-- WIDLE. -/
theorem test_decodes_widle : decodeCore 0xC300 = .ok (.widle ⟨.l64, 0, false, false, false, 0⟩) := by rfl
/-- TRAP #5. -/
theorem test_decodes_trap : decodeCore 0x50000000000D000 = .ok (.trap ⟨.l64, 0, false, false, false, 0⟩ 0x5) := by rfl
/-- SREAD v2,LANEID. -/
theorem test_decodes_sread : decodeCore 0x20400000020D100 = .ok (.sread ⟨.l64, 0, false, false, false, 0⟩ 2 2 1) := by rfl
/-- SREAD s2,CYCLE. -/
theorem test_decodes_sread_2 : decodeCore 0xE0000000020D100 = .ok (.sread ⟨.l64, 0, false, false, false, 0⟩ 2 14 0) := by rfl
/-- SWRITE FRIV,s3. -/
theorem test_decodes_swriteFriv : decodeCore 0xA0000003000D200 = .ok (.swriteFriv ⟨.l64, 0, false, false, false, 0⟩ 3) := by rfl
/-- PMRD s4,core2. -/
theorem test_decodes_pmrd : decodeCore 0x20000000040D300 = .ok (.pmrd ⟨.l64, 0, false, false, false, 0⟩ 4 2) := by rfl
/-- SLEEP #1000. -/
theorem test_decodes_sleep : decodeCore 0x3E8000000000000D401 = .ok (.sleep ⟨.l96, 0, false, false, false, 0⟩ (.imm 0x3E8)) := by rfl
/-- BKPT #1. -/
theorem test_decodes_bkpt : decodeCore 0x10000000000D500 = .ok (.bkpt ⟨.l64, 0, false, false, false, 0⟩ 0x1) := by rfl
/-- SPDIST v6,[s4]. -/
theorem test_decodes_spdist : decodeCore 0x40607800 = .ok (.spdist ⟨.l64, 0, false, false, false, 0⟩ 6 4 false .id 0) := by rfl
/-- SPPIN p3,[s10]. -/
theorem test_decodes_sppin : decodeCore 0xA0307900 = .ok (.sppin ⟨.l64, 0, false, false, false, 0⟩ 3 10) := by rfl
/-- SPPULL [s8],#40. -/
theorem test_decodes_sppull : decodeCore 0x280000000080007B01 = .ok (.sppull ⟨.l96, 0, false, false, false, 0⟩ 8 (.imm 0x28)) := by rfl
/-- SPFLUSH [s4],s5. -/
theorem test_decodes_spflush : decodeCore 0x28040007E00 = .ok (.spflush ⟨.l64, 0, false, false, false, 0⟩ 4 5) := by rfl
/-- FENCE.acq.sys. -/
theorem test_decodes_fence : decodeCore 0x34000000008000 = .ok (.fence ⟨.l64, 0, false, false, false, 0⟩ 1 5) := by rfl
/-- BARINIT.trap. -/
theorem test_decodes_barinit : decodeCore 0x20028040009000 = .ok (.barinit ⟨.l64, 0, false, false, false, 0⟩ 4 5 false true) := by rfl
/-- BARARV.rel.clu s6,[s4],#3. -/
theorem test_decodes_bararv : decodeCore 0x308000040609100 = .ok (.bararv ⟨.l64, 0, false, false, false, 0⟩ 6 4 3 false 2) := by rfl
/-- BARWT.acq.clu p1,[s4],s7,s8. -/
theorem test_decodes_barwt : decodeCore 0x808038040109200 = .ok (.barwt ⟨.l64, 0, false, false, false, 0⟩ 1 4 7 8 2) := by rfl
/-- LKACQ.acq.die [s10]. -/
theorem test_decodes_lkacq : decodeCore 0xC0000A0009400 = .ok (.lkacq ⟨.l64, 0, false, false, false, 0⟩ 10 3) := by rfl
/-- LKREL. -/
theorem test_decodes_lkrel : decodeCore 0xC0000A0009600 = .ok (.lkrel ⟨.l64, 0, false, false, false, 0⟩ 10 3) := by rfl
/-- GRSET. -/
theorem test_decodes_grset : decodeCore 0x580A0009700 = .ok (.grset ⟨.l64, 0, false, false, false, 0⟩ 10 11) := by rfl
/-- CVINIT cv2,s3. -/
theorem test_decodes_cvinit : decodeCore 0x18000209800 = .ok (.cvinit ⟨.l64, 0, false, false, false, 0⟩ 2 3) := by rfl
/-- CVSIGN.wt s9,cv2. -/
theorem test_decodes_cvsign : decodeCore 0x80000020909900 = .ok (.cvsign ⟨.l64, 0, false, false, false, 0⟩ 9 2 true) := by rfl
/-- CHSEND. -/
theorem test_decodes_chsend : decodeCore 0xC08000040009A00 = .ok (.chsend ⟨.l64, 0, false, false, false, 0⟩ 4 12 2) := by rfl
/-- CHRECV. -/
theorem test_decodes_chrecv : decodeCore 0x8000050C09B00 = .ok (.chrecv ⟨.l64, 0, false, false, false, 0⟩ 12 5 2) := by rfl
/-- FTEST p3,h2. -/
theorem test_decodes_ftest : decodeCore 0x2030A500 = .ok (.ftest ⟨.l64, 0, false, false, false, 0⟩ 3 2) := by rfl
/-- FWAIT.cnt s10,h2. -/
theorem test_decodes_fwait : decodeCore 0x8000020A0A600 = .ok (.fwait ⟨.l64, 0, false, false, false, 0⟩ 10 2 2) := by rfl
/-- MMA.bf16.z h2,[s5],cv0,#1. -/
theorem test_decodes_mma : decodeCore 0x1000330000000000000005020B202 = .ok (.mma ⟨.l128, 0, false, false, false, 0⟩ ⟨2, 5, 0, 0, 0, ⟨1, 0, 0, true, true, 3, 0, 0, 0, false, false, 0, 0, false, false, 0⟩⟩) := by rfl
/-- MWLD.acc.bf16 h1,[s7],#1. -/
theorem test_decodes_mwld_2 : decodeCore 0x1000030000080000000007010B102 = .ok (.mwld ⟨.l128, 0, false, false, false, 0⟩ ⟨1, 7, 0, 0, 0, ⟨1, 0, 0, false, false, 3, 0, 0, 0, false, false, 0, 0, true, false, 0⟩⟩) := by rfl
/-- MACZ #0xF. -/
theorem test_decodes_macz : decodeCore 0x3C00000000B300 = .ok (.macz ⟨.l64, 0, false, false, false, 0⟩ 0 15) := by rfl
/-- MCHAIN #3. -/
theorem test_decodes_mchain : decodeCore 0x800000000B600 = .ok (.mchain ⟨.l64, 0, false, false, false, 0⟩ 2) := by rfl
/-- MSTAT.rel s4. -/
theorem test_decodes_mstat : decodeCore 0x400000040B700 = .ok (.mstat ⟨.l64, 0, false, false, false, 0⟩ 4 0 true) := by rfl
/-- SHL.n32.d3 v3,v2,#2. -/
theorem test_decodes_shl : decodeCore 0x20004000020301832 = .ok (.shl ⟨.l128, 3, false, false, false, 0⟩ ⟨false, 0, .n32⟩ ⟨3, .vec 2 ⟨.id, 0⟩, .imm 0x2, .none, 0⟩) := by rfl
/-- MOVI.n32.d3 v6,#0x40000000. -/
theorem test_decodes_movi : decodeCore 0x400000000004000000602831 = .ok (.movi ⟨.l96, 3, false, false, false, 0⟩ ⟨false, 0, .n32⟩ ⟨6, .imm 0x40000000, .none, .none, 0⟩) := by rfl
/-- LDS.n32 v4,[v3]. -/
theorem test_decodes_lds : decodeCore 0x90000030406400 = .ok (.lds ⟨.l64, 0, false, false, false, 0⟩ ⟨4, 3, .id, 0, .id, 4, true, 0, 0x0, false, 0, false, 0⟩) := by rfl
/-- ADD.n32 w4,w2,x7. -/
theorem test_decodes_sAdd : decodeStack 0x6038020401000 = .ok (.sAdd ⟨.l64, 0, false, false, false, 0⟩ ⟨false, 0, .n32⟩ ⟨4, .vec 2 ⟨.id, 0⟩, .sca 7, .none, 0⟩) := by rfl
/-- RLD k[x5],[x4],#4. -/
theorem test_decodes_rld : decodeStack 0x300028040003000 = .ok (.rld ⟨.l64, 0, false, false, false, 0⟩ 4 5 3) := by rfl
/-- LDK.n32 w4,[x5+w2]. -/
theorem test_decodes_ldk : decodeStack 0x88010050403600 = .ok (.ldk ⟨.l64, 0, false, false, false, 0⟩ ⟨4, 5, 2, 0x0, 4, false, 2⟩) := by rfl
/-- WAITEV.ge [x10],x11. -/
theorem test_decodes_waitev : decodeStack 0x80580A0000500 = .ok (.waitev ⟨.l64, 0, false, false, false, 0⟩ 10 11 2) := by rfl
/-- POST [x6],x8,x7,#1. -/
theorem test_decodes_post : decodeStack 0x100038060803800 = .ok (.post ⟨.l64, 0, false, false, false, 0⟩ 8 6 7 1) := by rfl
/-- LOOP.sp x6. -/
theorem test_decodes_loop : decodeStack 0xFFFFFFD40000000000600309 = .ok (.loop ⟨.l96, 0, true, false, false, 0⟩ 6 0xFFFFFFD4) := by rfl
theorem test_decodes_brx : decodeCore 0x4050010300 = .ok (.brx ⟨.l64, 0, false, false, false, 1⟩ (.vec 5 ⟨.mir, 0⟩) 0) := by rfl
theorem test_decodes_call : decodeCore 0x400000000001400401 = .ok (.call ⟨.l96, 0, false, false, false, 0⟩ 20 0x40) := by rfl
theorem test_decodes_ret : decodeCore 0x140000600 = .ok (.ret ⟨.l64, 0, false, false, false, 0⟩ (.vec 20 ⟨.id, 0⟩) 0) := by rfl
theorem test_decodes_exit : decodeCore 0x20700 = .ok (.exit ⟨.l64, 0, false, false, false, 2⟩) := by rfl
theorem test_decodes_tail : decodeCore 0x800 = .ok (.tail ⟨.l64, 0, false, false, false, 0⟩) := by rfl
theorem test_decodes_yield : decodeCore 0x4000000000900 = .ok (.yield ⟨.l64, 0, false, false, false, 0⟩ true) := by rfl
theorem test_decodes_isub : decodeCore 0xC040060401100 = .ok (.isub ⟨.l64, 0, false, false, false, 0⟩ ⟨false, 0, .n64⟩ ⟨4, .vec 6 ⟨.id, 0⟩, .vec 8 ⟨.id, 0⟩, .none, 0⟩) := by rfl
theorem test_decodes_imul : decodeCore 0xC040060401200 = .ok (.imul ⟨.l64, 0, false, false, false, 0⟩ ⟨false, 0, .n64⟩ ⟨4, .vec 6 ⟨.id, 0⟩, .vec 8 ⟨.id, 0⟩, .none, 0⟩) := by rfl
theorem test_decodes_imulh : decodeCore 0xC040060401300 = .ok (.imulh ⟨.l64, 0, false, false, false, 0⟩ ⟨false, 0, .n64⟩ ⟨4, .vec 6 ⟨.id, 0⟩, .vec 8 ⟨.id, 0⟩, .none, 0⟩) := by rfl
theorem test_decodes_imin : decodeCore 0xC040060401500 = .ok (.imin ⟨.l64, 0, false, false, false, 0⟩ ⟨false, 0, .n64⟩ ⟨4, .vec 6 ⟨.id, 0⟩, .vec 8 ⟨.id, 0⟩, .none, 0⟩) := by rfl
theorem test_decodes_imax : decodeCore 0xC040060401600 = .ok (.imax ⟨.l64, 0, false, false, false, 0⟩ ⟨false, 0, .n64⟩ ⟨4, .vec 6 ⟨.id, 0⟩, .vec 8 ⟨.id, 0⟩, .none, 0⟩) := by rfl
theorem test_decodes_shr : decodeCore 0xC040060401900 = .ok (.shr ⟨.l64, 0, false, false, false, 0⟩ ⟨false, 0, .n64⟩ ⟨4, .vec 6 ⟨.id, 0⟩, .vec 8 ⟨.id, 0⟩, .none, 0⟩) := by rfl
theorem test_decodes_sra : decodeCore 0xC040060401A00 = .ok (.sra ⟨.l64, 0, false, false, false, 0⟩ ⟨false, 0, .n64⟩ ⟨4, .vec 6 ⟨.id, 0⟩, .vec 8 ⟨.id, 0⟩, .none, 0⟩) := by rfl
theorem test_decodes_and : decodeCore 0xC040060401B00 = .ok (.and ⟨.l64, 0, false, false, false, 0⟩ ⟨false, 0, .n64⟩ ⟨4, .vec 6 ⟨.id, 0⟩, .vec 8 ⟨.id, 0⟩, .none, 0⟩) := by rfl
theorem test_decodes_or : decodeCore 0xC040060401C00 = .ok (.or ⟨.l64, 0, false, false, false, 0⟩ ⟨false, 0, .n64⟩ ⟨4, .vec 6 ⟨.id, 0⟩, .vec 8 ⟨.id, 0⟩, .none, 0⟩) := by rfl
theorem test_decodes_xor : decodeCore 0xC040060401D00 = .ok (.xor ⟨.l64, 0, false, false, false, 0⟩ ⟨false, 0, .n64⟩ ⟨4, .vec 6 ⟨.id, 0⟩, .vec 8 ⟨.id, 0⟩, .none, 0⟩) := by rfl
theorem test_decodes_andn : decodeCore 0xC040060401E00 = .ok (.andn ⟨.l64, 0, false, false, false, 0⟩ ⟨false, 0, .n64⟩ ⟨4, .vec 6 ⟨.id, 0⟩, .vec 8 ⟨.id, 0⟩, .none, 0⟩) := by rfl
theorem test_decodes_iadd : decodeCore 0x8000004B0407A1051 = .ok (.iadd ⟨.l96, 5, false, false, true, 2⟩ ⟨false, 0, .i32⟩ ⟨7, .vec 4 ⟨.bfly, 8⟩, .vec 9 ⟨.id, 0⟩, .none, 0⟩) := by rfl
theorem test_decodes_imad : decodeCore 0x400018020101400 = .ok (.imad ⟨.l64, 0, false, false, false, 0⟩ ⟨false, 0, .i32⟩ ⟨1, .vec 2 ⟨.id, 0⟩, .vec 3 ⟨.id, 0⟩, .vec 4 ⟨.id, 0⟩, 0⟩) := by rfl
theorem test_decodes_popc : decodeCore 0x4000060401F00 = .ok (.popc ⟨.l64, 0, false, false, false, 0⟩ ⟨false, 0, .n32⟩ ⟨4, .vec 6 ⟨.id, 0⟩, .none, .none, 0⟩) := by rfl
theorem test_decodes_clz : decodeCore 0x4000060402000 = .ok (.clz ⟨.l64, 0, false, false, false, 0⟩ ⟨false, 0, .n32⟩ ⟨4, .vec 6 ⟨.id, 0⟩, .none, .none, 0⟩) := by rfl
theorem test_decodes_brev : decodeCore 0x4000060402100 = .ok (.brev ⟨.l64, 0, false, false, false, 0⟩ ⟨false, 0, .n32⟩ ⟨4, .vec 6 ⟨.id, 0⟩, .none, .none, 0⟩) := by rfl
theorem test_decodes_mov : decodeCore 0x4000060402700 = .ok (.mov ⟨.l64, 0, false, false, false, 0⟩ ⟨false, 0, .n32⟩ ⟨4, .vec 6 ⟨.id, 0⟩, .none, .none, 0⟩) := by rfl
theorem test_decodes_iabs : decodeCore 0x60401700 = .ok (.iabs ⟨.l64, 0, false, false, false, 0⟩ ⟨false, 0, .i32⟩ ⟨4, .vec 6 ⟨.id, 0⟩, .none, .none, 0⟩) := by rfl
theorem test_decodes_bfx : decodeCore 0x800038060402200 = .ok (.bfx ⟨.l64, 0, false, false, false, 0⟩ ⟨false, 0, .i32⟩ ⟨4, .vec 6 ⟨.id, 0⟩, .vec 7 ⟨.id, 0⟩, .vec 8 ⟨.id, 0⟩, 0⟩) := by rfl
theorem test_decodes_bfi : decodeCore 0x804038060402300 = .ok (.bfi ⟨.l64, 0, false, false, false, 0⟩ ⟨false, 0, .n32⟩ ⟨4, .vec 6 ⟨.id, 0⟩, .vec 7 ⟨.id, 0⟩, .vec 8 ⟨.id, 0⟩, 0⟩) := by rfl
theorem test_decodes_isel : decodeCore 0x300038060402400 = .ok (.isel ⟨.l64, 0, false, false, false, 0⟩ ⟨false, 0, .i32⟩ ⟨4, .vec 6 ⟨.id, 0⟩, .vec 7 ⟨.id, 0⟩, .none, 0⟩ 3) := by rfl
theorem test_decodes_movw : decodeCore 0x1BEEF0004000000602901 = .ok (.movw ⟨.l96, 0, false, false, false, 0⟩ ⟨false, 0, .n32⟩ 6 0xBEEF 1) := by rfl
theorem test_decodes_plop : decodeCore 0xCA0400018020102A01 = .ok (.plop ⟨.l96, 0, false, false, false, 0⟩ 1 2 3 4 0xCA) := by rfl
theorem test_decodes_perm : decodeCore 0x4040060403000 = .ok (.perm ⟨.l64, 0, false, false, false, 0⟩ true ⟨4, .vec 6 ⟨.id, 0⟩, .vec 8 ⟨.id, 0⟩, .none, 0⟩) := by rfl
theorem test_decodes_vote : decodeCore 0x8000030503100 = .ok (.vote ⟨.l64, 0, false, false, false, 0⟩ 2 5 3) := by rfl
theorem test_decodes_red : decodeCore 0x24000030503200 = .ok (.red ⟨.l64, 0, false, false, false, 0⟩ 2 .n32 ⟨5, .vec 3 ⟨.id, 0⟩, .none, .none, 0⟩) := by rfl
theorem test_decodes_scan : decodeCore 0xD0000030503300 = .ok (.scan ⟨.l64, 0, false, false, false, 0⟩ true 5 .i32 ⟨5, .vec 3 ⟨.id, 0⟩, .none, .none, 0⟩) := by rfl
theorem test_decodes_bcast : decodeCore 0x908001030503400 = .ok (.bcast ⟨.l64, 0, false, false, false, 0⟩ false true false 5 3 .rot 9) := by rfl
theorem test_decodes_shape : decodeCore 0x4000030503500 = .ok (.shape ⟨.l64, 0, false, false, false, 0⟩ 1 5 ⟨3, .id, 0⟩) := by rfl
theorem test_decodes_packl : decodeCore 0x908000030503600 = .ok (.packl ⟨.l64, 0, false, false, false, 0⟩ false true ⟨5, .vec 3 ⟨.id, 0⟩, .none, .none, 0⟩ 9) := by rfl
theorem test_decodes_fadd : decodeCore 0x18040060404000 = .ok (.fadd ⟨.l64, 0, false, false, false, 0⟩ ⟨false, false, 1, .f16⟩ ⟨4, .vec 6 ⟨.id, 0⟩, .vec 8 ⟨.id, 0⟩, .none, 0⟩) := by rfl
theorem test_decodes_fsub : decodeCore 0x18040060404100 = .ok (.fsub ⟨.l64, 0, false, false, false, 0⟩ ⟨false, false, 1, .f16⟩ ⟨4, .vec 6 ⟨.id, 0⟩, .vec 8 ⟨.id, 0⟩, .none, 0⟩) := by rfl
theorem test_decodes_fmul : decodeCore 0x18040060404200 = .ok (.fmul ⟨.l64, 0, false, false, false, 0⟩ ⟨false, false, 1, .f16⟩ ⟨4, .vec 6 ⟨.id, 0⟩, .vec 8 ⟨.id, 0⟩, .none, 0⟩) := by rfl
theorem test_decodes_fmin : decodeCore 0xC040060404400 = .ok (.fmin ⟨.l64, 0, false, false, false, 0⟩ ⟨false, false, 0, .bf16⟩ ⟨4, .vec 6 ⟨.id, 0⟩, .vec 8 ⟨.id, 0⟩, .none, 0⟩) := by rfl
theorem test_decodes_fmax : decodeCore 0xC040060404500 = .ok (.fmax ⟨.l64, 0, false, false, false, 0⟩ ⟨false, false, 0, .bf16⟩ ⟨4, .vec 6 ⟨.id, 0⟩, .vec 8 ⟨.id, 0⟩, .none, 0⟩) := by rfl
theorem test_decodes_fcmp : decodeCore 0x50040060204600 = .ok (.fcmp ⟨.l64, 0, false, false, false, 0⟩ 5 .f32 ⟨2, .vec 6 ⟨.id, 0⟩, .vec 8 ⟨.id, 0⟩, .none, 0⟩) := by rfl
theorem test_decodes_fcmpRflg : decodeCore 0x80000000904600 = .ok (.fcmpRflg ⟨.l64, 0, false, false, false, 0⟩ 9) := by rfl
theorem test_decodes_fcmpCflg : decodeCore 0x84000000904600 = .ok (.fcmpCflg ⟨.l64, 0, false, false, false, 0⟩ 9) := by rfl
theorem test_decodes_frcp : decodeCore 0x34000060404700 = .ok (.frcp ⟨.l64, 0, false, false, false, 0⟩ ⟨false, false, 3, .f64⟩ ⟨4, .vec 6 ⟨.id, 0⟩, .none, .none, 0⟩) := by rfl
theorem test_decodes_fsqrt : decodeCore 0x34000060404900 = .ok (.fsqrt ⟨.l64, 0, false, false, false, 0⟩ ⟨false, false, 3, .f64⟩ ⟨4, .vec 6 ⟨.id, 0⟩, .none, .none, 0⟩) := by rfl
theorem test_decodes_fround : decodeCore 0x34000060405000 = .ok (.fround ⟨.l64, 0, false, false, false, 0⟩ ⟨false, false, 3, .f64⟩ ⟨4, .vec 6 ⟨.id, 0⟩, .none, .none, 0⟩) := by rfl
theorem test_decodes_frsq : decodeCore 0x60404800 = .ok (.frsq ⟨.l64, 0, false, false, false, 0⟩ ⟨false, false, 0, .f32⟩ ⟨4, .vec 6 ⟨.id, 0⟩, .none, .none, 0⟩) := by rfl
theorem test_decodes_fexp2 : decodeCore 0x60404A00 = .ok (.fexp2 ⟨.l64, 0, false, false, false, 0⟩ ⟨false, false, 0, .f32⟩ ⟨4, .vec 6 ⟨.id, 0⟩, .none, .none, 0⟩) := by rfl
theorem test_decodes_flog2 : decodeCore 0x60404B00 = .ok (.flog2 ⟨.l64, 0, false, false, false, 0⟩ ⟨false, false, 0, .f32⟩ ⟨4, .vec 6 ⟨.id, 0⟩, .none, .none, 0⟩) := by rfl
theorem test_decodes_fsin : decodeCore 0x60404C00 = .ok (.fsin ⟨.l64, 0, false, false, false, 0⟩ ⟨false, false, 0, .f32⟩ ⟨4, .vec 6 ⟨.id, 0⟩, .none, .none, 0⟩) := by rfl
theorem test_decodes_fcos : decodeCore 0x60404D00 = .ok (.fcos ⟨.l64, 0, false, false, false, 0⟩ ⟨false, false, 0, .f32⟩ ⟨4, .vec 6 ⟨.id, 0⟩, .none, .none, 0⟩) := by rfl
theorem test_decodes_ftanh : decodeCore 0x60404E00 = .ok (.ftanh ⟨.l64, 0, false, false, false, 0⟩ ⟨false, false, 0, .f32⟩ ⟨4, .vec 6 ⟨.id, 0⟩, .none, .none, 0⟩) := by rfl
theorem test_decodes_qnt : decodeCore 0x8DC038060405100 = .ok (.qnt ⟨.l64, 0, false, false, false, 0⟩ true 2 true 3 4 6 .id 7 8) := by rfl
theorem test_decodes_dqnt : decodeCore 0x868000060405200 = .ok (.dqnt ⟨.l64, 0, false, false, false, 0⟩ 3 false 2 4 6 .id 8) := by rfl
theorem test_decodes_amax : decodeCore 0x1C005060405300 = .ok (.amax ⟨.l64, 0, false, false, false, 0⟩ true .bf16 4 6 .bck 0) := by rfl
theorem test_decodes_ldu : decodeCore 0xF8B0000060406200 = .ok (.ldu ⟨.l64, 0, false, false, false, 0⟩ ⟨4, 6, .id, 0, .id, 5, true, 0, 0xFFFFFFF8, false, 0, false, 0⟩) := by rfl
theorem test_decodes_stu : decodeCore 0x40000060406300 = .ok (.stu ⟨.l64, 0, false, false, false, 0⟩ ⟨4, 6, .id, 0, .id, 2, false, 0, 0, false, 0, false, 0⟩) := by rfl
theorem test_decodes_sts : decodeCore 0x84038060406500 = .ok (.sts ⟨.l64, 0, false, false, false, 0⟩ ⟨4, 6, .id, 7, .id, 4, false, 1, 0, false, 0, false, 0⟩) := by rfl
theorem test_decodes_feset : decodeCore 0x20000060006600 = .ok (.feset ⟨.l64, 0, false, false, false, 0⟩ ⟨0, 6, .id, 0, .id, 1, false, 0, 0, false, 0, false, 0⟩) := by rfl
theorem test_decodes_fetest : decodeCore 0x10000060306700 = .ok (.fetest ⟨.l64, 0, false, false, false, 0⟩ ⟨3, 6, .id, 0, .id, 0, true, 0, 0, false, 0, false, 0⟩) := by rfl
theorem test_decodes_pf : decodeCore 0x4020000060006800 = .ok (.pf ⟨.l64, 0, false, false, false, 0⟩ ⟨0, 6, .id, 0, .id, 1, false, 0, 0x40, false, 0, false, 0⟩) := by rfl
theorem test_decodes_lds_2 : decodeCore 0x402080000090606401 = .ok (.lds ⟨.l96, 0, false, false, false, 0⟩ ⟨6, 9, .id, 0, .id, 4, false, 0, 0x40, false, 2, false, 0⟩) := by rfl
theorem test_decodes_spunpin : decodeCore 0xA0007A00 = .ok (.spunpin ⟨.l64, 0, false, false, false, 0⟩ 10) := by rfl
theorem test_decodes_spclean : decodeCore 0x28040007C00 = .ok (.spclean ⟨.l64, 0, false, false, false, 0⟩ 4 5) := by rfl
theorem test_decodes_spinv : decodeCore 0x28040007D00 = .ok (.spinv ⟨.l64, 0, false, false, false, 0⟩ 4 5) := by rfl
theorem test_decodes_barq : decodeCore 0x80000060409300 = .ok (.barq ⟨.l64, 0, false, false, false, 0⟩ 4 6 true) := by rfl
theorem test_decodes_lktry : decodeCore 0x14000060409500 = .ok (.lktry ⟨.l64, 0, false, false, false, 0⟩ 4 6 5) := by rfl
theorem test_decodes_xfill : decodeCore 0x4B082403004020A102 = .ok (.xfill ⟨.l128, 0, false, false, false, 0⟩ ⟨2, 4, 6, 8, 9, ⟨0, 0, 0, 0, 0, 0, 4, true, 3⟩⟩) := by rfl
theorem test_decodes_xgath : decodeCore 0x110B0C00000001082403004020A202 = .ok (.xgath ⟨.l128, 0, false, false, false, 0⟩ ⟨2, 4, 6, 8, 9, ⟨17, 11, 12, 0, 0, 0, 0, false, 1⟩⟩) := by rfl
theorem test_decodes_xcoll : decodeCore 0x7B01082403004020A302 = .ok (.xcoll ⟨.l128, 0, false, false, false, 0⟩ ⟨2, 4, 6, 8, 9, ⟨0, 0, 0, 7, 2, 3, 0, false, 1⟩⟩) := by rfl
theorem test_decodes_qput : decodeCore 0xB002400004020A401 = .ok (.qput ⟨.l96, 0, false, false, false, 0⟩ 2 4 9 true 3) := by rfl
theorem test_decodes_fcancel : decodeCore 0x4000A700 = .ok (.fcancel ⟨.l64, 0, false, false, false, 0⟩ 4) := by rfl
theorem test_decodes_fexp : decodeCore 0x4090A800 = .ok (.fexp ⟨.l64, 0, false, false, false, 0⟩ 9 4) := by rfl
theorem test_decodes_fimp : decodeCore 0x9040A900 = .ok (.fimp ⟨.l64, 0, false, false, false, 0⟩ 4 9) := by rfl
theorem test_decodes_mplane : decodeCore 0xC002252000000000000005040B002 = .ok (.mplane ⟨.l128, 0, false, false, false, 0⟩ 4 5 0 12 34 5 2) := by rfl
theorem test_decodes_macrd : decodeCore 0xCC80200138042070003005040B402 = .ok (.macrd ⟨.l128, 0, false, false, false, 0⟩ ⟨4, 5, 6, 7, 0, ⟨12, 200, 0, true, false, 0, 0, 0, 2, false, true, 3, 0, false, true, 2⟩⟩) := by rfl
theorem test_decodes_macwr : decodeCore 0xCC80050180801000003005040B502 = .ok (.macwr ⟨.l128, 0, false, false, false, 0⟩ ⟨4, 5, 6, 0, 0, ⟨12, 200, 0, false, false, 5, 0, 0, 3, false, false, 0, 2, false, false, 1⟩⟩) := by rfl
theorem test_decodes_swriteSbchk : decodeCore 0xB0000003000D200 = .ok (.swriteSbchk ⟨.l64, 0, false, false, false, 0⟩ 3) := by rfl
theorem test_decodes_swriteSpoob : decodeCore 0xC0000003000D200 = .ok (.swriteSpoob ⟨.l64, 0, false, false, false, 0⟩ 3) := by rfl
theorem test_decodes_swriteNcw : decodeCore 0x150000004000D200 = .ok (.swriteNcw ⟨.l64, 0, false, false, false, 0⟩ 4 5) := by rfl
theorem test_decodes_sNop : decodeStack 0x100 = .ok (.sNop ⟨.l64, 0, false, false, false, 0⟩) := by rfl
theorem test_decodes_sBra : decodeStack 0x200004000000030201 = .ok (.sBra ⟨.l96, 0, false, false, false, 3⟩ 1 0x20) := by rfl
theorem test_decodes_sExit : decodeStack 0x400 = .ok (.sExit ⟨.l64, 0, false, false, false, 0⟩) := by rfl
theorem test_decodes_srd : decodeStack 0x808000000900600 = .ok (.srd ⟨.l64, 0, false, false, false, 0⟩ 9 8 true false) := by rfl
theorem test_decodes_sSub : decodeStack 0x4040060401100 = .ok (.sSub ⟨.l64, 0, false, false, false, 0⟩ ⟨false, 0, .n32⟩ ⟨4, .vec 6 ⟨.id, 0⟩, .vec 8 ⟨.id, 0⟩, .none, 0⟩) := by rfl
theorem test_decodes_sMul : decodeStack 0x4040060401200 = .ok (.sMul ⟨.l64, 0, false, false, false, 0⟩ ⟨false, 0, .n32⟩ ⟨4, .vec 6 ⟨.id, 0⟩, .vec 8 ⟨.id, 0⟩, .none, 0⟩) := by rfl
theorem test_decodes_sAnd : decodeStack 0x4040060401400 = .ok (.sAnd ⟨.l64, 0, false, false, false, 0⟩ ⟨false, 0, .n32⟩ ⟨4, .vec 6 ⟨.id, 0⟩, .vec 8 ⟨.id, 0⟩, .none, 0⟩) := by rfl
theorem test_decodes_sOr : decodeStack 0x4040060401500 = .ok (.sOr ⟨.l64, 0, false, false, false, 0⟩ ⟨false, 0, .n32⟩ ⟨4, .vec 6 ⟨.id, 0⟩, .vec 8 ⟨.id, 0⟩, .none, 0⟩) := by rfl
theorem test_decodes_sXor : decodeStack 0x4040060401600 = .ok (.sXor ⟨.l64, 0, false, false, false, 0⟩ ⟨false, 0, .n32⟩ ⟨4, .vec 6 ⟨.id, 0⟩, .vec 8 ⟨.id, 0⟩, .none, 0⟩) := by rfl
theorem test_decodes_sShl : decodeStack 0x4040060401700 = .ok (.sShl ⟨.l64, 0, false, false, false, 0⟩ ⟨false, 0, .n32⟩ ⟨4, .vec 6 ⟨.id, 0⟩, .vec 8 ⟨.id, 0⟩, .none, 0⟩) := by rfl
theorem test_decodes_sShr : decodeStack 0x4040060401800 = .ok (.sShr ⟨.l64, 0, false, false, false, 0⟩ ⟨false, 0, .n32⟩ ⟨4, .vec 6 ⟨.id, 0⟩, .vec 8 ⟨.id, 0⟩, .none, 0⟩) := by rfl
theorem test_decodes_sMad : decodeStack 0x988040060401300 = .ok (.sMad ⟨.l64, 0, false, false, false, 0⟩ ⟨true, 0, .i64⟩ ⟨4, .sca 6, .sca 8, .sca 9, 0⟩) := by rfl
theorem test_decodes_sCmp : decodeStack 0x54040060301900 = .ok (.sCmp ⟨.l64, 0, false, false, false, 0⟩ ⟨false, 5, .n32⟩ ⟨3, .vec 6 ⟨.id, 0⟩, .vec 8 ⟨.id, 0⟩, .none, 0⟩) := by rfl
theorem test_decodes_sSel : decodeStack 0x204040060401A00 = .ok (.sSel ⟨.l64, 0, false, false, false, 0⟩ ⟨false, 0, .n32⟩ ⟨4, .vec 6 ⟨.id, 0⟩, .vec 8 ⟨.id, 0⟩, .none, 0⟩ 2) := by rfl
theorem test_decodes_sMov : decodeStack 0x40000401B00 = .ok (.sMov ⟨.l64, 0, false, false, false, 0⟩ ⟨false, 0, .i32⟩ ⟨4, .none, .vec 8 ⟨.id, 0⟩, .none, 0⟩) := by rfl
theorem test_decodes_sMovi : decodeStack 0x7F04000000401C00 = .ok (.sMovi ⟨.l64, 0, false, false, false, 0⟩ ⟨false, 0, .n32⟩ ⟨4, .imm 0x7F, .none, .none, 0⟩) := by rfl
theorem test_decodes_sFadd : decodeStack 0x20040060402000 = .ok (.sFadd ⟨.l64, 0, false, false, false, 0⟩ ⟨false, false, 2, .f32⟩ ⟨4, .vec 6 ⟨.id, 0⟩, .vec 8 ⟨.id, 0⟩, .none, 0⟩) := by rfl
theorem test_decodes_sFmul : decodeStack 0x20040060402100 = .ok (.sFmul ⟨.l64, 0, false, false, false, 0⟩ ⟨false, false, 2, .f32⟩ ⟨4, .vec 6 ⟨.id, 0⟩, .vec 8 ⟨.id, 0⟩, .none, 0⟩) := by rfl
theorem test_decodes_sFmin : decodeStack 0x40060402300 = .ok (.sFmin ⟨.l64, 0, false, false, false, 0⟩ ⟨false, false, 0, .f32⟩ ⟨4, .vec 6 ⟨.id, 0⟩, .vec 8 ⟨.id, 0⟩, .none, 0⟩) := by rfl
theorem test_decodes_sFmax : decodeStack 0x40060402400 = .ok (.sFmax ⟨.l64, 0, false, false, false, 0⟩ ⟨false, false, 0, .f32⟩ ⟨4, .vec 6 ⟨.id, 0⟩, .vec 8 ⟨.id, 0⟩, .none, 0⟩) := by rfl
theorem test_decodes_sFfma : decodeStack 0x9D8040060402200 = .ok (.sFfma ⟨.l64, 0, false, false, false, 0⟩ ⟨true, true, 1, .f16⟩ ⟨4, .vec 6 ⟨.id, 0⟩, .vec 8 ⟨.id, 0⟩, .vec 9 ⟨.id, 0⟩, 0⟩) := by rfl
theorem test_decodes_sFcvt : decodeStack 0x8040000000060402501 = .ok (.sFcvt ⟨.l96, 0, false, false, false, 0⟩ 4 6 ⟨true, 0, 0, 4⟩) := by rfl
theorem test_decodes_rst : decodeStack 0x300028040003100 = .ok (.rst ⟨.l64, 0, false, false, false, 0⟩ 4 5 3) := by rfl
theorem test_decodes_rldx : decodeStack 0xFC08030050403200 = .ok (.rldx ⟨.l64, 0, false, false, false, 0⟩ ⟨4, 5, 6, 0xFC, 0, false, 2⟩) := by rfl
theorem test_decodes_rstx : decodeStack 0x50403300 = .ok (.rstx ⟨.l64, 0, false, false, false, 0⟩ ⟨4, 5, 0, 0, 0, false, 0⟩) := by rfl
theorem test_decodes_ratom : decodeStack 0x764030050403400 = .ok (.ratom ⟨.l64, 0, false, false, false, 0⟩ 3 1 4 5 6 7) := by rfl
theorem test_decodes_vred : decodeStack 0x54000050403500 = .ok (.vred ⟨.l64, 0, false, false, false, 0⟩ false 5 .n32 4 5) := by rfl
theorem test_decodes_stk : decodeStack 0x40000050403700 = .ok (.stk ⟨.l64, 0, false, false, false, 0⟩ ⟨4, 5, 0, 0, 2, false, 0⟩) := by rfl
theorem test_decodes_sFence : decodeStack 0x3900 = .ok (.sFence ⟨.l64, 0, false, false, false, 0⟩) := by rfl
/-- LEA.n64 v8,[s4+v2<<2+16], the manual's own encoding (04 R87). -/
theorem test_decodes_lea : decodeCore 0x02000000102C010040802601 = .ok (.lea ⟨.l96, 0, false, false, false, 0⟩ ⟨false, 2, .n64⟩ ⟨8, .sca 4, .vec 2 ⟨.id, 0⟩, .imm 0x10, 0⟩) := by rfl

def h64 : Hdr := ⟨.l64, 0, false, false, false, 0⟩
def h96 : Hdr := ⟨.l96, 0, false, false, false, 0⟩
def h128 : Hdr := ⟨.l128, 0, false, false, false, 0⟩
def vr (r : Nat) : Src := .vec r ⟨.id, 0⟩
def i32 : IFn := ⟨false, 0, .i32⟩
def f32 : FFn := ⟨false, false, 0, .f32⟩

/-! ### Ill-formed terms: every check refuses one -/

/-- An LD or ST from [s4] into v5. -/
def moB : MemOp := ⟨5, 4, .id, 0, .id, 4, false, 0, 0, false, 0, false, 0⟩
def aoB : AtomOp := ⟨0, 0, 3, 4, .id, 0, .id, 6, 0, false, false, false, false, 0, 0, false, 0⟩
def xoB : XOp := ⟨2, 4, 5, 6, 3, ⟨0, 0, 0, 0, 0, 0, 2, false, 1⟩⟩
def mmB : MOp := ⟨2, 5, 0, 0, 0, ⟨1, 0, 0, false, false, 3, 0, 0, 0, false, false, 0, 0, false, false, 0⟩⟩

/-- 02 R27, R34, R38: STALL 16, a predicate p8, a predicate on an unpredicated opcode. -/
theorem test_wf_header : ([.nop { h64 with stall := 16 }, .bra { h96 with pr := 8 } 0, .nop { h64 with pr := 1 }, .tail { h64 with neg := true },
    .exit { h64 with stall := 16 }, .fence { h64 with pr := 2 } 0 1] : List Instr).all (!legal ·) = true := by decide
/-- 02 R35, 03 R67, 04 R90, 06 R133, 09 R199: U where it is not permitted, or beside a pattern. -/
theorem test_wf_uniform : ([.nop { h64 with u := true }, .bra { h96 with u := true } 0, .ld { h64 with u := true } moB, .lkacq { h64 with u := true } 4 0,
    .red { h64 with u := true } 0 .i32 ⟨5, vr 3, .none, .none, 0⟩, .iadd { h64 with u := true } i32 ⟨1, .vec 2 ⟨.rot, 1⟩, vr 3, .none, 0⟩,
    .movi { h64 with u := true } i32 ⟨1, .imm 0, .none, .none, 0⟩, .isel { h64 with u := true } i32 ⟨1, vr 2, vr 3, .none, 0⟩ 1]
    : List Instr).all (!legal ·) = true := by decide
/-- 02 R46: lengths that an opcode does not have. -/
theorem test_wf_lengths : ([.bra h64 0, .tail h96, .iabs h128 i32 ⟨1, vr 2, .none, .none, 0⟩, .bfx h128 i32 ⟨1, vr 2, vr 3, vr 4, 0⟩,
    .movw h64 i32 1 0 0, .plop h64 1 2 3 4 0, .vote h96 0 1 2, .fcvt h64 1 2 .id 0 ⟨false, 0, 0, 4⟩, .ld h128 moB, .atom h64 aoB, .lkacq h96 4 0,
    .xcopy h64 xoB, .qput h64 2 4 9 true 0, .mma h96 mmB, .launch h64 3 6 2 0 false false false 1, .trap h96 0, .sleep h96 (.sca 3)]
    : List Instr).all (!legal ·) = true := by decide
/-- 02 R29, R31: a field above 255, a predicate above 7, a handle above 15, an odd pair, a quad that is not aligned. -/
theorem test_wf_registers : ([.iadd h64 i32 ⟨256, vr 2, vr 3, .none, 0⟩, .iadd h64 i32 ⟨1, vr 256, vr 3, .none, 0⟩, .icmp h64 i32 ⟨8, vr 2, vr 3, .none, 0⟩,
    .iadd h64 ⟨false, 0, .i64⟩ ⟨1, vr 2, vr 4, .none, 0⟩, .iadd h64 ⟨false, 0, .i64⟩ ⟨2, vr 3, vr 4, .none, 0⟩, .fadd h64 ⟨false, false, 0, .f64⟩ ⟨2, vr 4, vr 5, .none, 0⟩,
    .ld h64 { moB with sz := 6, d := 6 }, .ftest h64 3 16, .fetest h64 { moB with sz := 0, d := 8 }, .cvinit h64 8 3, .barq h64 5 4 false,
    .plop h96 8 1 2 3 0, .isel h64 i32 ⟨1, vr 2, vr 3, .none, 0⟩ 8, .wapp h64 6 4 2, .swriteNcw h64 3 0, .sppin h64 8 10]
    : List Instr).all (!legal ·) = true := by decide
/-- 02 R30, R32: amounts that are not implied, out of range or on a pattern without one, scalar sources and N out of place. -/
theorem test_wf_sources : ([.iadd h64 i32 ⟨1, .vec 2 ⟨.rot, 2⟩, vr 3, .none, 0⟩, .iadd h96 i32 ⟨1, .vec 2 ⟨.rot, 128⟩, vr 3, .none, 0⟩,
    .iadd h96 i32 ⟨1, .vec 2 ⟨.id, 1⟩, vr 3, .none, 0⟩, .iadd h64 i32 ⟨1, .sca 2, vr 3, .none, 0⟩, .iadd h64 ⟨true, 0, .i32⟩ ⟨1, vr 2, .sca 3, .none, 0⟩,
    .iadd h64 i32 ⟨1, vr 2, .none, .none, 0⟩, .iadd h64 i32 ⟨1, vr 2, vr 3, vr 4, 0⟩, .iadd h64 i32 ⟨1, vr 2, vr 3, .none, 1⟩,
    .iadd h64 i32 ⟨1, .vec 2 ⟨.bcs, 0⟩, vr 3, .none, 256⟩, .imad h64 i32 ⟨1, .vec 2 ⟨.bcs, 0⟩, vr 3, vr 4, 5⟩, .iadd h128 i32 ⟨1, vr 2, vr 3, .none, 0⟩,
    .imad h96 i32 ⟨1, vr 2, vr 3, .vec 4 ⟨.rot, 1⟩, 0⟩, .perm h96 false ⟨1, .sca 2, vr 3, .none, 0⟩] : List Instr).all (!legal ·) = true := by decide
/-- 04 R77 to R79, R84 to R89: M, S beside U, IABS of an unsigned type, immediates too wide, field positions, pieces. -/
theorem test_wf_integer : ([.iadd h64 ⟨false, 1, .i32⟩ ⟨1, vr 2, vr 3, .none, 0⟩, .icmp h64 ⟨false, 6, .i32⟩ ⟨1, vr 2, vr 3, .none, 0⟩,
    .iadd { h64 with u := true } ⟨true, 0, .i32⟩ ⟨1, .sca 2, .sca 3, .none, 0⟩, .iabs h64 ⟨false, 0, .n32⟩ ⟨1, vr 2, .none, .none, 0⟩,
    .isel h64 ⟨true, 0, .i32⟩ ⟨1, .sca 2, .sca 3, .none, 0⟩ 1, .iadd h128 i32 ⟨1, vr 2, .imm (BitVec.ofNat 64 (2 ^ 32)), .none, 0⟩,
    .bfx h96 i32 ⟨1, vr 2, .imm 32, .imm 1, 0⟩, .bfx h96 i32 ⟨1, vr 2, .imm 0, .imm 33, 0⟩, .lea h64 i32 ⟨1, vr 2, vr 3, .imm 256, 0⟩,
    .movi h64 i32 ⟨1, .imm 256, .none, .none, 0⟩, .movi h128 i32 ⟨1, .imm 0, .none, .none, 0⟩, .movw h96 i32 1 0 2,
    .bra h96 2, .call h96 5 6] : List Instr).all (!legal ·) = true := by decide
/-- 04 R90 to R96. -/
theorem test_wf_lanes : ([.vote h64 4 1 2, .red h64 6 .i32 ⟨5, vr 3, .none, .none, 0⟩, .scan h64 false 7 .i32 ⟨5, vr 3, .none, .none, 0⟩,
    .bcast h64 false false false 5 3 .id 128, .bcast h64 false false false 5 3 .bcs 0, .shape h64 3 5 ⟨3, .id, 0⟩, .shape h64 2 5 ⟨3, .id, 0⟩, .shape h64 2 5 ⟨0, .mir, 0⟩,
    .packl h64 false false ⟨5, vr 3, .none, .none, 0⟩ 9] : List Instr).all (!legal ·) = true := by decide
/-- 05 R105, R109, R113, R118. -/
theorem test_wf_float : ([.fadd h64 ⟨true, false, 0, .f32⟩ ⟨1, vr 2, vr 3, .none, 0⟩, .fmin h64 ⟨false, false, 1, .f32⟩ ⟨1, vr 2, vr 3, .none, 0⟩,
    .frsq h64 ⟨false, false, 1, .f32⟩ ⟨1, vr 2, .none, .none, 0⟩, .fcmp h64 8 .f32 ⟨1, vr 2, vr 3, .none, 0⟩, .fadd h128 ⟨false, false, 0, .f16⟩ ⟨1, vr 2, .imm 65536, .none, 0⟩,
    .fcvt h96 1 2 .id 0 ⟨false, 0, 14, 0⟩, .fcvt h96 1 2 .id 0 ⟨false, 0, 6, 7⟩, .fcvt h96 1 2 .id 0 ⟨true, 0, 0, 6⟩, .fcvt h96 1 2 .id 0 ⟨false, 5, 0, 4⟩,
    .qnt h64 false 3 false 0 4 6 .id 7 8, .dqnt h64 0 false 2 4 6 .rot 8, .amax h64 false .f64 4 6 .id 0, .fcmpRflg { h64 with pr := 1 } 9]
    : List Instr).all (!legal ·) = true := by decide
/-- 06 R133 to R135. -/
theorem test_wf_memory : ([.ld h64 { moB with sz := 7 }, .st h64 { moB with sz := 1 }, .ld h64 { moB with ix := 3 }, .ld h96 { moB with fe := 3 },
    .ld h96 { moB with ord := 6 }, .ld h64 { moB with bv := true, xa := .bcs }, .ld h64 { moB with xa := .rot }, .ld h64 { moB with b := 3 },
    .ld h96 { moB with nx := true }, .ld h64 { moB with ord := 1 }, .ld h64 { moB with off := 128 }, .ld h96 { moB with fe := 1, far := true },
    .st h96 { moB with fe := 1 }, .lds h96 { moB with far := true }, .ldu h64 { moB with ix := 1, b := 2 }, .stu h64 { moB with sz := 6, d := 4, bv := true },
    .feset h64 { moB with sz := 2, d := 0 }, .feset h64 { moB with sz := 0 }, .pf h64 { moB with sz := 0, d := 0, ix := 1, b := 2 },
    .pf h96 { moB with sz := 0, d := 0, ord := 1 }] : List Instr).all (!legal ·) = true := by decide
/-- 07 R160, 08 R186 to R188. -/
theorem test_wf_spiral_and_order : ([.spdist h64 6 4 false .rot 0, .sppull h96 8 (.imm 65536), .sppull h64 8 (.imm 4), .fence h64 3 1, .fence h64 0 0, .fence h64 0 6,
    .atom h96 { aoB with op := 9 }, .atom h96 { aoB with kind := 1 }, .atom h96 { aoB with scope := 1 }, .atom h96 { aoB with kind := 1, scope := 6 },
    .atom h96 { aoB with e := 2 }, .atom h96 { aoB with sgn := true }, .atom h96 { aoB with nr := true }, .atom h96 { aoB with nx := true },
    .atom h96 { aoB with w64 := true }, .lr h96 { aoB with c := 0, kind := 2, scope := 3 }, .lr h96 aoB, .sc h96 { aoB with kind := 1, scope := 3 },
    .sc h96 { aoB with d := 8 }] : List Instr).all (!legal ·) = true := by decide
/-- 09 R199, 10 R225, R226. -/
theorem test_wf_sync_and_async : ([.barinit h64 4 5 true false, .barinit h64 4 0 true true, .bararv h64 6 4 0 false 0, .bararv h64 6 4 129 false 0,
    .bararv h64 6 4 3 true 0, .barwt h64 8 4 5 6 0, .lkacq h64 4 6, .chsend h64 4 6 7, .cvsign h64 9 8 false, .xcopy h128 { xoB with q := 64 },
    .xcopy h128 { xoB with f := { xoB.f with esz := 5 } }, .xcopy h128 { xoB with f := { xoB.f with rb := 1 } }, .xgath h128 { xoB with f := { xoB.f with esz := 0 } },
    .xcoll h128 { xoB with f := { xoB.f with esz := 0 } }, .xcoll h128 { xoB with f := { xoB.f with esz := 0, k := 1, cop := 3 } },
    .xcopy h128 { xoB with d := 16 }, .xfill h128 { xoB with f := { xoB.f with esz := 4 } }, .qput h96 2 4 9 false 0, .fwait h64 9 2 4]
    : List Instr).all (!legal ·) = true := by decide
/-- 11 R237 to R240. -/
theorem test_wf_matrix : ([.mplane h128 4 5 0 0 1 3 0, .mplane h128 4 5 0 257 1 3 0, .mplane h128 4 5 0 1 0 3 0, .mplane h128 4 5 1 1 1 3 0,
    .mplane h128 4 5 0 1 1 7 0, .mplane h128 4 5 0 1 1 3 1, .mma h128 { mmB with f := { mmB.f with n := 0 } }, .mma h128 { mmB with f := { mmB.f with n := 257 } },
    .mma h128 { mmB with c := 8 }, .mma h128 { mmB with f := { mmB.f with shp := true, ws := 1 } }, .mma h128 { mmB with f := { mmB.f with sat := true } },
    .mwld h128 { mmB with f := { mmB.f with acc := true }, set := 1 }, .mwld h128 { mmB with c := 3 }, .mwld h128 { mmB with f := { mmB.f with en := 3 } },
    .macz h64 0 0, .macz h64 3 1, .macrd h128 { mmB with f := { mmB.f with row := 255, n := 2 } }, .macrd h128 { mmB with f := { mmB.f with fmt := 5, sat := true } },
    .macrd h128 { mmB with f := { mmB.f with fmt := 7, rm := 1 } }, .macwr h128 { mmB with f := { mmB.f with fmt := 3 } }, .mchain h64 3, .mstat h64 4 1 true]
    : List Instr).all (!legal ·) = true := by decide
/-- 12 R270, R273, 14 R324 to R327. -/
theorem test_wf_work_and_system : ([.launch h96 3 6 64 0 false false false 1, .launch h96 3 6 2 1 false false false 1, .launch h96 16 6 2 0 false false false 1,
    .wtake h64 8 5 1 1, .wtake h64 8 5 1 8, .sread h64 2 2 0, .sread h64 2 3 3, .sread h64 2 32 3, .swriteNcw h64 4 16, .pmrd h64 4 8, .pmrd h64 4 144,
    .sleep h64 (.imm 4), .trap { h64 with u := true } 0] : List Instr).all (!legal ·) = true := by decide
/-- 13 R287, R289, R290, R295. -/
theorem test_wf_stack : ([.sAdd h64 i32 ⟨64, vr 2, vr 3, .none, 0⟩, .sAdd { h64 with u := true } i32 ⟨1, vr 2, vr 3, .none, 0⟩,
    .sAdd { h64 with pr := 4 } i32 ⟨1, vr 2, vr 3, .none, 0⟩, .sAdd h64 ⟨false, 0, .i64⟩ ⟨2, vr 4, vr 6, .none, 0⟩, .sAdd h64 i32 ⟨1, .sca 2, vr 3, .none, 0⟩,
    .sAdd h64 i32 ⟨1, .vec 2 ⟨.rot, 1⟩, vr 3, .none, 0⟩, .sAdd h64 ⟨true, 0, .i64⟩ ⟨32, .sca 2, .sca 3, .none, 0⟩, .sAdd h128 i32 ⟨1, vr 2, vr 3, .none, 0⟩,
    .sFadd h64 ⟨false, false, 0, .f64⟩ ⟨1, vr 2, vr 3, .none, 0⟩, .sFmin h64 ⟨false, false, 1, .f32⟩ ⟨1, vr 2, vr 3, .none, 0⟩,
    .sBra h96 4 0, .sBra { h96 with pr := 1 } 0 0, .loop h96 32 0, .sExit { h64 with pr := 1 }, .waitev h64 10 11 4, .srd h64 9 10 false false,
    .srd h64 9 7 true false, .sCmp h64 i32 ⟨4, vr 2, vr 3, .none, 0⟩, .sSel h64 i32 ⟨1, vr 2, vr 3, .none, 0⟩ 4, .sMovi h128 i32 ⟨1, .imm 0, .none, .none, 0⟩,
    .sFcvt h96 1 2 ⟨false, 0, 1, 0⟩, .rld h64 4 5 128, .rldx h64 ⟨4, 5, 6, 0, 0, false, 0⟩, .ratom h64 5 0 4 5 0 7, .vred h64 true 3 .i32 4 5,
    .ldk h64 ⟨4, 5, 0, 0, 5, false, 0⟩, .stk h64 ⟨4, 5, 0, 0, 1, false, 0⟩, .post h64 8 6 7 0, .post h64 8 6 7 255] : List Instr).all (!legal ·) = true := by decide
/-- Events have no encoding. -/
theorem test_wf_events : ([.resolve, .shoot, .laneRepair 0 .stop, .resultCommit 1 0] : List Instr).all (fun i => !legal i && encode i == 0) = true := by decide
/-- The words used above are legal in themselves. -/
theorem test_wf_accepts : ([.ld h64 moB, .atom h96 aoB, .xcopy h128 xoB, .mma h128 mmB, .iadd h64 i32 ⟨1, vr 2, vr 3, .none, 0⟩] : List Instr).all legal = true := by
  decide

/-! ### The states of the witnesses -/

/-- Bytes of a number, those that are not 0. -/
def cellsOf (a n v : Nat) : List Host.Cell := (leCells a n v).filter fun c => c.2 != 0

/-- Memory: the descriptor of context 0 (14 R315), its page tables, which map the lowest GiB onto itself, and the headers of queues 0 to 2:
a dispatcher's, a copy engine's, and a full one; then records 0 to 2 of the completion ring: valid, pending, and of a later allocation. -/
def wMem : List Host.Cell :=
  cellsOf 0x1000 64 (0x2000 + 2 ^ 64 * 0x10000 + 2 ^ 128 * 0x20000 + 2 ^ 192 * 0x8000 + 2 ^ 256 * 0xC000 + 2 ^ 368 * 7 + 2 ^ 392 * 3 +
    2 ^ 400 * 4 + 2 ^ 408 * 4 + 2 ^ 416 * 0x1000 + 2 ^ 448 * 0x100000) ++
  cellsOf 0x2000 8 0x3001 ++ cellsOf 0x3000 8 0x4001 ++ cellsOf 0x4000 8 0xE3 ++
  cellsOf 0x10000 32 (0x18000 + 2 ^ 192 * 6) ++ cellsOf 0x10040 32 (0x14000 + 2 ^ 64 + 2 ^ 128 + 2 ^ 192 * 6 + 2 ^ 204) ++
  cellsOf 0x10080 32 (0x14000 + 2 ^ 64 * 64 + 2 ^ 192 * 6 + 2 ^ 204) ++
  cellsOf 0x20000 8 (2 ^ 32 + 1) ++ cellsOf 0x20020 8 (2 ^ 32) ++ cellsOf 0x20040 8 (2 ^ 33)

/-- A group of which every lane is ready at 0; p1 to p7 hold lane 0 alone. -/
def wG : Group :=
  { id := 3, team := 2, gid := 0, core := 0, slot := 0, res := .resident, nv := 256, ns := 192,
    vregs := .replicate 256 (.uni 0), sregs := .replicate 192 0, preds := .replicate 8 1, hnds := .replicate 16 0,
    pcv := .replicate 128 0, lanes := .replicate 128 .ready,
    freed := 0, donem := BitVec.allOnes 128, spoob := false, spooba := 0, friv := 12, sbchk := false, trapc := 0, fpf := 0, fair := 0,
    rot := none, rotReq := false, prev := 0, woken := 0, nextIssue := 0, ibuf := some 0, iblk := [], retp := [], pend := [], obq := [],
    engines := [], trap := none, preempt := none, gangAbort := false, hidden := false, lastIssue := 0, idle := false,
    priv := privStart, ended := none, img := none, adv := [], room := 0, untracked := false, later := [] }
def wT : Team :=
  { id := 2, grid := 1, teamid := 0, cluster := 0, crank := 0, ctag := 5, core := 0, base := 0, size := 4096, pwr := 0, win := [], full := [],
    cvs := .replicate 8 emptyCv, bankq := [], groups := 1, left := 1, bad := false, saved := false, area := none }
/-- Its grid, of context 0; the header gives a code segment of 256 bytes at 0x30000. -/
def wK : Grid :=
  { id := 1, gridid := 7, ctx := 0, q := 0, die := 0, seqno := 0, hdr := toWords 8 (2 ^ 209 + 2 ^ 416 * 256 + 2 ^ 448 * 0x30000), pkt := [], stack := false, next := 1, good := 0, gone := 0,
    ending := none, gang := false, acks := [], ends := [], aborted := false, sentAt := 0, remote := none, tasks := [], ffa := 0, quiet := false,
    wait := none }
def wMd : Module := { Module.reset with ctxbase := 0x1000, ctxcnt := 1 }
/-- The group executes. -/
def wAt (g : Group) (t : Team) : State :=
  { State.reset with cur := .group 3, nextId := 4, groups := [g], teams := [t], grids := [wK], dram := wMem, md := wMd }
def wS : State := wAt wG wT


theorem flush_of_none (g : Group) (t : Nat) (h : g.pend = []) : g.flush t = g := by
  obtain ⟨⟩ := g
  simp only at h
  subst h
  rfl
theorem wAt_cur (g : Group) (t : Team) (h : (g.id, g.res, g.trap, g.pend) = (3, .resident, none, [])) : (wAt g t).curGrp? = some g := by
  simp only [Prod.mk.injEq] at h
  obtain ⟨h1, h2, h3, h4⟩ := h
  have : (wAt g t).grp? 3 = some g := by simp [State.grp?, wAt, h1]
  simp [State.curGrp?, show (wAt g t).cur = .group 3 from rfl, this, h2, h3, flush_of_none g _ h4]

theorem wAt_team (g : Group) (t : Team) (h : t.id = 2) : (wAt g t).team? 2 = some t := by simp [State.team?, wAt, h]
theorem wAt_grp (g : Group) (t : Team) (h : g.id = 3) : (wAt g t).grp? 3 = some g := by simp [State.grp?, wAt, h]

theorem wG_issueAddr : wG.issueAddr = some 0 := by decide +kernel
theorem wG_lanesAt : wG.lanesAt 0 = BitVec.allOnes 128 := by decide +kernel

/-- What of a group the next theorem rests on. -/
abbrev Stands (g : Group) : Prop :=
  g.pcv = wG.pcv ∧ g.lanes = wG.lanes ∧ g.rot = none ∧ g.preds = wG.preds ∧ g.pend = [] ∧ g.sbchk = false ∧ g.yielding = false
theorem stands_at {g : Group} (h : Stands g) : g.lanesAt 0 = BitVec.allOnes 128 ∧ g.issueAddr = some 0 := by
  obtain ⟨h1, h2, h3, h4, h5, h6, h7⟩ := h
  refine ⟨?_, ?_⟩
  · rw [← wG_lanesAt]; simp only [Group.lanesAt, h1, h2]
  · rw [← wG_issueAddr]; simp only [Group.issueAddr, h3, Group.readyMask, Group.minPc, h1, h2, show wG.rot = none from rfl]
/-- A group whose lanes stand as those of wG issues `i`. -/
theorem issues_of {s : State} {g : Group} (i : Instr) (hc : s.curGrp? = some g) (hg : Stands g)
    (hi : (((hdrOf i).u && g.notUniform i.reads) || g.badIdx (i.reads ++ i.writes)) = false) : Issues i s g 0 := by
  have ha := (stands_at hg).2
  obtain ⟨h1, h2, h3, h4, h5, h6, h7⟩ := hg
  simp only [Bool.or_eq_false_iff] at hi
  exact ⟨hc, ha, by simp [h7], by simp [Group.interlocked, h5], hi.2, hi.1, by simp [Group.stallShort, h6]⟩
/-- The lanes that issue: all, those that p0 or another predicate gives. -/
theorem act_of {g : Group} (i : Instr) (hg : Stands g) (hn : (hdrOf i).neg = false) :
    actOf i g 0 = if unpredicated i || (hdrOf i).pr == 0 then BitVec.allOnes 128 else 1 := by
  have hl := (stands_at hg).1
  obtain ⟨h1, h2, h3, h4, h5, h6, h7⟩ := hg
  have hp : ∀ r, nth wG.preds r = 1 := by intro r; simp [wG, nth]
  simp only [actOf, Group.active, hl, hn, Group.p, h4, hp]
  by_cases hu : unpredicated i = true
  · simp [hu]
  · by_cases h0 : (hdrOf i).pr = 0 <;> simp [hu, h0]
/-- Such a group issues `i` with an active lane. -/
theorem acts_of {s : State} {g : Group} (i : Instr) (hc : s.curGrp? = some g) (hg : Stands g)
    (hi : (((hdrOf i).u && g.notUniform i.reads) || (hdrOf i).neg || g.badIdx (i.reads ++ i.writes)) = false) : Acts i s g 0 := by
  simp only [Bool.or_eq_false_iff] at hi
  refine ⟨issues_of i hc hg (by simp [hi]), .inl ?_⟩
  rw [act_of i hg hi.1.2]
  split <;> decide

/-- Instructions that are well formed and issue in the executing group g of the witness states. -/
def fit (g : Group) (i : Instr) : Bool :=
  legal i && !i.onStack && !(((hdrOf i).u && g.notUniform i.reads) || (hdrOf i).neg || g.badIdx (i.reads ++ i.writes))
theorem fits_in {s : State} {g : Group} {i : Instr} (h : fit g i = true) (hc : s.curGrp? = some g) (hs : Stands g) : i.WfCore ∧ Acts i s g 0 := by
  simp only [fit, Bool.and_eq_true, Bool.not_eq_true', Bool.or_eq_false_iff] at h
  obtain ⟨⟨h1, h2⟩, ⟨h3, h4⟩, h5⟩ := h
  exact ⟨⟨h1, h2⟩, acts_of i hc hs (by simp [h3, h4, h5])⟩
theorem fits {g : Group} {t : Team} {i : Instr} (h : fit g i = true) (hg : (g.id, g.res, g.trap) = (3, .resident, none)) (hs : Stands g) :
    i.WfCore ∧ Acts i (wAt g t) g 0 := by
  simp only [Prod.mk.injEq] at hg
  exact fits_in h (wAt_cur g t (by simp [hg, hs.2.2.2.2.1])) hs
/-- In the plain state. -/
theorem fits0 {i : Instr} (h : fit wG i = true) : i.WfCore ∧ Acts i wS wG 0 := fits h rfl ⟨rfl, rfl, rfl, rfl, rfl, rfl, rfl⟩

/-- The issue of `i`, with its active lanes written out. -/
def wC (g : Group) (i : Instr) : Issue :=
  { g, a := 0, lns := BitVec.allOnes 128, act := if unpredicated i || (hdrOf i).pr == 0 then BitVec.allOnes 128 else 1, size := i.size, h := hdrOf i }
theorem path_of {g : Group} (h : g.prev = 0 ∧ g.woken = 0) : g.pathChange 0 = false := by simp [Group.pathChange, h.1, h.2, lanesOf]
/-- In a state whose only group is g the meaning begins in that state. -/
theorem start_of {s : State} {g : Group} (h : g.prev = 0 ∧ g.woken = 0) (hs : s.groups = [g]) : startOf s g 0 = s ∧ g.onPath 0 = g := by
  have e : g.onPath 0 = g := by rw [Group.onPath, path_of h]; rfl
  refine ⟨?_, e⟩
  simp only [startOf, State.path, path_of h, e, Bool.false_eq_true, if_false]
  obtain ⟨⟩ := s
  simp only at hs
  simp [State.setGrp, hs]
theorem issueOf_of {g : Group} (i : Instr) (hg : Stands g) (h : g.prev = 0 ∧ g.woken = 0) (hn : (hdrOf i).neg = false) : issueOf i g 0 = wC g i := by
  simp only [issueOf, wC, act_of i hg hn, (stands_at hg).1, Group.onPath, path_of h, Bool.false_eq_true, if_false]
/-- Both for an instruction that fits. -/
theorem at_of {s : State} {g : Group} {i : Instr} (hf : fit g i = true) (hg : Stands g) (h : g.prev = 0 ∧ g.woken = 0) (hs : s.groups = [g]) :
    startOf s g 0 = s ∧ g.onPath 0 = g ∧ issueOf i g 0 = wC g i ∧ actOf i g 0 = (wC g i).act := by
  have hn : (hdrOf i).neg = false := by simp [fit] at hf; exact hf.2.1.2
  exact ⟨(start_of h hs).1, (start_of h hs).2, issueOf_of i hg h hn, act_of i hg hn⟩

/-! ### Witnesses: states and operands that meet the hypotheses of the statements -/

def o2 : Ops := ⟨4, vr 6, vr 8, .none, 0⟩
def o3 : Ops := ⟨4, vr 6, vr 8, vr 10, 0⟩
def o1 : Ops := ⟨4, vr 6, .none, .none, 0⟩

/-- Every instruction of the row, lane-wise; then a pair, a scalar form, a pattern, U, and a predicate. -/
def wInts : List Instr :=
  [.iadd h64 i32 o2, .isub h64 i32 o2, .imul h64 i32 o2, .imulh h64 i32 o2, .imad h64 i32 o3, .imin h64 i32 o2, .imax h64 i32 o2,
   .iabs h64 i32 o1, .shl h64 i32 o2, .shr h64 i32 o2, .sra h64 i32 o2, .and h64 i32 o2, .or h64 i32 o2, .xor h64 i32 o2, .andn h64 i32 o2,
   .popc h64 i32 o1, .clz h64 i32 o1, .brev h64 i32 o1, .bfx h64 i32 o3, .lea h96 i32 ⟨4, .sca 6, vr 8, .imm 0x10, 0⟩, .mov h64 i32 o1,
   .movi h128 ⟨false, 0, .i64⟩ ⟨4, .imm 5, .none, .none, 0⟩, .iadd h64 ⟨false, 0, .n64⟩ o2, .iadd h64 ⟨true, 0, .i64⟩ ⟨4, .sca 6, .sca 191, .none, 0⟩,
   .iadd h96 i32 ⟨255, .vec 6 ⟨.rot, 127⟩, vr 0, .none, 0⟩, .iadd { h64 with u := true, pr := 7 } i32 o2]
theorem witness_IntegerResults : ∀ i ∈ wInts, (intRow i).isSome ∧ i.WfCore ∧ Acts i wS wG 0 :=
  fun i hi => ⟨(by decide : ∀ i ∈ wInts, (intRow i).isSome) i hi, fits0 ((by decide : ∀ i ∈ wInts, fit wG i = true) i hi)⟩

theorem witness_InsertionResults : ∀ i ∈ [Instr.bfi h64 i32 o3, .movw h96 i32 4 0xBEEF 1, .movw h96 ⟨true, 0, .i32⟩ 4 0xBEEF 0],
    (insertion wG i).isSome ∧ i.WfCore ∧ Acts i wS wG 0 := by
  intro i hi
  exact ⟨(by decide : ∀ i ∈ [Instr.bfi h64 i32 o3, .movw h96 i32 4 0xBEEF 1, .movw h96 ⟨true, 0, .i32⟩ 4 0xBEEF 0], (insertion wG i).isSome) i hi,
    fits0 ((by decide : ∀ i ∈ [Instr.bfi h64 i32 o3, .movw h96 i32 4 0xBEEF 1, .movw h96 ⟨true, 0, .i32⟩ 4 0xBEEF 0], fit wG i = true) i hi)⟩

/-- All of a list are well formed and act. -/
def AllAct (is : List Instr) : Prop := ∀ i ∈ is, i.WfCore ∧ Acts i wS wG 0
theorem all_act {is : List Instr} (h : is.all (fit wG) = true) : AllAct is := fun i hi => fits0 (List.all_eq_true.1 h i hi)

theorem witness_SelectAndCompareResults : AllAct [.isel h64 i32 o2 1, .icmp h64 ⟨false, 5, .i32⟩ ⟨7, vr 6, vr 8, .none, 0⟩,
    .icmp { h64 with u := true } i32 ⟨0, vr 6, vr 8, .none, 0⟩, .plop h96 1 2 3 0 0xCA, .plop h96 0 2 3 7 0] := all_act (by decide)

theorem witness_LanesCombineAndSpread : AllAct [.perm h64 true o2, .perm h64 false o2, .vote h64 0 5 3, .vote h64 1 5 3, .vote h64 2 0 3,
    .vote h64 3 191 3, .red h64 0 .i32 o1, .scan h64 true 5 .n64 o1, .bcast h64 false false false 5 6 .rot 127, .bcast h64 true true true 6 4 .id 7,
    .shape h64 0 5 ⟨6, .id, 0⟩, .shape h64 1 5 ⟨6, .mir, 0⟩, .shape h64 0 5 ⟨6, .bcs, 3⟩, .shape h64 2 5 ⟨0, .id, 0⟩, .packl h64 false true o1 9, .packl h64 true false o1 0] := all_act (by decide)

def ff (f : FTy) : FFn := ⟨false, false, 0, f⟩
def wFloats : List Instr :=
  [.fadd h64 (ff .f32) o2, .fsub h64 (ff .f16) o2, .fmul h64 (ff .bf16) o2, .ffma h64 ⟨true, true, 3, .f64⟩ o3, .fmin h64 (ff .f32) o2,
   .fmax h64 (ff .f64) o2, .frcp h64 (ff .f32) o1, .fsqrt h64 (ff .f32) o1, .frsq h64 (ff .f32) o1, .fexp2 h64 (ff .f32) o1,
   .flog2 h64 (ff .f16) o1, .fsin h64 (ff .f32) o1, .fcos h64 (ff .f32) o1, .ftanh h64 (ff .f32) o1, .fround h64 (ff .f64) o1,
   .fadd { h64 with u := true } f32 o2, .fadd h96 f32 ⟨4, .vec 6 ⟨.mir, 0⟩, vr 8, .none, 0⟩]
theorem witness_FloatResults : ∀ i ∈ wFloats, (floatRow i).isSome ∧ i.WfCore ∧ Acts i wS wG 0 :=
  fun i hi => ⟨(by decide : ∀ i ∈ wFloats, (floatRow i).isSome) i hi, fits0 ((by decide : ∀ i ∈ wFloats, fit wG i = true) i hi)⟩
theorem witness_ExactThenRounded : Num.rat (fv 0x3F800000 .fp32) = some 1 ∧ Num.rat (fv 0xC0000000 .fp32) = some (-2) ∧
    Num.rat (fv 0x00000001 .fp32) = some (2 ^ (-149 : Int)) := by decide +kernel
theorem witness_RoundingAndComparing : ((0x7F7FFFFF < 2 ^ Fmt.fp32.bits ∧ (Num.rat (fv 0x7F7FFFFF .fp32)).isSome) ∧
    (Num.rat (fv ((round (.fin false 3 (-1)) .fp32 .rz).1 + 1) .fp32)).isSome) ∧ (fv 0x7FC00000 .fp32).isNan = true ∧
    (fv 0x7F800000 .fp32).isNan = false ∧ (fv 0 .fp32).isNan = false := by decide +kernel
theorem witness_FloatSideResults : AllAct [.fcmp h64 7 .f64 ⟨2, vr 6, vr 8, .none, 0⟩, .fcmpRflg h64 9, .fcmpCflg h64 9,
    .fcvt h96 4 6 .id 0 ⟨true, 0, 0, 4⟩, .fcvt h96 4 6 .bcs 9 ⟨false, 4, 2, 4⟩, .dqnt h64 3 false 2 4 6 .id 8, .amax h64 true .bf16 4 6 .bck 0] ∧ wG.fpOpen = false :=
  ⟨all_act (by decide), rfl⟩

/-! ### Issue and control -/

theorem witness_IssueAddressIsLeastReadyPc : wG.rot = none ∧ wG.issueAddr = some 0 := ⟨rfl, wG_issueAddr⟩
/-- An IADD under ~p0. -/
def noLane : Instr := .iadd { h64 with neg := true } i32 o2
theorem stands0 : Stands wG := ⟨rfl, rfl, rfl, rfl, rfl, rfl, rfl⟩
/-- An instruction under ~p0 has no active lane. -/
theorem none_act (i : Instr) (h : (unpredicated i, (hdrOf i).neg, (hdrOf i).pr) = (false, true, 0)) : actOf i wG 0 = 0 := by
  simp only [Prod.mk.injEq] at h
  have e : actOf i wG 0 = wG.lanesAt 0 &&& ~~~wG.p 0 := by simp [actOf, Group.active, h.1, h.2.1, h.2.2]
  rw [e, wG_lanesAt, show wG.p 0 = BitVec.allOnes 128 from rfl]
  rfl
theorem witness_InactiveInstructionFallsThrough : noLane.WfCore ∧ Issues noLane wS wG 0 ∧ actOf noLane wG 0 = 0 ∧ unpredicated noLane = false :=
  ⟨⟨by decide, rfl⟩, issues_of _ (wAt_cur _ _ rfl) stands0 (by decide), none_act _ rfl, rfl⟩
/-- The inactive forms of lane movement and of the traps. -/
theorem witness_inactive : ∀ i ∈ [Instr.perm { h64 with neg := true } true o2, .vote { h64 with neg := true } 0 5 3, .red { h64 with neg := true } 0 .i32 o1,
      .scan { h64 with neg := true } true 5 .n64 o1, .bcast { h64 with neg := true } true true true 6 4 .id 7, .packl { h64 with neg := true } false true o1 9,
      .trap { h64 with neg := true } 7, .bkpt { h64 with neg := true } 7], i.WfCore ∧ Issues i wS wG 0 ∧ actOf i wG 0 = 0 := by
  intro i hi
  simp only [List.mem_cons, List.not_mem_nil, or_false] at hi
  rcases hi with rfl | rfl | rfl | rfl | rfl | rfl | rfl | rfl <;>
    exact ⟨⟨by decide, rfl⟩, issues_of _ (wAt_cur _ _ rfl) stands0 (by decide), none_act _ rfl⟩

/-! ### Checks, transfers, ends -/

/-- Groups that one check stops: a pending write of v6, fewer registers, v6 with a value a lane, a write of v6 not yet due, a request to yield. -/
def gLock : Group := { wG with pend := [⟨none, [], [.vset 6 (.uni 1)]⟩] }
def gFew : Group := { wG with nv := 8 }
def gAff : Group := { wG with vregs := put wG.vregs 6 (.aff 0 4) }
def gDue : Group := { wG with sbchk := true, pend := [⟨some 3, [], [.vset 6 (.uni 1)]⟩] }
def gYld : Group := { wG with preempt := some 0 }
theorem addr_of {g : Group} (h : g.pcv = wG.pcv ∧ g.lanes = wG.lanes ∧ g.rot = none) : g.issueAddr = some 0 := by
  rw [← wG_issueAddr]; simp only [Group.issueAddr, h.2.2, Group.readyMask, Group.minPc, h.1, h.2.1, show wG.rot = none from rfl]
theorem checked_cur : ∀ g ∈ [gLock, gFew, gAff, gDue, gYld], (wAt g wT).curGrp? = some g := by
  simp only [List.forall_mem_cons]
  exact ⟨rfl, wAt_cur _ _ rfl, wAt_cur _ _ rfl, rfl, wAt_cur _ _ rfl, fun _ h => nomatch h⟩
theorem checked_stand : ∀ g ∈ [gLock, gFew, gAff, gDue, gYld], g.pcv = wG.pcv ∧ g.lanes = wG.lanes ∧ g.rot = none := by
  simp [gLock, gFew, gAff, gDue, gYld, wG]
def iaddU : Instr := .iadd { h64 with u := true } i32 o2
theorem witness_ChecksAndSafePoints :
    (iaddU.WfCore ∧ (hdrOf iaddU).sp = false) ∧ (∀ g ∈ [gLock, gFew, gAff, gDue, gYld], (wAt g wT).curGrp? = some g ∧ g.issueAddr = some 0) ∧
    gLock.interlocked iaddU = true ∧ (∀ g ∈ [gFew, gAff, gDue], g.interlocked iaddU = false) ∧
    gFew.badIdx (iaddU.reads ++ iaddU.writes) = true ∧ (∀ g ∈ [gAff, gDue], g.badIdx (iaddU.reads ++ iaddU.writes) = false) ∧
    gAff.notUniform iaddU.reads = true ∧ gDue.notUniform iaddU.reads = false ∧
    gDue.stallShort iaddU (latency iaddU) ((wAt gDue wT).now gDue) = true ∧
    (Instr.nop { h64 with sp := true }).WfCore ∧ gYld.yielding = true := by
  refine ⟨⟨⟨by decide, rfl⟩, rfl⟩, fun g hg => ⟨checked_cur g hg, addr_of (checked_stand g hg)⟩, by decide, by decide, by decide, by decide,
    by decide, by decide, by decide, ⟨by decide, rfl⟩, rfl⟩

/-- v6 and s6 hold an address of the code segment, the last at which an instruction may begin. -/
def gTo (a : Nat) : Group := { wG with vregs := put wG.vregs 6 (.uni (.ofNat 32 a)), sregs := put wG.sregs 6 (.ofNat 64 a) }
theorem codeEnd_of (g : Group) (h : g.team = 2) : (wAt g wT).codeEnd g = 256 := by
  have : (wAt g wT).codeEnd g = (wAt wG wT).codeEnd wG := by simp only [State.codeEnd, State.grpGrid?, State.team?, State.grid?, wAt, h, show wG.team = 2 from rfl]
  rw [this]
  decide +kernel
theorem stands_to (a : Nat) : Stands (gTo a) := ⟨rfl, rfl, rfl, rfl, rfl, rfl, rfl⟩
def wJumps (imm : W32) : List Instr := [.bra { h96 with pr := 1 } imm, .brx h64 (vr 6) 0, .ret h64 (vr 6) 0, .call h96 20 imm, .callx h64 20 (vr 6) 0]
theorem witness_TransfersAndTheirTargets :
    (∀ i ∈ wJumps 248, i.WfCore ∧ Acts i (wAt (gTo 248) wT) (gTo 248) 0 ∧
      ∃ x, transferRow (gTo 248) 0 i = some x ∧ ∀ l < 128, GoodTarget ((wAt (gTo 248) wT).codeEnd (gTo 248)) (x.2 l)) ∧
    (∀ i ∈ wJumps 256, i.WfCore ∧ Acts i (wAt (gTo 256) wT) (gTo 256) 0 ∧ (actOf i (gTo 256) 0).getLsbD 0 = true ∧
      ∃ x, transferRow (gTo 256) 0 i = some x ∧ ¬ GoodTarget ((wAt (gTo 256) wT).codeEnd (gTo 256)) (x.2 0)) := by
  have e : ∀ a, (wAt (gTo a) wT).codeEnd (gTo a) = 256 := fun a => codeEnd_of (gTo a) rfl
  refine ⟨fun i hi => ?_, fun i hi => ?_⟩
  · have h := fits (t := wT) (List.all_eq_true.1 (by decide : (wJumps 248).all (fit (gTo 248)) = true) i hi) rfl (stands_to _)
    refine ⟨h.1, h.2, ?_⟩
    rw [e]
    simp only [wJumps, List.mem_cons, List.not_mem_nil, or_false] at hi
    rcases hi with rfl | rfl | rfl | rfl | rfl <;>
      exact ⟨_, rfl, fun l _ => by constructor <;> simp [GoodTarget, Group.opnd, vr, Group.xread, Group.sliceFreed, xlane, gTo, wG, Group.v, nth, put, VReg.get]⟩
  · have h := fits (t := wT) (List.all_eq_true.1 (by decide : (wJumps 256).all (fit (gTo 256)) = true) i hi) rfl (stands_to _)
    refine ⟨h.1, h.2, ?_, ?_⟩
    · rw [act_of i (stands_to _) ((by decide : ∀ i ∈ wJumps 256, (hdrOf i).neg = false) i hi)]
      split <;> decide
    · rw [e]
      simp only [wJumps, List.mem_cons, List.not_mem_nil, or_false] at hi
      rcases hi with rfl | rfl | rfl | rfl | rfl <;>
        exact ⟨_, rfl, by simp [GoodTarget, Group.opnd, vr, Group.xread, Group.sliceFreed, xlane, gTo, wG, Group.v, nth, put, VReg.get]⟩

theorem witness_YieldAndEndInstructions :
    AllAct [.nop h64, .yield h64 false, .yield h64 true, .exit { h64 with pr := 1 }, .exit h64, .tail h64] ∧ wG.core < 192 ∧
    wG.live &&& ~~~(actOf (.exit { h64 with pr := 1 }) wG 0) ≠ 0 ∧ wG.live &&& ~~~(actOf (.exit h64) wG 0) = 0 ∧
    wS.untranslated wG = false ∧ wS.trackerFull wG.core = false := by
  refine ⟨all_act (by decide), by decide, ?_, ?_, by decide +kernel, by decide +kernel⟩
  · rw [act_of _ stands0 rfl]; decide +kernel
  · rw [act_of _ stands0 rfl]; decide +kernel

/-! ### Memory -/

def setS (g : Group) (xs : List (Nat × W64)) : Group := { g with sregs := xs.foldl (fun r x => put r x.1 x.2) g.sregs }
/-- The handle of context 0 with sequence number 1 and index `n`. -/
def hnd (n : Nat) : W64 := .ofNat 64 (2 ^ 48 * 7 + 2 ^ 12 + n)
/-- Scalars: s4 a mapped address, s5 a window address, s6 a window offset, s7 a misaligned address, s8 an unmapped one, s9 and s10 the last
word of the window and the next byte, s11 to s13 a length, a private address and its length; h4 to h6 the handles of records 0 to 2. -/
def gM : Group := { setS wG [(4, 0x40000), (5, 0xFFFFF00000000040), (6, 0x40), (7, 0x40002), (8, 0x80000000), (9, 0xFFFFF00000000FFC), (10, 0x1000), (11, 2048), (12, 0xFFFFF20000000000), (13, 4), (15, 0x4F), (16, hnd 1), (17, 5), (18, 0x10000), (19, 0x8000000000000001)] with
  hnds := put (put (put wG.hnds 4 (hnd 0)) 5 (hnd 1)) 6 (hnd 2) }
theorem standsM : Stands gM := ⟨rfl, rfl, rfl, rfl, rfl, rfl, rfl⟩
def sM : State := wAt gM wT
theorem atM (s : State) {i : Instr} (h : fit gM i = true) (hs : s.groups = [gM]) :
    startOf s gM 0 = s ∧ gM.onPath 0 = gM ∧ issueOf i gM 0 = wC gM i ∧ actOf i gM 0 = (wC gM i).act := at_of h standsM ⟨rfl, rfl⟩ hs
theorem fitsM {i : Instr} (h : fit gM i = true) : i.WfCore ∧ Acts i sM gM 0 := fits h rfl standsM
def p1 (h : Hdr) : Hdr := { h with pr := 1 }
def mo : MemOp := ⟨12, 4, .id, 0, .id, 4, false, 0, 0, false, 0, false, 0⟩

/-- Targets that have their place. -/
def placed (s : State) (ts : Tgts) : Bool :=
  ts.all fun t => match t.2.2 with
    | .pad .. | .oob => true
    | .mem ps _ => ps.all fun p => !s.dieDown (homeDie p.1)
    | _ => false
theorem placed_of {s : State} {ts : Tgts} (h : placed s ts = true) : Placed s ts := by
  intro t ht
  have := List.all_eq_true.1 h t ht
  split <;> simp_all
  assumption

def wMems : List (Instr × MemOp × Bool × AccKind) :=
  [(.ld (p1 h64) mo, mo, false, 0), (.ld h64 { mo with a := 5 }, { mo with a := 5 }, false, 0), (.ld (p1 h96) { mo with sz := 6, a := 5 }, { mo with sz := 6, a := 5 }, false, 0),
   (.ld (p1 h96) { mo with a := 9, ord := 3, far := true }, { mo with a := 9, ord := 3, far := true }, false, 0), (.lds (p1 h64) { mo with a := 6 }, { mo with a := 6 }, true, 0), (.lds (p1 h64) { mo with a := 10 }, { mo with a := 10 }, true, 0),
   (.st (p1 h64) mo, mo, false, 1), (.st (p1 h64) { mo with a := 9 }, { mo with a := 9 }, false, 1), (.sts (p1 h64) { mo with a := 6, sz := 5 }, { mo with a := 6, sz := 5 }, true, 1)]
theorem witness_VectorAccessesEnterQueue : ∀ x ∈ wMems, vecMemRow x.1 = some x.2 ∧ x.1.WfCore ∧ x.2.1.fe = 0 ∧ Acts x.1 sM gM 0 ∧
    Placed sM (memTgts x.1 sM gM 0 x.2.1 x.2.2.1 x.2.2.2) := by
  intro x hx
  have f := List.all_eq_true.1 (by decide : wMems.all (fun x => fit gM x.1) = true) x hx
  have h := fitsM f
  refine ⟨(by decide : ∀ x ∈ wMems, vecMemRow x.1 = some x.2) x hx, h.1, (by decide : ∀ x ∈ wMems, x.2.1.fe = 0) x hx, h.2, placed_of ?_⟩
  rw [memTgts, (atM sM f rfl).1, (atM sM f rfl).2.2.1]
  exact (by decide +kernel : ∀ x ∈ wMems, placed sM (sM.tgts (wC gM x.1) x.2.2.2 true (memAdr x.2.1 x.2.2.1 (log2Size x.2.1.sz)) (szBytes x.2.1.sz)) = true) x hx

def ldBad : Instr := .ld (p1 h64) { mo with a := 7 }
def ldMiss : Instr := .ld (p1 h64) { mo with a := 8 }
theorem ldBad_tgts : memTgts ldBad sM gM 0 { mo with a := 7 } false 0 = [(0, .ea 0x40002, .prot)] := by
  rw [memTgts, (atM sM (i := ldBad) (by decide) rfl).1, (atM sM (i := ldBad) (by decide) rfl).2.2.1]
  decide +kernel
theorem ldMiss_tgts : memTgts ldMiss sM gM 0 { mo with a := 8 } false 0 = [(0, .ea 0x80000000, .fault (.fail 0 0x80000000 0x40000000))] := by
  rw [memTgts, (atM sM (i := ldMiss) (by decide) rfl).1, (atM sM (i := ldMiss) (by decide) rfl).2.2.1]
  decide +kernel
theorem witness_BadAndUnmappedAddresses :
    (vecMemRow ldBad = some ({ mo with a := 7 }, false, 0) ∧ ldBad.WfCore ∧ Acts ldBad sM gM 0 ∧
      ((memTgts ldBad sM gM 0 { mo with a := 7 } false 0).find? fun t => t.2.2 == .prot) = some (0, .ea 0x40002, .prot)) ∧
    vecMemRow ldMiss = some ({ mo with a := 8 }, false, 0) ∧ ldMiss.WfCore ∧ mo.xa = .id ∧ mo.xb = .id ∧ Acts ldMiss sM gM 0 ∧
    (∀ t ∈ memTgts ldMiss sM gM 0 { mo with a := 8 } false 0, t.2.2 = .fault (.fail 0 0x80000000 0x40000000) ∨ Placed sM [t]) ∧
    ((memTgts ldMiss sM gM 0 { mo with a := 8 } false 0).find? fun t => t.2.2 == .fault (.fail 0 0x80000000 0x40000000)) =
      some (0, .ea 0x80000000, .fault (.fail 0 0x80000000 0x40000000)) := by
  have h := fitsM (i := ldBad) (by decide)
  have k := fitsM (i := ldMiss) (by decide)
  rw [ldBad_tgts, ldMiss_tgts]
  exact ⟨⟨rfl, h.1, h.2, by decide⟩, rfl, k.1, rfl, rfl, k.2, by simp, by decide⟩

def wUnis : List (Instr × MemOp × AccKind) :=
  [(.ldu (p1 h64) mo, mo, 0), (.ldu h64 { mo with a := 5, bv := true, sz := 5 }, { mo with a := 5, bv := true, sz := 5 }, 0), (.ldu h64 { mo with a := 9 }, { mo with a := 9 }, 0),
   (.stu h64 mo, mo, 1), (.stu (p1 h64) { mo with a := 5, bv := true }, { mo with a := 5, bv := true }, 1)]
theorem witness_UniformAccessesEnterQueue : ∀ x ∈ wUnis, x.1.WfCore ∧ x.2.1.fe = 0 ∧ Acts x.1 sM gM 0 ∧
    Placed sM ((startOf sM gM 0).oneTgt (issueOf x.1 gM 0) x.2.2 x.2.1 (szBytes x.2.1.sz)) := by
  intro x hx
  have f := List.all_eq_true.1 (by decide : wUnis.all (fun x => fit gM x.1) = true) x hx
  have h := fitsM f
  refine ⟨h.1, (by decide : ∀ x ∈ wUnis, x.2.1.fe = 0) x hx, h.2, placed_of ?_⟩
  rw [(atM sM f rfl).1, (atM sM f rfl).2.2.1]
  exact (by decide +kernel : ∀ x ∈ wUnis, placed sM (sM.oneTgt (wC gM x.1) x.2.2 x.2.1 (szBytes x.2.1.sz)) = true) x hx

def ao : AtomOp := ⟨0, 0, 12, 4, .id, 0, .id, 14, 0, false, false, false, false, 0, 0, false, 0⟩
def wAtoms : List (Instr × AtomOp × Bool × AccKind) :=
  [(.atom (p1 h96) ao, ao, false, 2), (.atom (p1 h96) { ao with op := 7, e := 16, w64 := true, sgn := false, kind := 3, scope := 5 }, { ao with op := 7, e := 16, w64 := true, sgn := false, kind := 3, scope := 5 }, false, 2),
   (.atom (p1 h96) { ao with nr := true, d := 0, a := 5 }, { ao with nr := true, d := 0, a := 5 }, false, 2), (.atoms (p1 h96) { ao with a := 6 }, { ao with a := 6 }, true, 2),
   (.atom (p1 h96) { ao with op := 2, c := 14, w64 := true, a := 12 }, { ao with op := 2, c := 14, w64 := true, a := 12 }, false, 2),
   (.lr (p1 h96) { ao with c := 0 }, { ao with c := 0 }, false, 0), (.lr (p1 h96) { ao with c := 0, a := 5, kind := 1, scope := 2 }, { ao with c := 0, a := 5, kind := 1, scope := 2 }, false, 0)]
theorem witness_AtomicsEnterQueue : ∀ x ∈ wAtoms, atomRow x.1 = some x.2 ∧ x.1.WfCore ∧ Acts x.1 sM gM 0 ∧ gM.rot = none ∧
    Placed sM (atomTgts x.1 sM gM 0 x.2.1 x.2.2.1 x.2.2.2) := by
  intro x hx
  have f := List.all_eq_true.1 (by decide : wAtoms.all (fun x => fit gM x.1) = true) x hx
  have h := fitsM f
  have k := (by decide +kernel : ∀ x ∈ wAtoms, placed sM (sM.tgts (wC gM x.1) x.2.2.2 true (atomAdr x.2.1 x.2.2.1) (atomBytes x.2.1)) = true) x hx
  rw [atomTgts, (atM sM f rfl).1, (atM sM f rfl).2.2.1]
  exact ⟨(by decide : ∀ x ∈ wAtoms, atomRow x.1 = some x.2) x hx, h.1, h.2, rfl, placed_of k⟩

/-- A group whose lane 0 holds a reservation on the block of s4. -/
def sR : State := sM.setCore 0 { sM.core 0 with resv := [⟨3, 0, .mem 0x40000 0, 1, 0x40000⟩] }
def scOf (a : Nat) : AtomOp := { ao with d := 2, c := 14, kind := 2, scope := 5, a }
def scTgts (a : Nat) : Tgts := sR.tgts (wC gM (.sc (p1 h96) (scOf a))) 2 true (atomAdr (scOf a) false) 4
theorem sc_tgts : ∀ a ∈ [4, 5], fit gM (.sc (p1 h96) (scOf a)) = true ∧ placed sR (scTgts a) = true ∧
    ((scTgts a).filter fun t => holdsBlock sR gM t && t.2.2 != .oob).length = (if a = 4 then 1 else 0) := by decide +kernel
theorem witness_ConditionalStoresNeedReservation : ∀ a ∈ [4, 5], let i := Instr.sc (p1 h96) (scOf a)
    i.WfCore ∧ Acts i sR gM 0 ∧ (∀ e ∈ gM.obq, e.kind = .lr → e.stage = .done) ∧ Placed sR (atomTgts i sR gM 0 (scOf a) false 2) ∧
    ((atomTgts i sR gM 0 (scOf a) false 2).filter fun t => holdsBlock (startOf sR gM 0) gM t && t.2.2 != .oob).length = (if a = 4 then 1 else 0) := by
  intro a ha i
  obtain ⟨f, k⟩ := sc_tgts a ha
  have h : atomTgts i sR gM 0 (scOf a) false 2 = scTgts a := by rw [atomTgts, (atM sR f rfl).1, (atM sR f rfl).2.2.1]; rfl
  have c := fits_in (s := sR) f (wAt_cur gM wT rfl : sR.curGrp? = some gM) standsM
  rw [h, (atM sR f rfl).1]
  exact ⟨c.1, c.2, (by simp [gM, setS, wG]), placed_of k.1, k.2⟩

/-- A window whose first 8 granules are full. -/
def tF : Team := { wT with full := [0, 1, 2, 3, 4, 5, 6, 7], win := [(0x40, 7)] }
def sF : State := wAt gM tF
def feOf (n : Nat) (sz a : Nat) : MemOp := { mo with fe := n, sz, a }
def atBanks (s : State) (g : Group) (ts : Tgts) (acq : Nat) (fc : Bool) : Bool :=
  ts.all fun t => match t.2.2 with
    | .pad tm o => s.padFree g (.pad tm (o / 16 * 16)) 16 acq 0 (.feload fc) && s.granFull (tm, o / 16) && s.granSeen g (tm, o / 16)
    | _ => false
theorem atBanks_of {s : State} {g : Group} {ts : Tgts} {q : Nat} {b : Bool} (h : atBanks s g ts q b = true) : AtBanks s g ts q b := by
  intro t ht
  have := List.all_eq_true.1 h t ht
  split <;> simp_all
def inWindows (ts : Tgts) : Bool := ts.all fun t => match t.2.2 with
  | .pad .. | .oob => true
  | _ => false
theorem inWindows_of {ts : Tgts} (h : inWindows ts = true) : InWindows ts := by
  intro t ht
  have := List.all_eq_true.1 h t ht
  split <;> simp_all
def wFes : List (Instr × MemOp × Bool × AccKind) :=
  [(.ld (p1 h96) (feOf 1 4 5), feOf 1 4 5, false, 0), (.ld (p1 h96) (feOf 2 5 5), feOf 2 5 5, false, 0), (.lds (p1 h96) (feOf 2 4 6), feOf 2 4 6, true, 0)]
theorem fitsF {i : Instr} (h : fit gM i = true) : i.WfCore ∧ Acts i sF gM 0 := fits h rfl standsM
def lduF : Instr := .ldu h96 (feOf 2 4 5)
theorem witness_FullEmptyLoadsTakeFullGranules :
    (∀ x ∈ wFes, vecMemRow x.1 = some x.2 ∧ x.1.WfCore ∧ x.2.1.fe ≠ 0 ∧ Acts x.1 sF gM 0 ∧
      AtBanks (startOf sF gM 0) (gM.onPath 0) (memTgts x.1 sF gM 0 x.2.1 x.2.2.1 0) x.2.1.ord (x.2.1.fe == 2) ∧
      (x.2.1.fe = 2 → ((memTgts x.1 sF gM 0 x.2.1 x.2.2.1 0).map fun t => t.2.2.gran).Nodup)) ∧
    lduF.WfCore ∧ Acts lduF sF gM 0 ∧
    AtBanks (startOf sF gM 0) (gM.onPath 0) ((startOf sF gM 0).oneTgt (issueOf lduF gM 0) 0 (feOf 2 4 5) 4) 0 true := by
  have f : fit gM lduF = true := by decide
  refine ⟨fun x hx => ?_, (fitsF f).1, (fitsF f).2, ?_⟩
  · have f := List.all_eq_true.1 (by decide : wFes.all (fun x => fit gM x.1) = true) x hx
    have k := (by decide +kernel : ∀ x ∈ wFes, (fun ts => atBanks sF gM ts x.2.1.ord (x.2.1.fe == 2) = true ∧ (ts.map fun (t : Nat × Adr × Tgt) => t.2.2.gran).Nodup)
      (sF.tgts (wC gM x.1) 0 true (memAdr x.2.1 x.2.2.1 (log2Size x.2.1.sz)) (szBytes x.2.1.sz))) x hx
    rw [memTgts, (atM sF f rfl).1, (atM sF f rfl).2.1, (atM sF f rfl).2.2.1]
    exact ⟨(by decide : ∀ x ∈ wFes, vecMemRow x.1 = some x.2) x hx, (fitsF f).1, (by decide : ∀ x ∈ wFes, x.2.1.fe ≠ 0) x hx, (fitsF f).2,
      atBanks_of k.1, fun _ => k.2⟩
  · rw [(atM sF f rfl).1, (atM sF f rfl).2.1, (atM sF f rfl).2.2.1]
    exact atBanks_of (by decide +kernel)

def feset5 (set : Nat) : MemOp := { mo with a := 5, sz := set, d := 0 }
def fesetOf (n : Nat) : Instr := .feset (p1 h64) (feset5 n)
def fetestI : Instr := .fetest (p1 h64) { feset5 0 with d := 3 }
def pfI : Instr := .pf (p1 h64) { mo with sz := 0, d := 0 }
def wMarks : List Instr := [.fence h64 0 1, .fence h64 1 5, .fence h64 2 3, fesetOf 0, fesetOf 1, fetestI, pfI]
/-- A FESET of granule 4, and a FETEST of granule 9, at the head of the outbound queue. -/
def eFe (set : Option Bool) (o : Nat) : Entry := ⟨8, .fe set, 0, 1, 0, 0, .pad 2 o, 1, 0, 0, 0, false, .queued, 0, [], true, 1, false⟩
def gFe (set : Option Bool) (o : Nat) : Group := { gM with obq := [eFe set o] }
theorem witness_FencesBitsAndPrefetch :
    (∀ i ∈ wMarks, i.WfCore ∧ Acts i sF gM 0) ∧ (∀ x ∈ sF.teams, x.bankq = []) ∧
    (∀ n ∈ [0, 1], InWindows ((startOf sF gM 0).tgts (issueOf (fesetOf n) gM 0) 0 false (memAdr (feset5 n) false 4) 1)) ∧
    InWindows ((startOf sF gM 0).tgts (issueOf fetestI gM 0) 0 false (memAdr { feset5 0 with d := 3 } false 4) 1) ∧
    (∀ x ∈ (startOf sF gM 0).tgts (issueOf pfI gM 0) 0 false (memAdr { mo with sz := 0, d := 0 } false 0) 1, x.2.2 ≠ .prot) ∧
    ∀ x ∈ [(some true, 0x45), (some false, 0x45), (none, 0x9F), (some true, 0xFFF)], let g := gFe x.1 x.2
      let e := eFe x.1 x.2
      let s := wAt g tF
      s.grp? 3 = some g ∧ g.obq[0]? = some e ∧ e.kind = .fe x.1 ∧ e.loc = .pad 2 x.2 ∧ e.stage = .queued ∧ e.acq = 0 ∧ (g.obq.map (·.uid)).Nodup ∧
      g.granMates e = [e] ∧ s.heldBack g 0 e false = false ∧ s.team? 2 = some tF ∧ x.2 < tF.size := by
  have F := List.all_eq_true.1 (by decide : wMarks.all (fit gM) = true)
  refine ⟨fun i hi => fitsF (F i hi), by simp [sF, wAt, tF, wT], fun n hn => ?_, ?_, ?_, fun x hx => ?_⟩
  · have f := (by decide : ∀ n ∈ [0, 1], fit gM (fesetOf n) = true) n hn
    rw [(atM sF f rfl).1, (atM sF f rfl).2.2.1]
    exact inWindows_of ((by decide +kernel : ∀ n ∈ [0, 1], inWindows (sF.tgts (wC gM (fesetOf n)) 0 false (memAdr (feset5 n) false 4) 1) = true) n hn)
  · have f := F fetestI (by decide)
    rw [(atM sF f rfl).1, (atM sF f rfl).2.2.1]
    exact inWindows_of (by decide +kernel)
  · have f := F pfI (by decide)
    rw [(atM sF f rfl).1, (atM sF f rfl).2.2.1]
    decide +kernel
  · refine ⟨wAt_grp _ _ rfl, rfl, rfl, rfl, rfl, rfl, by simp [gFe], ?_, ?_, wAt_team _ _ rfl, ?_⟩
    · exact (by decide +kernel : ∀ x ∈ [(some true, 0x45), (some false, 0x45), (none, 0x9F), (some true, 0xFFF)], (gFe x.1 x.2).granMates (eFe x.1 x.2) = [eFe x.1 x.2]) x hx
    · exact (by decide +kernel : ∀ x ∈ [(some true, 0x45), (some false, 0x45), (none, 0x9F), (some true, 0xFFF)], (wAt (gFe x.1 x.2) tF).heldBack (gFe x.1 x.2) 0 (eFe x.1 x.2) false = false) x hx
    · exact (by decide : ∀ x ∈ [(some true, 0x45), (some false, 0x45), (none, 0x9F), (some true, (0xFFF : Nat))], x.2 < tF.size) x hx

/-! ### Spirals -/

def distI : Instr := .spdist (p1 h64) 14 4 false .id 0
theorem dist_act : actOf distI gM 0 = 1 := act_of distI standsM rfl
/-- The address of s4 names its page, that of s8 none. -/
theorem names4 : spNames sM gM 0 0 0x40000 = .page 0x40000 ∧ spTileAt (.page 0x40000) = some 0x40000 ∧ spNames sM gM 0 0 0x80000000 = .noPage := by
  rw [spNames, spNames, (start_of ⟨rfl, rfl⟩ rfl : startOf sM gM 0 = sM ∧ _).1, (start_of ⟨rfl, rfl⟩ rfl : startOf sM gM 0 = sM ∧ gM.onPath 0 = gM).2]
  decide +kernel
def wPins (x : Nat) : List Instr := [.sppin (p1 h64) 6 x, .spunpin (p1 h64) x, .sppull h96 x (.imm 65535), .sppull h64 x (.sca 11)]
/-- A query of the tile at 0x40000, queued, on its way and at its spiral. -/
def eQu (k : Query) : Entry := ⟨8, .query k, 128, 1, 0, 0x40000, .mem 0x40000 0, 4, 0, 0, 0, false, .queued, 0, [], true, 0, false⟩
def gQu (k : Query) : Group := { gM with obq := [eQu k] }
def sQu (k : Query) : State := wAt (gQu k) wT
def rQu (k : Query) : Req :=
  { uid := 9, src := 0, srcDie := 0, home := 0, grp := 3, ent := 8, kind := .query k, loc := .mem 0x40000 0, n := 4, data := 0, cells := [], write := false,
    far := false, fill := 0, stamp := [0, 0, 0, 0, 0], table := [] }
def sQuNet (k : Query) : State := { sQu k with net := [rQu k] }
def aQu (k : Query) : Acc := ⟨0, 0, ⟨0, 0, 0, true⟩, rQu k, 1⟩
def tQu : Tile := { addr := 0x40000, copy := false, pos := some 4, legs := [], cls := 0, bytes := List.replicate 1024 3, dirty := [], sharers := [], apC := 0, apR := 0 }
def sQuAcc (k : Query) : State := (sQu k).setQuad 0 { (sQu k).quad 0 with tiles := [tQu], accs := [aQu k] }
def wQus : List Query := [.dist, .pin, .unpin]
theorem small_of {s : State} {k : Query} (h : s.groups = [gQu k]) (r : Req) : SmallAcquire s r := by
  intro g e hg he
  have : g = gQu k := by
    have := List.mem_of_find?_eq_some (show s.groups.find? _ = some g from hg)
    rw [h] at this
    simpa using this
  subst this
  have := List.mem_of_find?_eq_some (show (gQu k).obq.find? _ = some e from he)
  rw [List.mem_singleton.1 (show e ∈ [eQu k] from this)]
  exact Nat.zero_le _
theorem witness_QueriesReachTiles :
    (∀ k ∈ wQus ++ [.pull 4], let s := sQu k
      s.grp? 3 = some (gQu k) ∧ (gQu k).obq[0]? = some (eQu k) ∧ (eQu k).kind = .query k ∧ (eQu k).loc = .mem 0x40000 0 ∧ (eQu k).stage = .queued ∧
      s.heldBack (gQu k) 0 (eQu k) false = false ∧ s.dieDown (homeDie 0x40000) = false ∧ (s.quad (homeQuad 0x40000)).promos = []) ∧
    (∀ k ∈ wQus, let s := sQuNet k
      s.net[0]? = some (rQu k) ∧ s.net.take 0 = [] ∧ (s.die 0).snoop = [] ∧ Asks (rQu k) k 0x40000 ∧ s.dieDown 0 = false ∧ (rQu k).home = (rQu k).srcDie ∧
      s.outranked (rQu k) = false ∧ s.atRepair (rQu k) = false ∧ Unheld s (rQu k) ∧ SmallAcquire s (rQu k)) ∧
    ∀ k ∈ wQus, let s := sQuAcc k
      (s.quad 0).accs[0]? = some (aQu k) ∧ Asks (aQu k).req k 0x40000 ∧ 0 = homeQuad 0x40000 ∧ AtTile s 0 0x40000 (aQu k).way (aQu k).key ∧
      s.atRepair (aQu k).req = false ∧ s.dieDown (aQu k).req.home = false ∧ SmallAcquire s (aQu k).req := by
  have asks (k : Query) : Asks (rQu k) k 0x40000 := ⟨rfl, rfl, by simp only [rQu]; decide, by simp [rQu], rfl, rfl⟩
  refine ⟨fun k hk => ⟨wAt_grp _ _ rfl, rfl, rfl, rfl, rfl, ?_, by decide +kernel +revert, by decide +kernel +revert⟩, fun k hk => ?_, fun k hk => ?_⟩
  · exact (by decide +kernel : ∀ k ∈ wQus ++ [.pull 4], (sQu k).heldBack (gQu k) 0 (eQu k) false = false) k hk
  · have h := (by decide +kernel : ∀ k ∈ wQus, let s := sQuNet k
      (s.die 0).snoop = [] ∧ s.dieDown 0 = false ∧ s.outranked (rQu k) = false ∧ s.atRepair (rQu k) = false ∧
      (s.quad (rQu k).quad).tile? (tileOf (rQu k).pa) = none ∧ (s.quad (rQu k).quad).busyAt (tileOf (rQu k).pa) = false ∧
      s.acceptCycle (rQu k).quad = (s.die ((rQu k).quad / 4)).cycle) k hk
    exact ⟨rfl, rfl, h.1, asks k, h.2.1, rfl, h.2.2.1, h.2.2.2.1, h.2.2.2.2, small_of rfl _⟩
  · have h := (by decide +kernel : ∀ k ∈ wQus, let s := sQuAcc k
      s.acceptCycle 0 = (s.die 0).cycle ∧ (∀ b ∈ (s.quad 0).accs, earlier b.key (aQu k).key = false) ∧ (s.quad 0).pulls = [] ∧
      s.atRepair (aQu k).req = false ∧ s.dieDown (aQu k).req.home = false) k hk
    exact ⟨rfl, asks k, by decide, ⟨rfl, h.1, fun b hb _ => h.2.1 b hb, by rw [h.2.2.1]; simp⟩, h.2.2.2.1, h.2.2.2.2, small_of rfl _⟩
theorem witness_PinsPullsAndDistance :
    (distI.WfCore ∧ Acts distI sM gM 0 ∧ ∀ l < 128, (actOf distI gM 0).getLsbD l → spNames sM gM 0 l (gM.s 4) ≠ .prot) ∧
    (∀ i ∈ wPins 4, i.WfCore ∧ Acts i sM gM 0 ∧ spTileAt (spNames sM gM 0 (lane0 i gM 0) (gM.s 4)) = some 0x40000) ∧
    ∀ i ∈ wPins 8, i.WfCore ∧ Acts i sM gM 0 ∧ spNames sM gM 0 (lane0 i gM 0) (gM.s 8) = .noPage ∧ spTileAt .noPage = none := by
  have e : gM.s 4 = 0x40000 ∧ gM.s 8 = 0x80000000 := by decide +kernel
  have low : ∀ i, (hdrOf i).neg = false → (lowest (actOf i gM 0)).getD 0 = 0 := by
    intro i hi
    rw [act_of i standsM hi]
    split <;> decide
  rw [e.1, e.2]
  refine ⟨⟨(fitsM (by decide)).1, (fitsM (by decide)).2, fun l hl h => ?_⟩, fun i hi => ?_, fun i hi => ?_⟩
  · rw [dist_act] at h
    have : l = 0 := (by decide : ∀ l < 128, (1 : Mask).getLsbD l = true → l = 0) l hl h
    subst this
    rw [names4.1]
    simp
  · have f := List.all_eq_true.1 (by decide : (wPins 4).all (fit gM) = true) i hi
    refine ⟨(fitsM f).1, (fitsM f).2, ?_⟩
    rw [lane0, low i ((by decide : ∀ i ∈ wPins 4, (hdrOf i).neg = false) i hi), names4.1]
    exact names4.2.1
  · have f := List.all_eq_true.1 (by decide : (wPins 8).all (fit gM) = true) i hi
    refine ⟨(fitsM f).1, (fitsM f).2, ?_, rfl⟩
    rw [lane0, low i ((by decide : ∀ i ∈ wPins 8, (hdrOf i).neg = false) i hi)]
    exact names4.2.2

def wRanges : List (Instr × Nat × Nat × Nat) :=
  [(.spclean h64 4 11, 0, 4, 11), (.spinv h64 8 11, 1, 8, 11), (.spflush h64 12 13, 2, 12, 13), (.spclean h64 12 0, 0, 12, 0)]
theorem witness_RangeOperationsEnterQueue : ∀ x ∈ wRanges, rangeRow x.1 = some x.2 ∧ x.1.WfCore ∧ Acts x.1 sM gM 0 ∧
    if x.2.2.1 = 12 then apert (gM.s x.2.2.1) = .priv 0 ∧ ((gM.s x.2.2.2).toNat = 0 ∨ 0 + (gM.s x.2.2.2).toNat ≤ ((sM.grpGrid? gM).map Grid.privSize).getD 0)
    else apert (gM.s x.2.2.1) = .trans ∧ (gM.s x.2.2.1).toNat + (gM.s x.2.2.2).toNat ≤
      (if (gM.s x.2.2.1).toNat < 2 ^ 56 then 2 ^ 56 else windowBase) := by
  intro x hx
  have f := List.all_eq_true.1 (by decide : wRanges.all (fun x => fit gM x.1) = true) x hx
  exact ⟨(by decide : ∀ x ∈ wRanges, rangeRow x.1 = some x.2) x hx, (fitsM f).1, (fitsM f).2, (by decide +kernel : ∀ x ∈ wRanges,
    if x.2.2.1 = 12 then apert (gM.s x.2.2.1) = .priv 0 ∧ ((gM.s x.2.2.2).toNat = 0 ∨ 0 + (gM.s x.2.2.2).toNat ≤ ((sM.grpGrid? gM).map Grid.privSize).getD 0)
    else apert (gM.s x.2.2.1) = .trans ∧ (gM.s x.2.2.1).toNat + (gM.s x.2.2.2).toNat ≤
      (if (gM.s x.2.2.1).toNat < 2 ^ 56 then 2 ^ 56 else windowBase)) x hx⟩

/-! ### Objects -/

/-- A team whose window holds an object of 16 bytes at 0x40, its granule full. -/
def tO (x : Nat) : Team := { wT with win := cellsOf 0x40 16 x, full := [4] }
def objOk (s : State) (g : Group) (acq rel : Nat) (t : Team) : Bool :=
  s.objAt g (g.s 5) == some (2, 0x40) && s.padFree g (.pad 2 0x40) 16 acq rel && t.id == 2 && decide (0x40 + 16 ≤ t.size) &&
    Memory.wf t.win && t.bankq.isEmpty
theorem atObject_of {t : Team} {acq rel : Nat} (h : objOk (wAt gM t) gM acq rel t = true) : AtObject (wAt gM t) gM 0 5 acq rel 2 0x40 t := by
  have e := start_of (s := wAt gM t) (g := gM) ⟨rfl, rfl⟩ rfl
  simp only [objOk, Bool.and_eq_true, beq_iff_eq, decide_eq_true_eq, List.isEmpty_iff] at h
  obtain ⟨⟨⟨⟨⟨h1, h2⟩, h3⟩, h4⟩, h5⟩, h6⟩ := h
  exact ⟨by rw [e.1, e.2]; exact h1, by rw [e.1, e.2]; exact h2, wAt_team gM t h3, h4, h5, h6⟩
/-- An instruction meets an object: it is well formed, it issues, and the object is at hand. -/
def Meets (i : Instr) (acq rel : Nat) (t : Team) : Prop := i.WfCore ∧ Acts i (wAt gM t) gM 0 ∧ AtObject (wAt gM t) gM 0 5 acq rel 2 0x40 t
theorem meets_of {i : Instr} {acq rel : Nat} {t : Team} (h : (fit gM i && objOk (wAt gM t) gM acq rel t) = true) : Meets i acq rel t := by
  rw [Bool.and_eq_true] at h
  exact ⟨(fits (t := t) h.1 rfl standsM).1, (fits (t := t) h.1 rfl standsM).2, atObject_of h.2⟩
theorem meets_all {xs : List (Instr × Nat × Nat × Team)} (h : xs.all (fun x => fit gM x.1 && objOk (wAt gM x.2.2.2) gM x.2.1 x.2.2.1 x.2.2.2) = true) :
    ∀ x ∈ xs, Meets x.1 x.2.1 x.2.2.1 x.2.2.2 := fun x hx => meets_of (List.all_eq_true.1 h x hx)

/-- A barrier of 4 with `n` arrivals to come, in phase 15, with trap or not. -/
def bar (n trap : Nat) : Team := tO (4 + 2 ^ 16 * n + 2 ^ 32 * 15 + 2 ^ 37 * trap + 2 ^ 64 * (2 ^ 32 - 1))
def arv (n : Nat) : Instr := .bararv h64 14 5 n false 0
theorem witness_BarrierInstructions :
    (∀ x ∈ [(Instr.barinit h64 5 11 false true, 0, 0, wT), (.barinit h64 5 0 true false, 0, 0, wT), (arv 1, 0, 0, bar 2 0), (arv 2, 0, 0, bar 2 0),
        (.bararv h64 14 5 0 true 4, 0, 4, bar 2 0), (arv 3, 0, 0, bar 2 1), (.barwt h64 2 5 0 13 0, 0, 0, bar 2 0), (.barwt h64 2 5 15 0 3, 3, 0, bar 2 0), (.barwt h64 2 5 15 13 0, 0, 0, bar 2 0),
        (.barq h64 14 5 true, 0, 0, bar 2 0), (.barq h64 14 5 false, 0, 0, bar 2 0)], Meets x.1 x.2.1 x.2.2.1 x.2.2.2) ∧
    ((gM.s 11).toNat % 2 ^ 16 ≠ 0) ∧
    (∀ tr ∈ [0, 1], (bar 2 tr).fullAt 0x40 = true ∧ fld (obj (bar 2 tr) 0x40) 38 2 = 0 ∧ bit (obj (bar 2 tr) 0x40) 37 = (tr == 1) ∧ fld (obj (bar 2 tr) 0x40) 16 16 = 2) ∧
    fld (obj (bar 2 0) 0x40) 32 4 ≠ (gM.s 0).toNat % 16 ∧ fld (obj (bar 2 0) 0x40) 32 4 = (gM.s 15).toNat % 16 ∧ gM.s 13 ≠ 0 ∧ gM.s 0 = 0 :=
  ⟨meets_all (by decide +kernel), by decide +kernel⟩

/-- A lock held by identity `n` less 1, which is group n - 1 of rank 0. -/
def lock (n : Nat) : Team := tO (n + 2 ^ 38)
/-- A core of the die holds a dirty byte of the range that the lock guards, in a page of class G. -/
def sDirty : State :=
  let s := wAt gM (lock 1)
  let s := { s with dram := memWriteAll wMem [(0x4000, 0xEF)] }
  let s := s.setCore 1 { s.core 1 with l1 := [⟨0x40000, [(0x40001, 7)], [0x40001], 0, none, 0, 0⟩] }
  s.setCore 0 { s.core 0 with held := [⟨3, 2, objId 2 0x40, [(0x40000, 128, false)], true⟩] }
theorem witness_LocksAndHolders :
    (∀ x ∈ [(Instr.lkacq h64 5 0, 0, 0, lock 0), (.lkacq h64 5 3, 3, 0, lock 2), (.lkacq h64 5 0, 0, 0, lock 1), (.lktry h64 2 5 0, 0, 0, lock 0),
        (.lktry h64 2 5 0, 0, 0, lock 2), (.lkrel h64 5 4, 0, 4, lock 1), (.grset h64 5 11, 0, 0, lock 0)], Meets x.1 x.2.1 x.2.2.1 x.2.2.2) ∧
    (∀ n ∈ [0, 1, 2], (lock n).fullAt 0x40 = true ∧ fld (obj (lock n) 0x40) 38 2 = 1 ∧ fld (obj (lock n) 0x40) 0 16 = n ∧
      holder (wAt gM (lock n)) gM = 0) ∧
    gM.core < 192 ∧ (startOf (wAt gM (lock 1)) gM 0).rangesClean (gM.onPath 0) ((startOf (wAt gM (lock 1)) gM 0).heldOf (gM.onPath 0) 2 0x40) = true ∧
    (let s := sDirty
     (Instr.lkrel h64 5 4).WfCore ∧ Acts (.lkrel h64 5 4) s gM 0 ∧ AtObject s gM 0 5 0 4 2 0x40 (lock 1) ∧
     (startOf s gM 0).rangesClean (gM.onPath 0) ((startOf s gM 0).heldOf (gM.onPath 0) 2 0x40) = false) := by
  refine ⟨meets_all (by decide +kernel), by decide +kernel, by decide, ?_, ?_⟩
  · rw [(start_of (s := wAt gM (lock 1)) (g := gM) ⟨rfl, rfl⟩ rfl).1, (start_of (s := wAt gM (lock 1)) (g := gM) ⟨rfl, rfl⟩ rfl).2]
    decide +kernel
  have e := start_of (s := sDirty) (g := gM) ⟨rfl, rfl⟩ rfl
  have h : sDirty.objAt gM (gM.s 5) = some (2, 0x40) ∧ sDirty.padFree gM (.pad 2 0x40) 16 0 4 = true ∧ Memory.wf (lock 1).win = true ∧
      sDirty.rangesClean gM (sDirty.heldOf gM 2 0x40) = false := by decide +kernel
  refine ⟨(fitsM (i := .lkrel h64 5 4) (by decide)).1, (fits_in (s := sDirty) (g := gM) (i := .lkrel h64 5 4) (by decide) (show sDirty.curGrp? = some gM from wAt_cur gM (lock 1) rfl) standsM).2, ⟨?_, ?_, wAt_team gM (lock 1) rfl, by decide, h.2.2.1, rfl⟩, ?_⟩
  all_goals rw [e.1, e.2]
  · exact h.1
  · exact h.2.1
  · exact h.2.2.2

/-- A channel of 4 slots at 0x200 with `w` messages sent and `r` received, between rank 0 and itself; every granule full. -/
def chn (w r : Nat) : Team := { tO (w + 2 ^ 16 * r + 2 ^ 38 * 2 + 2 ^ 40 * 0x20 + 2 ^ 56 * 3) with full := List.range 256 }
theorem witness_ChannelMessages :
    (∀ x ∈ [(Instr.chsend h64 5 6 5, 0, 5, chn 1 65535), (.chrecv h64 14 5 3, 3, 0, chn 1 65535)], Meets x.1 x.2.1 x.2.2.1 x.2.2.2) ∧
    (wAt gM (chn 1 65535)).team? gM.team = some (chn 1 65535) ∧ (chn 1 65535).fullAt 0x40 = true ∧ fld (obj (chn 1 65535) 0x40) 38 2 = 2 ∧
    (chn 1 65535).crank = fld (obj (chn 1 65535) 0x40) 80 4 ∧ (chn 1 65535).crank = fld (obj (chn 1 65535) 0x40) 84 4 ∧
    (fld (obj (chn 1 65535) 0x40) 0 16 + 2 ^ 16 - fld (obj (chn 1 65535) 0x40) 16 16) % 2 ^ 16 = 2 ∧ fld (obj (chn 1 65535) 0x40) 56 8 + 1 = 4 ∧
    (∀ n ∈ [1, 65535], 16 * fld (obj (chn 1 65535) 0x40) 40 16 + 512 * (n % 4) + 512 ≤ (chn 1 65535).size) ∧
    (∀ k < 32, (chn 1 65535).fullAt (0x200 + 512 * 3 + 16 * k) = true) :=
  ⟨meets_all (by decide +kernel), wAt_team _ _ rfl, by decide +kernel⟩

/-- A group whose queue holds a store to its window. -/
def gMq : Group :=
  { gM with obq := [{ uid := 9, kind := .store, lane := 0, mask := 1, pc := 0, va := 0, loc := .pad 2 0x80, n := 4, data := 7, acq := 0, rel := 0, far := false,
                      stage := .queued, val := 0, extAt := [], acqOk := true }] }
theorem standsMq : Stands gMq := ⟨rfl, rfl, rfl, rfl, rfl, rfl, rfl⟩
def queuedObjs : List (Instr × Nat × Nat) :=
  [(.barinit h64 5 11 false true, 0, 0), (.bararv h64 14 5 0 true 4, 0, 4), (.barwt h64 2 5 15 0 3, 3, 0), (.barq h64 14 5 true, 0, 0), (.lkacq h64 5 3, 3, 0),
    (.lktry h64 2 5 0, 0, 0), (.lkrel h64 5 4, 0, 4), (.grset h64 5 11, 0, 0), (.chsend h64 5 6 5, 0, 5), (.chrecv h64 14 5 3, 3, 0)]
theorem queuedObjs_ok : queuedObjs.all (fun x => fit gMq x.1 && objUse x.1 == some (5, x.2.1, x.2.2) && !(wAt gMq (lock 1)).padFree gMq (.pad 2 0x40) 16 x.2.1 x.2.2) = true := by
  decide +kernel
theorem witness_ObjectsEnterQueue :
    (∀ x ∈ queuedObjs, objUse x.1 = some (5, x.2.1, x.2.2) ∧ x.1.WfCore ∧ Acts x.1 (wAt gMq (lock 1)) gMq 0 ∧
      (startOf (wAt gMq (lock 1)) gMq 0).padFree (gMq.onPath 0) (.pad 2 0x40) 16 x.2.1 x.2.2 = false) ∧
    (startOf (wAt gMq (lock 1)) gMq 0).objAt (gMq.onPath 0) (gMq.s 5) = some (2, 0x40) ∧ (wAt gMq (lock 1)).team? 2 = some (lock 1) ∧
    (gMq.s 11).toNat % 2 ^ 16 ≠ 0 := by
  have e := start_of (s := wAt gMq (lock 1)) (g := gMq) ⟨rfl, rfl⟩ rfl
  rw [e.1, e.2]
  refine ⟨fun x hx => ?_, by decide +kernel, wAt_team _ _ rfl, by decide +kernel⟩
  have h := List.all_eq_true.1 queuedObjs_ok x hx
  simp only [Bool.and_eq_true, beq_iff_eq, Bool.not_eq_true'] at h
  exact ⟨h.1.2, (fits (t := lock 1) h.1.1 rfl standsMq).1, (fits (t := lock 1) h.1.1 rfl standsMq).2, h.2⟩

/-- 08 R171, 09 R195: behind the store, an object instruction of a queue has to stand; once the store has left, LKREL's lanes go on and the lock is free. -/
theorem test_queued_object_reaches_bank :
    let w : Wt := ⟨5, 3, 0x40, .lkrel, 0, 0, 1, 8⟩
    let at' (q : List Entry) : State := wAt { gM with lanes := put gM.lanes 0 (.waiting (.bank 5)), obq := q ++ [w.entry 5 2 (some w) 0 0 .queued] } (lock 1)
    let run (q : List Entry) (i : Nat) : Option (Lane × Nat) := match execQueueLeave 3 i false (at' q) with
      | .next s => (s.grp? 3).bind fun g => (s.team? 2).map fun t => (nth g.lanes 0, fld (t.rd 0x40 16) 0 16)
      | _ => none
    run gMq.obq 1 = some (.waiting (.bank 5), 1) ∧ run [] 0 = some (.ready, 0) := by
  decide +kernel

/-! ### Convergence registers, QNT, MPLANE -/

/-- A team of 3 groups whose convergence register 1 has members 0 and 2; group 2 has signed in `b`. -/
def tV (b : W32) : Team := { wT with groups := 3, cvs := put wT.cvs 1 ⟨5, b, 15, none, []⟩ }
def cvIs : List Instr := [.cvinit h64 1 11, .cvsign h64 14 1 false, .cvsign h64 14 1 true]
theorem witness_ConvergenceRegisters : (∀ i ∈ cvIs, i.WfCore ∧ ∀ b, Acts i (wAt gM (tV b)) gM 0) ∧
    (∀ b, (wAt gM (tV b)).team? gM.team = some (tV b) ∧ (cvOf (tV b) 1).bound = none ∧ (cvOf (tV b) 1).members.getLsbD gM.gid = true ∧
      ∀ x ∈ (wAt gM (tV b)).groups, ∀ l < 128, ∀ y, nth x.lanes l ≠ .waiting (.cvsign 1 (some y))) ∧
    ((cvOf (tV 0) 1).signed.getLsbD gM.gid = false ∧
      ((List.range 32).all fun m => ((cvOf (tV 0) 1).signed.getLsbD m || m == gM.gid) == (cvOf (tV 0) 1).members.getLsbD m) = false) ∧
    (cvOf (tV 4) 1).signed.getLsbD gM.gid = false ∧
      ((List.range 32).all fun m => ((cvOf (tV 4) 1).signed.getLsbD m || m == gM.gid) == (cvOf (tV 4) 1).members.getLsbD m) = true := by
  have h : ∀ b, cvOf (tV b) 1 = ⟨5, b, 15, none, []⟩ := fun b => rfl
  refine ⟨fun i hi => ?_, fun b => ⟨wAt_team _ _ rfl, by rw [h], by rw [h]; exact (by decide : (5 : W32).getLsbD gM.gid = true), fun x hx l hl y => ?_⟩, ?_⟩
  · have f := List.all_eq_true.1 (by decide : cvIs.all (fit gM) = true) i hi
    exact ⟨(fitsM f).1, fun b => (fits f rfl standsM).2⟩
  · obtain rfl : x = gM := by simpa [wAt] using hx
    rw [show nth gM.lanes l = .ready by simp [gM, setS, wG, nth, hl]]
    simp
  · rw [h, h]
    decide

/-- The scale ring at 0x40, with a head of 15. -/
def tQ : Team := { wT with win := [(0x40, 0x80), (0x41, 0x3F), (0x60, 15)] }
def qnts : List Instr := [.qnt (p1 h64) true 2 true 2 14 20 .id 5 9, .qnt (p1 h64) false 0 false 0 14 20 .id 5 9]
/-- MPLANE of rows of 256 INT8 codes, and of FP4 with the scales behind. -/
def gP : Group := setS wG [(4, 0xFFFFF00000000400), (5, 0xFFFFF00000000000), (6, 0xFFFFF00000000300)]
def planes : List Instr := [.mplane h128 4 5 0 2 16 3 0, .mplane h128 4 5 6 1 8 0 0]
theorem witness_BlocksAndPlanes :
    (∀ i ∈ qnts, i.WfCore ∧ Acts i (wAt gM tQ) gM 0 ∧ (gM.s 5).toNat % 16 = 0 ∧ (startOf (wAt gM tQ) gM 0).winAt (gM.onPath 0) (gM.s 5) = some (tQ, 0x40) ∧
      Memory.wf tQ.win = true ∧ 0x40 + 34 ≤ tQ.size ∧
      (startOf (wAt gM tQ) gM 0).padFree (gM.onPath 0) (.pad tQ.id 0x40) 48 0 0 = true) ∧
    (wAt gM tQ).team? tQ.id = some tQ ∧ (∀ i ∈ planes, i.WfCore ∧ Acts i (wAt gP wT) gP 0) ∧ (wAt gP wT).team? gP.team = some wT ∧ Memory.wf wT.win = true ∧
    (wAt gP wT).matPresent (gP.core / 4) = true ∧ apert (gP.s 4) = .team 0x400 ∧ apert (gP.s 5) = .team 0 ∧ apert (gP.s 6) = .team 0x300 ∧
    (gP.s 4).toNat % 16 = 0 ∧ (gP.s 5).toNat % 16 = 0 ∧ (gP.s 6).toNat % 16 = 0 ∧ wT.size ≤ 2 ^ 24 ∧
    (0x400 + (2 * mWb 3 0 + 0) ≤ wT.size ∧ 0 + 16 * 16 * (2 - 1) + 32 * elBits 3 ≤ wT.size ∧ 0 + 16 * 16 * (2 - 1) + 32 * elBits 3 ≤ 0x400) ∧
    (0x400 + (1 * mWb 0 0 + 64) ≤ wT.size ∧ 0 + 16 * 8 * (1 - 1) + 32 * elBits 0 ≤ 0x400 ∧ 0x300 + 32 * 1 + 16 ≤ 0x400) ∧
    (startOf (wAt gP wT) gP 0).padFree (gP.onPath 0) (.pad wT.id 0) wT.size 0 0 = true := by
  have e := start_of (s := wAt gM tQ) (g := gM) ⟨rfl, rfl⟩ rfl
  have k := start_of (s := wAt gP wT) (g := gP) ⟨rfl, rfl⟩ rfl
  rw [e.1, e.2, k.1, k.2]
  refine ⟨fun i hi => ?_, wAt_team _ _ rfl, fun i hi => fits (List.all_eq_true.1 (by decide : planes.all (fit gP) = true) i hi) rfl ⟨rfl, rfl, rfl, rfl, rfl, rfl, rfl⟩,
    wAt_team _ _ rfl, by decide +kernel⟩
  have f := fits (t := tQ) (List.all_eq_true.1 (by decide : qnts.all (fit gM) = true) i hi) rfl standsM
  exact ⟨f.1, f.2, by decide +kernel⟩

/-! ### Engine packets and handles -/

/-- The handle or index that an attempt gives; 0 where it was refused, none where it has to wait. -/
def Try.val? : Try → Option W64
  | .ok x _ => some x
  | .no => some 0
  | _ => none
theorem try_ok {y : Try} {x : W64} (h : Try.val? y = some x) (hx : x ≠ 0) : ∃ t, y = .ok x t := by
  cases y <;> simp [Try.val?] at h
  · exact absurd h.symm hx
  · exact ⟨_, by rw [h]⟩
/-- Context 0 after 4097 allocations: entry 1 of the ring is pending. -/
def sFull : State := { sM with ctxs := [{ freshCtx 0 with allocN := 4097, ringUsed := true }] }
theorem witness_AllocationMakesHandles : (∃ t, sM.alloc 0 0 0 = .ok (hnd 0) t) ∧
    (sM.ringPa 0 ((sM.ctxD 0).allocN % 4096) 1 = some 0x20000 ∧ sM.directOk 0 0 0x20000 8 true = true ∧ (sM.ctxD 0).ringUsed = false ∧ 0x20000 % 32 = 0 ∧
      Memory.wf sM.dram = true ∧ sM.homeTile? 0x20000 = none ∧ tierOf 0x20000 ≠ .lp) ∧
    sFull.ringPa 0 (4097 % 4096) 1 = some 0x20020 ∧ sFull.directOk 0 0 0x20020 8 true = true ∧ (sFull.ctxD 0).ringUsed = true ∧ sFull.homeRead 0x20020 1 = 0 :=
  ⟨try_ok (by decide +kernel) (by decide), by decide +kernel, by decide +kernel⟩

def xo : XOp := ⟨2, 4, 5, 5, 1, ⟨0, 0, 0, 0, 0, 0, 2, false, 1⟩⟩
def engs (q : Nat) : List Instr :=
  [.xcopy h128 { xo with q }, .xfill h128 { xo with q, b := 6 }, .xgath h128 { xo with q, f := { xo.f with rb := 17, sr := 11, sn := 13, esz := 0 } },
   .xcoll h128 { xo with q, f := { xo.f with k := 7, cop := 2, cfmt := 3, esz := 0 } }]
def Try.isNo : Try → Bool
  | .no => true
  | _ => false
theorem isNo_of {y : Try} (h : Try.isNo y = true) : y = .no := by cases y <;> simp_all [Try.isNo]
/-- The headers of queues 0 to 2. -/
def q0 : QHdr := ⟨0x10000, 0x18000, 0, 0, 6, 0, 0, 0⟩
def q1 : QHdr := ⟨0x10040, 0x14000, 1, 1, 6, 1, 0, 0⟩
def q2 : QHdr := ⟨0x10080, 0x14000, 64, 0, 6, 1, 0, 0⟩
/-- A queue takes a packet of the group. -/
theorem takes_of {s : State} {q : Nat} {c : Option Nat} {rc : Bool} {h : QHdr} {pa : Nat} {x : W64} (hx : x ≠ 0)
    (k : (decide (s.qhdr (s.grpCtx gM) q = some h) && h.enabled && (c.isNone || c == some h.cons) &&
      decide (s.devPa (s.grpCtx gM) (h.slot h.wr) 1 = some pa) &&
      decide (Try.val? (if rc then s.allocClaim gM.core gM.die (s.grpCtx gM) h else s.claim gM.core gM.die h) = some x)) = true) :
    QueueTakes s gM q c rc h pa x := by
  simp only [Bool.and_eq_true, decide_eq_true_eq, Bool.or_eq_true, beq_iff_eq] at k
  obtain ⟨⟨⟨⟨k1, k2⟩, k3⟩, k4⟩, k5⟩ := k
  refine ⟨k1, k2, fun y hy => ?_, k4, try_ok k5 hx⟩
  subst hy
  rcases k3 with k3 | k3
  · cases k3
  · exact (Option.some.inj k3).symm
/-- The packet of a LAUNCH at 0x40. -/
def tL : Team := { wT with win := [(0x40, 1)] }
def sL : State := wAt gM tL
def wPkts : List Instr := [.qput h96 2 5 1 true 3, .qput h96 0 5 1 false 0, .launch h96 3 5 0 0 false false true 1, .launch h96 3 5 0 4 true true false 1]
theorem startM (t : Team) : startOf (wAt gM t) gM 0 = wAt gM t ∧ gM.onPath 0 = gM := start_of ⟨rfl, rfl⟩ rfl
/-- A handle's record at issue. -/
theorem reads_of {t : Team} {x : W64} {r : Rec} (h : x ≠ 0 ∧ (wAt gM t).recordOk gM.core gM.die ((wAt gM t).grpCtx gM) x = true ∧
    (wAt gM t).record ((wAt gM t).grpCtx gM) x = r ∧ r ≠ .bad ∧ r ≠ .noPage) : HandleReads (wAt gM t) gM 0 x r := by
  rw [HandleReads, HandleFinds, (startM t).1]; exact ⟨⟨h.1, h.2.2.1, h.2.2.2⟩, h.2.1⟩
theorem witness_EngineAndWindowPackets :
    (∀ q ∈ [1, 2], ∀ i ∈ engs q, (∃ x, engineRow gM i = some x ∧ (startOf sM gM 0).winOk (gM.onPath 0) (gM.s x.2.1) 16 = true) ∧ i.WfCore ∧ Acts i sM gM 0) ∧
    (sM.team? gM.team = some wT ∧ wT.ctag < 2 ^ 16 ∧ QueueTakes (startOf sM gM 0) (gM.onPath 0) 1 (some 1) true q1 0x14040 (hnd 0)) ∧
    ((startOf sM gM 0).qhdr (sM.grpCtx gM) 2 = some q2 ∧ q2.enabled = true ∧ q2.cons = 1 ∧ (startOf sM gM 0).devPa (sM.grpCtx gM) (q2.slot q2.wr) 1 = some 0x14000 ∧
      (startOf sM gM 0).allocClaim gM.core gM.die (sM.grpCtx gM) q2 = .no) ∧
    (∀ i ∈ wPkts, i.WfCore ∧ Acts i sL gM 0) ∧ (sL.team? gM.team = some tL ∧ (gM.s 5).toNat % 64 = 0 ∧
      (startOf sL gM 0).winAt (gM.onPath 0) (gM.s 5) = some (tL, 0x40) ∧ 0x40 + 64 ≤ tL.size ∧
      (startOf sL gM 0).padFree (gM.onPath 0) (.pad tL.id 0x40) 64 0 0 .load = true ∧ fld (tL.rd 0x40 64) 0 8 = 1 ∧ gM.h 4 ≠ 0) ∧
    HandleReads sL gM 0 (gM.h 4) (.valid 0x20000) ∧
    (∀ rc, QueueTakes (startOf sL gM 0) (gM.onPath 0) 1 none rc q1 0x14040 (if rc then hnd 0 else 1)) ∧
    QueueTakes (startOf sL gM 0) (gM.onPath 0) 0 (some 0) true q0 0x18000 (hnd 0) ∧
    QueueTakes ((startOf sL gM 0).recordSeen gM.core gM.die 0 (gM.h 4)) (gM.onPath 0) 0 (some 0) true q0 0x18000 (hnd 0) := by
  have e : startOf sM gM 0 = sM ∧ startOf sL gM 0 = sL ∧ gM.onPath 0 = gM := ⟨(startM wT).1, (startM tL).1, (startM wT).2⟩
  rw [e.1, e.2.1, e.2.2]
  refine ⟨fun q hq i hi => ⟨?_, fitsM ((by decide : ∀ q ∈ [1, 2], ∀ i ∈ engs q, fit gM i = true) q hq i hi)⟩,
    ⟨wAt_team _ _ rfl, by decide, takes_of (by decide) (by decide +kernel)⟩, ⟨by decide +kernel, rfl, rfl, by decide +kernel, isNo_of (by decide +kernel)⟩,
    fun i hi => fits (List.all_eq_true.1 (by decide : wPkts.all (fit gM) = true) i hi) rfl standsM,
    ⟨wAt_team _ _ rfl, by decide +kernel⟩, reads_of (by decide +kernel), fun rc => ?_, takes_of (by decide) (by decide +kernel), takes_of (by decide) (by decide +kernel)⟩
  · have k := (by decide +kernel : ∀ q ∈ [1, 2], ∀ i ∈ engs q, (match engineRow gM i with
      | some x => sM.winOk gM (gM.s x.2.1) 16
      | none => false) = true) q hq i hi
    split at k
    · exact ⟨_, by assumption, k⟩
    · cases k
  · cases rc
    · exact takes_of (by decide) (by decide +kernel)
    · exact takes_of (by decide) (by decide +kernel)

def wHandles : List Instr := [.ftest h64 3 0, .ftest h64 3 4, .fwait h64 14 0 0, .fwait h64 14 4 3, .fwait h64 14 5 0, .fwait h64 14 6 0, .fexp h64 14 4, .fimp h64 2 0,
  .fimp h64 2 16, .fcancel h64 0, .fcancel h64 4, .fcancel h64 5]
/-- The same state while the home of the records' page is in warm reset. -/
def sDn : State := sM.setDie 0 { sM.die 0 with phase := .reset }
theorem witness_HandleInstructions :
    (∀ i ∈ wHandles, i.WfCore ∧ Acts i sM gM 0) ∧ gM.h 0 = 0 ∧ gM.s 0 = 0 ∧ HandleReads sM gM 0 (gM.h 4) (.valid 0x20000) ∧ HandleReads sM gM 0 (gM.h 5) .pending ∧
    HandleReads sM gM 0 (gM.h 6) .expired ∧ HandleReads sM gM 0 (gM.s 16) .pending ∧ sM.takenBy (sM.grpCtx gM) (gM.h 5) = false ∧
    (HandleFinds sDn gM 0 (gM.h 4) (.valid 0x20000) ∧ sDn.recordOk gM.core gM.die (sDn.grpCtx gM) (gM.h 4) = false ∧ ∀ i ∈ wHandles, Acts i sDn gM 0) :=
  ⟨fun i hi => fitsM (List.all_eq_true.1 (by decide : wHandles.all (fit gM) = true) i hi), by decide +kernel, by decide +kernel, reads_of (by decide +kernel),
    reads_of (by decide +kernel), reads_of (by decide +kernel), reads_of (by decide +kernel), by decide +kernel,
    by rw [HandleFinds, (start_of (s := sDn) (g := gM) ⟨rfl, rfl⟩ rfl).1]; decide +kernel, by decide +kernel,
    fun i hi => (fits_in (s := sDn) (List.all_eq_true.1 (by decide : wHandles.all (fit gM) = true) i hi) (wAt_cur gM wT rfl : sM.curGrp? = some gM) standsM).2⟩

/-! ### Special registers, sleep, traps -/

def wReads : List Instr := [.sread h64 14 0x03 0, .sread h64 14 0x0F 0, .sread h64 14 0x00 1, .sread h64 14 0x02 1, .sread h64 14 0x0C 1, .sread h64 2 0x01 2, .sread h64 14 31 3]
def wWrites : List Instr := [.swriteFriv h64 11, .swriteSbchk h64 13, .swriteSpoob h64 0, .swriteNcw h64 18 15]
/-- Window register 15 covers 64 KiB from 0x40000 on, and another core's L1 holds a dirty line of it. -/
def sNcw (dirty : Bool) : State :=
  let s := sM.setCtx { sM.ctxD 0 with ncw := put (sM.ctxD 0).ncw 15 (.ofNat 128 (2 ^ 127 + 2 ^ 64 + 0x40000)) }
  s.setCore 1 { s.core 1 with l1 := [⟨0x40000, [(0x40001, 7)], if dirty then [0x40001] else [], 4, some (0, 0x40000), 0, 0⟩] }
theorem witness_SpecialRegisters :
    (∀ i ∈ wReads ++ wWrites, i.WfCore ∧ Acts i sM gM 0) ∧ (gM.s 18).toNat % 65536 = 0 ∧
    apert (gM.s 18) = .trans ∧ (gM.s 19).toNat / 2 ^ 32 % 2 ^ 31 = 0 ∧
    ∀ dirty, let s := sNcw dirty
      Acts (.swriteNcw h64 18 15) s gM 0 ∧ bit (s.desc (s.grpCtx gM)).flags 1 = true ∧
      ((gM.onPath 0).obq.all fun e => (startOf s gM 0).performedAt (gM.onPath 0) e 4) = true ∧ (∀ c < 192, ((s.core c).l1.map (·.addr)).Nodup) ∧
      (startOf s gM 0).windowsClean (s.grpCtx gM) (nth (s.ctxD (s.grpCtx gM)).ncw 15).toNat = !dirty := by
  rw [(startM wT).2]
  refine ⟨fun i hi => fitsM (List.all_eq_true.1 (by decide : (wReads ++ wWrites).all (fit gM) = true) i hi), by decide +kernel, by decide +kernel, by decide +kernel, fun dirty => ?_⟩
  dsimp only
  rw [(start_of (s := sNcw dirty) (g := gM) ⟨rfl, rfl⟩ rfl).1]
  have h := (by decide +kernel : ∀ dirty, bit ((sNcw dirty).desc ((sNcw dirty).grpCtx gM)).flags 1 = true ∧ (∀ c < 192, (((sNcw dirty).core c).l1.map (·.addr)).Nodup) ∧
    (sNcw dirty).windowsClean ((sNcw dirty).grpCtx gM) (nth ((sNcw dirty).ctxD ((sNcw dirty).grpCtx gM)).ncw 15).toNat = !dirty) dirty
  exact ⟨(fits_in (s := sNcw dirty) (g := gM) (i := .swriteNcw h64 18 15) (by decide) (show (sNcw dirty).curGrp? = some gM from wAt_cur gM wT rfl) standsM).2, h.1, rfl, h.2⟩
def gSlp : Group := { wG with lanes := put (put wG.lanes 0 (.waiting (.sleep 0 8 5))) 1 (.waiting (.sleep 1 8 6)) }
theorem witness_CountersAndSleep :
    (∀ i ∈ [Instr.pmrd h64 14 7, .pmrd h64 14 64, .pmrd h64 14 143, .sleep h64 (.sca 0), .sleep h96 (.imm 0xFFFFFFFF)], i.WfCore ∧ Acts i sM gM 0) ∧
    (gM.opnd true 0 (.sca 0) 0).toNat = 0 ∧ (gM.opnd true 0 (.imm 0xFFFFFFFF) 0).toNat ≠ 0 ∧ (wAt gSlp wT).grp? 3 = some gSlp ∧ gSlp.res = .resident :=
  ⟨fun i hi => fitsM (List.all_eq_true.1 (by decide : [Instr.pmrd h64 14 7, .pmrd h64 14 64, .pmrd h64 14 143, .sleep h64 (.sca 0), .sleep h96 (.imm 0xFFFFFFFF)].all (fit gM) = true) i hi),
    by decide +kernel, by decide, wAt_grp _ _ rfl, rfl⟩
theorem witness_SoftwareTraps : AllAct [.trap h64 0, .trap h64 255, .bkpt (p1 h64) 7] := all_act (by decide)
def tr0 : TrapSt := ⟨255, 0xFFFFFFFC, 255, 255, 5, 0x40002, true, 16, false, none⟩
def gTr : Group := { wG with trap := some tr0 }
theorem witness_TrapsAreDelivered : (wAt gTr wT).grp? 3 = some gTr ∧ gTr.res = .resident ∧ gTr.trap = some tr0 ∧ tr0.delivered = false ∧
    (gTr.flush ((wAt gTr wT).now gTr)).pend = [] ∧ gTr.core < 192 ∧ tr0.cause < 256 ∧ tr0.lane < 256 ∧ tr0.code < 256 ∧ gTr.slot < 128 :=
  ⟨wAt_grp _ _ rfl, rfl, rfl, rfl, rfl, by decide, by decide, by decide, by decide, by decide⟩

/-! ### Matrix engines -/

/-- Engine 0 as team 2 holds it: set 0 declared INT8, the others not. -/
def eHeld : Engine := { Engine.reset with lease := some 2, decl := put Engine.reset.decl 0 (3, false) }
/-- The team's convergence register 1 has group 0 as its only member. -/
def tM : Team := { wT with cvs := put wT.cvs 1 ⟨1, 0, 3, none, []⟩ }
def sE : State := (wAt gM tM).setEng 0 eHeld
theorem sE_start : startOf sE gM 0 = sE ∧ gM.onPath 0 = gM := start_of ⟨rfl, rfl⟩ rfl
theorem fitsE {i : Instr} (h : fit gM i = true) : i.WfCore ∧ Acts i sE gM 0 := fits_in h (wAt_cur gM tM rfl : sE.curGrp? = some gM) standsM
theorem takeLease_held (s : State) (t e : Nat) (h : ((s.eng e).lease == some t && !(s.eng e).leaving) = true) : s.takeLease t e = some s := by
  simp only [Bool.and_eq_true, Bool.not_eq_true'] at h
  simp [State.takeLease, h.1, h.2]
theorem alloc_ok {s : State} {src d c : Nat} {x : W64} (h : Try.val? (s.alloc src d c) = some x) (hx : x ≠ 0) : ∃ v, s.alloc src d c = .ok x v := try_ok h hx
def mf : MFld := ⟨1, 0, 0, false, false, 3, 0, 0, 0, false, false, 0, 0, false, false, 0⟩
def mm : MOp := ⟨2, 5, 0, 1, 0, mf⟩
/-- A TileAt in the team's own window. -/
theorem tile5 (s : State) (b : Bool) : TileAt s gM (gM.s 5) b := ⟨by decide +kernel, .inl ⟨0x40, by decide +kernel⟩⟩
theorem serves0 : EngineServes sE gM tM 0 0 sE :=
  ⟨wAt_team gM tM rfl, by decide +kernel, by decide +kernel, takeLease_held _ _ _ (by decide +kernel), rfl, by decide, by decide +kernel⟩
/-- A free engine, whose lease the team takes at once. -/
theorem serves_free : EngineServes sM gM wT 0 0 (sM.setEng 0 (leased (some 2) [])) :=
  ⟨wAt_team gM wT rfl, by decide +kernel, by decide +kernel, rfl, rfl, by decide, by decide +kernel⟩
def wTiles : List Instr := [.mwld h128 { mm with c := 0, set := 7 }, .mwld h128 { mm with c := 16, f := { mf with acc := true, wh := true, fmt := 5 } }, .macz h64 0 15,
  .macrd h128 { mm with b := 11, c := 0, f := { mf with fmt := 0, n := 256 } }, .macwr h128 { mm with b := 11, c := 4, f := { mf with fmt := 0, n := 1, row := 255, wh := true } }]
/-- The state behind the reading of a handle. -/
def seenE (x : W64) : State := if x != 0 then sE.recordSeen gM.core gM.die (sE.grpCtx gM) x else sE
theorem seenE_teams (x : W64) : (seenE x).teams = [tM] := by
  rw [seenE]
  split
  · rw [State.recordSeen]
    split
    · rfl
    · rw [State.directTbl]
      split
      · rw [State.directTouch]
        split
        · rfl
        · rw [State.touch, State.insertIfTouched]
          split <;> split <;> rfl
      · rw [State.directTouch]
        split
        · rfl
        · rw [State.touch, State.insertIfTouched]
          split <;> split <;> rfl
  · rfl
def seenOk (x : W64) : Bool :=
  (seenE x).matPresent 0 && decide (0 < (seenE x).chainOf 2 0) && (((seenE x).eng 0).lease == some 2 && !((seenE x).eng 0).leaving) &&
  decide ((((seenE x).eng 0).table.filter MReq.inTable).length < 32) && decide (Try.val? ((seenE x).alloc 0 0 (sE.grpCtx gM)) = some (hnd 0))
theorem seenOk_all : seenOk (gM.s 16) = true ∧ seenOk (gM.h 4) = true := by decide +kernel
theorem witness_MatrixRequestsEnterTable :
    (∀ i ∈ wTiles, i.WfCore ∧ Acts i sE gM 0) ∧ (TileAt sE gM (gM.s 5) true) ∧ HandleReads sE gM 0 (gM.s 16) .pending ∧
    HandleReads sE gM 0 (gM.h 4) (.valid 0x20000) ∧ EngineServes (startOf sE gM 0) (gM.onPath 0) tM 0 0 sE ∧ EngineServes (startOf sM gM 0) (gM.onPath 0) wT 0 0 (sM.setEng 0 (leased (some 2) [])) ∧
    (∃ v, sE.alloc gM.core gM.die (sE.grpCtx gM) = .ok (hnd 0) v) ∧
    (∀ x ∈ [gM.s 16, gM.h 4], EngineServes (afterHandle sE gM 0 true x) (gM.onPath 0) tM 0 0 (afterHandle sE gM 0 true x) ∧
      ∃ v, (afterHandle sE gM 0 true x).alloc gM.core gM.die (sE.grpCtx gM) = .ok (hnd 0) v) := by
  have r : ∀ {x r}, (x ≠ 0 ∧ sE.recordOk gM.core gM.die (sE.grpCtx gM) x = true ∧ sE.record (sE.grpCtx gM) x = r ∧ r ≠ .bad ∧ r ≠ .noPage) → HandleReads sE gM 0 x r := by
    intro x r h; rw [HandleReads, HandleFinds, sE_start.1]; exact ⟨⟨h.1, h.2.2.1, h.2.2.2⟩, h.2.1⟩
  refine ⟨fun i hi => fitsE (List.all_eq_true.1 (by decide : wTiles.all (fit gM) = true) i hi), tile5 _ _, r (by decide +kernel), r (by decide +kernel), ?_, ?_, alloc_ok (by decide +kernel) (by decide), ?_⟩
  · rw [sE_start.1, sE_start.2]; exact serves0
  · rw [show startOf sM gM 0 = sM from (startM wT).1, (startM wT).2]; exact serves_free
  · intro x hx
    have e : afterHandle sE gM 0 true x = seenE x := by simp only [afterHandle, sE_start.1, seenE, Bool.true_and]
    rw [sE_start.2, e]
    have k : seenOk x = true := by
      simp only [List.mem_cons, List.not_mem_nil, or_false] at hx
      rcases hx with rfl | rfl
      · exact seenOk_all.1
      · exact seenOk_all.2
    simp only [seenOk, Bool.and_eq_true, decide_eq_true_eq] at k
    obtain ⟨⟨⟨⟨k1, k2⟩, k3⟩, k4⟩, k5⟩ := k
    exact ⟨⟨by simp [State.team?, seenE_teams, show gM.team = 2 from rfl, show tM.id = 2 from rfl], k1, k2, takeLease_held _ _ _ (by rw [Bool.and_eq_true]; exact k3), rfl, by decide, k4⟩, alloc_ok k5 (by decide)⟩

def mmaOf (ws : Nat) : Instr := .mma h128 { mm with f := { mf with ws } }
def wChains : List Instr := [mmaOf 0, mmaOf 1, .mchain h64 0, .mchain h64 2, .mstat h64 14 0 false, .mstat h64 14 0 true]
theorem witness_MatrixSignaturesAndChains :
    (∀ i ∈ wChains, i.WfCore ∧ Acts i sE gM 0) ∧ (sE.team? gM.team = some tM ∧ engOfCore tM.core = gM.core / 4 ∧ TileAt sE gM (gM.s 5) false ∧ (cvOf tM 1).bound = none ∧
      (cvOf tM 1).members.getLsbD gM.gid = true ∧ (cvOf tM 1).signed.getLsbD gM.gid = false ∧
      (∀ x ∈ sE.groups, ∀ l < 128, ∀ y, nth x.lanes l ≠ .waiting (.cvsign 1 (some y))) ∧ EngineServes (startOf sE gM 0) (gM.onPath 0) tM 0 0 sE) ∧
    ((∀ j < sE.chainOf tM.id 0, SetsSuit (sE.eng (0 + j)) mf) ∧ ¬ (∀ j < sE.chainOf tM.id 0, SetsSuit (sE.eng (0 + j)) { mf with ws := 1 })) ∧
    (∃ v, sE.alloc gM.core gM.die (sE.grpCtx gM) = .ok (hnd 0) v) ∧
    (∀ n ∈ [0, 2], gM.core / 4 % 3 + n ≤ 2 ∧ (∀ j ≤ n, sE.matPresent (gM.core / 4 + j) = true) ∧ sE.chainOf tM.id (gM.core / 4) ≤ 3 - gM.core / 4 % 3 ∧
      ∃ v, sE.takeLeases tM.id ((List.range n).map (gM.core / 4 + 1 + ·)) = .inl v ∧ ∀ j < max (sE.chainOf tM.id 0) (n + 1), v.teamReqs tM.id (gM.core / 4 + j) = false) ∧
    (0 < sE.chainOf gM.team 0 ∧ (sE.eng 0).table.length ≤ 32 ∧ (sE.eng 0).chain ≤ 3 ∧ (∀ k < 8, (nth (sE.eng 0).sets k).fmt < 16) ∧ 0 + (sE.eng 0).chain ≤ 48) := by
  have ch : sE.chainOf 2 0 = 1 ∧ gM.core / 4 = 0 := by decide +kernel
  have he : sE.eng 0 = eHeld := by rfl
  have hc : cvOf tM 1 = ⟨1, 0, 3, none, []⟩ := rfl
  refine ⟨fun i hi => fitsE (List.all_eq_true.1 (by decide : wChains.all (fit gM) = true) i hi), ⟨wAt_team gM tM rfl, by decide, tile5 _ _, by rw [hc], by rw [hc]; decide, by rw [hc]; decide, fun x hx l hl y => ?_, ?_⟩,
    ⟨fun j hj => ?_, fun h => ?_⟩, alloc_ok (by decide +kernel) (by decide), ?_, by decide +kernel⟩
  · obtain rfl : x = gM := by simpa [sE, wAt, State.setEng] using hx
    rw [show nth gM.lanes l = .ready by simp [gM, setS, wG, nth, hl]]
    simp
  · rw [sE_start.1, sE_start.2]; exact serves0
  · rw [show tM.id = 2 from rfl, ch.1] at hj
    obtain rfl : j = 0 := by omega
    rw [show sE.eng (0 + 0) = eHeld from he]
    simp [SetsSuit, mf, eHeld, nth, put, Engine.reset]
  · have := h 0 (by rw [show tM.id = 2 from rfl, ch.1]; decide)
    rw [show sE.eng (0 + 0) = eHeld from he] at this
    simp [SetsSuit, mf, eHeld, nth, put, Engine.reset] at this
  · rw [ch.2]
    simp only [List.forall_mem_cons]
    exact ⟨⟨by decide, by decide +kernel, by decide +kernel, _, rfl, by decide +kernel⟩, ⟨by decide, by decide +kernel, by decide +kernel, _, rfl, by decide +kernel⟩, fun _ h => nomatch h⟩

/-! ### Curd units -/

/-- A grid that uses the curd units; `q`: it has been found quiescent. -/
def kC (q : Bool) : Grid := { wK with hdr := toWords 8 (2 ^ 128 + 2 ^ 416 * 256 + 2 ^ 448 * 0x30000), quiet := q }
/-- Die 0's unit holds an item of list 5 where `one`. -/
def sC (q one : Bool) : State :=
  let s := { sM with grids := [kC q] }
  if one then s.setDie 0 { s.die 0 with curd := ⟨some 1, [(5, 9)], [], []⟩ } else s
def wCurd : List Instr := [.wapp h64 20 30 2, .wapp (p1 h64) 20 30 2, .wtake h64 20 17 2 3, .wtake (p1 h64) 20 0 2 3, .widle h64]
theorem sC_start (q one : Bool) : (sC q one).curGrp? = some gM := by cases one <;> exact (wAt_cur gM wT rfl : sM.curGrp? = some gM)
theorem witness_WorkLists : ∀ q one,
    (sC q one).grpGrid? gM = some (kC q) ∧ (kC q).usesCurd = true ∧ (kC q).quiet = q ∧ (∀ i ∈ wCurd, i.WfCore ∧ Acts i (sC q one) gM 0) ∧
    (∀ d < 4, CurdFree (sC q one) (kC q) d) ∧ (∀ e < 4, ((sC q one).die e).curd.items.length + ((sC q one).die e).curd.fly.length + 128 ≤ 2 ^ 20) ∧
    (gM.s 17).toNat % 2 ^ 14 = 5 ∧ listItems ((sC q one).die 0).curd 5 = (if one then [9] else []) ∧ listItems ((sC q one).die 0).curd 0 = [] ∧
    (∀ w ∈ ((sC q one).die 0).curd.waits, w.list ≠ 5) ∧ (gM.s 0).toNat % 2 ^ 14 = 0 := by
  intro q one
  refine ⟨by cases one <;> rfl, by cases q <;> decide +kernel, rfl,
    fun i hi => fits_in (List.all_eq_true.1 (by decide : wCurd.all (fit gM) = true) i hi) (sC_start q one) standsM, ?_⟩
  have k : ∀ q one, (∀ d < 4, (sC q one).listOk (kC q) d = true ∧ (((sC q one).die d).curd.owner = none ∨ ((sC q one).die d).curd.owner = some (kC q).id)) ∧
      (∀ e < 4, ((sC q one).die e).curd.items.length + ((sC q one).die e).curd.fly.length + 128 ≤ 2 ^ 20) ∧ (gM.s 17).toNat % 2 ^ 14 = 5 ∧
      listItems ((sC q one).die 0).curd 5 = (if one then [9] else []) ∧ listItems ((sC q one).die 0).curd 0 = [] ∧
      (∀ w ∈ ((sC q one).die 0).curd.waits, w.list ≠ 5) ∧ (gM.s 0).toNat % 2 ^ 14 = 0 := by decide +kernel
  exact k q one
/-- Two items of one WAPP on their way, whose releases nothing of their group holds back, to a list where no one or one WTAKE waits. -/
def eIt (n : Nat) : Entry := ⟨8 + n, .item 5, n, 1, 0, 0, .nowhere, 0, 0, 0, 4, false, .queued, 0, [], true, 7, false⟩
def gIt : Group := { gM with obq := [eIt 0, eIt 1], idle := true }
def wTk : Take := ⟨6, 3, 5, 20, 2, 3, 1, 8⟩
def sIt (w : List Take) : State := let s := { wAt gIt wT with grids := [kC false] }; s.setDie 0 { s.die 0 with curd := ⟨some 1, [], [(3, 5, 9, 7), (3, 6, 4, 7), (3, 5, 11, 7)], w⟩ }
def gTake : Group := { gM with lanes := put wG.lanes 0 (.waiting (.take 6)), idle := true }
def sTake : State := let s := { wAt gTake wT with grids := [kC false] }; s.setDie 0 { s.die 0 with curd := ⟨some 1, [], [], [wTk]⟩ }
theorem items_free : ∀ w ∈ [[], [wTk]], (sIt w).heldBack gIt 0 (eIt 0) false = false := by decide +kernel
theorem witness_ItemsArriveAndQuiescence :
    (∀ w ∈ [[], [wTk]], ((sIt w).die 0).curd.fly[0]? = some (3, 5, 9, 7) ∧ (∀ y ∈ ((sIt w).die 0).curd.fly.take 0, y.1 = 3 → y.2.1 ≠ 5) ∧ ((sIt w).die 0).curd.waits = w ∧
      listItems ((sIt w).die 0).curd 5 = [] ∧ ∀ g, (sIt w).grp? 3 = some g → ∀ j e, g.obq[j]? = some e → e.kind = .item 5 ∧ e.inst = 7 ∧ e.stage = .queued →
        (∀ y ∈ g.obq.take j, ¬ (y.kind = .item 5 ∧ y.inst = 7 ∧ y.stage = .queued)) → (sIt w).heldBack g j e false = false) ∧ wTk.list = 5 ∧ ascending wTk.mask = [0] ∧
    sTake.grid? 1 = some (kC false) ∧ (kC false).usesCurd = true ∧ (kC false).quiet = false ∧ sTake.quiescent (kC false) = true ∧
    (sTake.dies.toList.flatMap fun d => d.curd.waits.map (·.uid)).Nodup := by
  refine ⟨fun w hw => ⟨rfl, by simp, rfl, rfl, fun g hg j e he _ hb => ?_⟩, rfl, by decide +kernel, rfl, by decide +kernel, rfl, by decide +kernel, by decide +kernel⟩
  obtain rfl : gIt = g := Option.some.inj hg
  have f := items_free w hw
  match j, he with
  | 0, he => obtain rfl : eIt 0 = e := Option.some.inj he; exact f
  | 1, he => exact absurd ⟨rfl, rfl, rfl⟩ (hb (eIt 0) (by simp [gIt]))
  | _ + 2, he => simp [gIt] at he

/-! ### Stack cores -/

/-- A task of stack core 0: x4 a row of its channel, x5 and x0 offset 0, x6 an odd address, x7 an unmapped one, x8 a row of another channel;
q1 to q3 hold lane 0 alone. -/
def t0 : Task := { newTask 9 0 1 0 0 [] with q := .replicate 4 1, x := put (put (put (put (.replicate 32 0) 4 0x40000) 6 0x40001) 7 0x80000000) 8 0x40800 }
/-- Its kernel, of 256 bytes of code, a header and a packet for one task. -/
def kS : Grid := { wK with id := 9, stack := true, tasks := [0], hdr := toWords 8 (2 ^ 156 + 2 ^ 256 + 2 ^ 288 + 2 ^ 296 + 2 ^ 416 * 256 + 2 ^ 448 * 0x30000), pkt := toWords 8 (2 ^ 256) }
def atS (t : Task) : State :=
  { State.reset with cur := .task 0, nextId := 10, stackCores := put State.reset.stackCores 0 ⟨some t, [], [], .replicate 4 none⟩, grids := [kS], dram := wMem, md := wMd }
def sS : State := atS t0
theorem tissues (i : Instr) (t : Task) (h : t.fin = none ∧ t.wait = .no) : TIssues i (atS t) 0 t := ⟨by decide, rfl, rfl, h.1, h.2⟩
def fitS (i : Instr) : Bool := legal i && i.onStack
theorem fitsS {is : List Instr} (h : is.all fitS = true) : ∀ i ∈ is, i.WfStack ∧ TIssues i sS 0 t0 := by
  intro i hi
  have := List.all_eq_true.1 h i hi
  simp only [fitS, Bool.and_eq_true] at this
  exact ⟨this, tissues i t0 ⟨rfl, rfl⟩⟩
def so (f : FTy) : FFn := ⟨false, false, 0, f⟩
/-- Every arithmetic instruction of the stack set, scalar forms, predicates, and all under ~q0. -/
def wStack : List Instr :=
  [.sAdd h64 i32 o2, .sSub h64 i32 o2, .sMul h64 i32 o2, .sMad h64 i32 o3, .sAnd h64 i32 o2, .sOr h64 i32 o2, .sXor h64 i32 o2, .sShl h64 i32 o2, .sShr h64 i32 o2,
   .sMovi h64 i32 ⟨4, .imm 0x7F, .none, .none, 0⟩, .sAdd h64 ⟨true, 0, .i64⟩ ⟨31, .sca 6, .sca 8, .none, 0⟩, .sAdd (p1 h96) i32 ⟨4, vr 6, .imm 5, .none, 0⟩]
def wStackF : List Instr := [.sFadd h64 f32 o2, .sFmul h64 (so .f16) o2, .sFfma h64 ⟨true, true, 1, .bf16⟩ o3, .sFmin h64 f32 o2, .sFmax (p1 h64) f32 o2]
def wStackO : List Instr := [.sFcvt h96 4 6 ⟨true, 0, 0, 4⟩, .sFcvt h96 4 6 ⟨false, 4, 2, 4⟩, .sCmp h64 ⟨false, 5, .n32⟩ ⟨3, vr 6, vr 8, .none, 0⟩,
  .sCmp h64 ⟨true, 2, .i64⟩ ⟨0, .sca 6, .sca 8, .none, 0⟩, .sSel h64 i32 o2 3, .sMov h64 i32 ⟨4, .none, vr 8, .none, 0⟩, .sMov h64 ⟨true, 0, .i32⟩ ⟨4, .none, .sca 8, .none, 0⟩,
  .vred h64 false 2 .i32 4 5, .vred h64 true 0 .i32 4 5]
def noS : Instr := .sAdd { h64 with neg := true } i32 o2
theorem witness_StackArithmetic :
    (∀ i ∈ wStack ++ wStackF ++ wStackO, (i.WfStack ∧ TIssues i sS 0 t0) ∧ tAct i t0 ≠ 0) ∧ (∀ i ∈ wStack, (stackRow i).isSome) ∧
    (∀ i ∈ wStackF, (stackFloatRow i).isSome) ∧ (stackRow noS).isSome ∧
    (noS.WfStack ∧ TIssues noS sS 0 t0) ∧ tAct noS t0 = 0 :=
  ⟨fun i hi => ⟨fitsS (is := wStack ++ wStackF ++ wStackO) (by decide) i hi, (by decide +kernel : ∀ i ∈ wStack ++ wStackF ++ wStackO, tAct i t0 ≠ 0) i hi⟩,
    by decide, by decide, by decide, fitsS (is := [noS]) (by decide) noS (by simp), by decide +kernel⟩

def ko (a ix : Nat) (off : Byte) : KOp := ⟨4, a, 0, off, 4, false, ix⟩
def wStackC : List Instr := [.sNop h64, .sBra h96 0 248, .sBra (p1 h96) 1 256, .sBra h96 2 2, .sBra h96 3 0, .loop h96 31 0xFFFFFFFC, .loop h96 6 28, .sExit h64,
  .srd h64 9 8 true false, .srd h64 9 5 false false, .srd h64 9 0 false true, .srd h64 9 6 true false, .ldk h64 (ko 5 0 0), .ldk h64 { ko 5 0 0 with sd := true },
  .stk (p1 h64) (ko 5 2 4), .ldk h64 (ko 6 0 0), .stk h64 (ko 4 0 0)]
theorem witness_StackControlAndScratch :
    (∀ i ∈ wStackC, i.WfStack ∧ TIssues i sS 0 t0) ∧ sS.grid? t0.grid = some kS ∧
    (GoodTarget kS.csize (t0.pc.toNat + (248 : W32).toInt) ∧ ¬ GoodTarget kS.csize (t0.pc.toNat + (256 : W32).toInt) ∧
      ¬ GoodTarget kS.csize (t0.pc.toNat + (0xFFFFFFFC : W32).toInt) ∧ (t0.xr 31 - 1 != 0) = true ∧ ((1 : W64) - 1 != 0) = false) ∧
    t0.rowops = [] ∧ tAct (.ldk h64 (ko 5 0 0)) t0 ≠ 0 ∧ tAct (.stk (p1 h64) (ko 5 2 4)) t0 = 1 ∧
    (∀ o ∈ [ko 5 0 0, ko 5 2 4], ∀ l ∈ kLanesOf (.ldk h64 o) t0 o, kOff t0 o l % 4 = 0 ∧ kOff t0 o l + 4 ≤ 4096 * t0.kscr) ∧
    (kOff t0 (ko 6 0 0) 0 % 4 ≠ 0) ∧ (kOff t0 (ko 4 0 0) 0 % 4 = 0 ∧ ¬ kOff t0 (ko 4 0 0) 0 + 4 ≤ 4096 * t0.kscr) ∧ ScratchFree t0 [0, 1] 0 4 := by
  have c : kS.csize = 256 := by decide +kernel
  rw [c]
  exact ⟨fitsS (by decide), rfl, ⟨by simp [GoodTarget, t0, newTask], by simp [GoodTarget, t0, newTask], by simp [GoodTarget, t0, newTask], by decide +kernel, by decide⟩, rfl, by decide +kernel, by decide +kernel, by decide +kernel, by decide +kernel, by decide +kernel, by simp [ScratchFree, t0, newTask]⟩

def kw (a : Nat) : KOp := { ko a 0 0 with sz := 0 }
/-- A task with a channel operation at its second row, and one that waits for an event. -/
def tR (kind : Nat) : Task := { t0 with rowops := [⟨kind, [0x50000, 0x60000], 2048, [7, 8], 1, 0x50000, 0, 1, 3, []⟩] }
def tE : Task := { t0 with wait := .ev 0x40000 1 2 }
def wChan : List Instr := [.rld h64 4 0 0, .rst h64 4 0 1, .rld h64 6 0 0, .rst h64 7 0 0, .rld h64 8 0 0, .sFence h64, .rldx (p1 h64) (kw 4), .rstx (p1 h64) (kw 4),
  .ratom (p1 h64) 4 0 14 4 0 6, .rldx (p1 h64) (kw 6), .rstx (p1 h64) (kw 7), .waitev h64 4 0 2, .waitev h64 6 0 0, .waitev h64 4 4 0, .post h64 8 4 7 254, .post h64 8 6 7 1]
/-- Every channel is stopped for a repair. -/
def sStop : State := { sS with chans := vmap (fun c => { c with repair := true }) sS.chans }
/-- The first and second row at x4, those at x6 to x8; the words there. -/
theorem witness_StackChannelAccesses :
    (∀ i ∈ wChan, i.WfStack ∧ TIssues i sS 0 t0) ∧ (rowRow (.rst h64 4 0 1) = some (1, 4, 0, 2) ∧ rowRow (.rld h64 7 0 0) = some (0, 7, 0, 1)) ∧
    ((t0.xr 4).toNat % 2048 = 0 ∧ (t0.xr 0).toNat % 16 = 0 ∧ (t0.xr 0).toNat + 2048 * 2 ≤ 4096 * t0.kscr ∧ (t0.xr 7).toNat % 2048 = 0 ∧ (t0.xr 6).toNat % 2048 ≠ 0) ∧
    (∀ kind ∈ [0, 1], ∀ k < 2, sS.chanTgt 0 (sS.taskCtx t0) k kind (t0.xr 4 + .ofNat 64 (65536 * k)) = .ok (0x40000 + 65536 * k)) ∧
    (∀ kind ∈ [0, 1], sS.chanTgt 0 (sS.taskCtx t0) 0 kind (t0.xr 7) = .fault (.fail 0 0x80000000 0x40000000) ∧ sS.chanTgt 0 (sS.taskCtx t0) 0 kind (t0.xr 8) = .prot) ∧
    ScratchFree t0 [0, 1] 0 4096 ∧ (∀ o ∈ [kw 4, kw 6, kw 7], tAct (.rldx (p1 h64) o) t0 = 1) ∧
    (∀ kind ∈ [0, 1, 2], wordAt sS 0 t0 (kw 4) kind 0 0 = .ok 0x40000 ∧ wordAt sS 0 t0 (kw 6) kind 0 0 = .prot ∧
      wordAt sS 0 t0 (kw 7) kind 0 0 = .fault (.fail 0 0x80000000 0x40000000)) ∧
    (t0.rowops = [] ∧ (sS.stk 0).left = [] ∧ (sS.chan 0).repair = false ∧ Memory.wf sS.dram = true ∧ 0x40000 % 4 = 0) ∧
    (∀ kind, (atS (tR kind)).task? 0 = some (tR kind) ∧ (tR kind).fin = none ∧ (tR kind).preempt = none ∧ (tR kind).rowops = [⟨kind, 0x50000 :: [0x60000], 2048, [7, 8], 1, 0x50000, 0, 1, 3, []⟩] ∧ ((atS (tR kind)).stk 0).left = [] ∧
      ((atS (tR kind)).chan 0).repair = false ∧ ((atS (tR kind)).chan 0).debt ≠ 8) ∧ chanOf 0x50000 = some 0 ∧
    (Instr.sFence h64).WfStack ∧ TIssues (.sFence h64) (atS (tR 2)) 0 (tR 2) ∧ (tR 2).rowops ≠ [] ∧
    (∀ i ∈ wChan, TIssues i sStop 0 t0) ∧ (∀ kind ∈ [0, 1], sStop.chanTgt 0 (sStop.taskCtx t0) 0 kind (t0.xr 4) = .wait) ∧
    ∀ kind ∈ [0, 1, 2], wordAt sStop 0 t0 (kw 4) kind 0 0 = .wait :=
  ⟨fitsS (by decide), ⟨rfl, rfl⟩, by decide +kernel, by decide +kernel, by decide +kernel, (by simp [ScratchFree, t0, newTask]), by decide +kernel, by decide +kernel,
    ⟨rfl, rfl, by decide +kernel⟩, fun kind => ⟨rfl, rfl, rfl, rfl, rfl, rfl, by simp [State.chan, atS, State.reset, nth]⟩, by decide, (fitsS (is := [.sFence h64]) (by decide) _ (by simp)).1, tissues _ _ ⟨rfl, rfl⟩, by simp [tR],
    fun i _ => ⟨by decide, rfl, rfl, rfl, rfl⟩, by decide +kernel, by decide +kernel⟩
/-- A task whose POST has still its word 0 to write. -/
def tPo : Task := { t0 with rowops := [⟨3, [0x40000], 0, [0xFE], 0, 0, 0, 0, 3, [0x40000]⟩] }
theorem witness_StackEventsAndPosts :
    ((t0.xr 6).toNat % 8 ≠ 0 ∧ (t0.xr 4).toNat % 32 = 0) ∧ (∀ k ∈ [0, 1], sS.homeTgt 0 (sS.taskCtx t0) k (t0.xr 4) = .ok 0x40000) ∧
    (sS.dieDown (homeDie 0x40000) = false ∧ sS.repairing 0x40000 = false ∧ sS.stackOk 0x40000 32 = true ∧ HomeOk sS 0x40000) ∧ sS.homeRead 0x40000 8 = 0 ∧ evCond 2 0 (t0.xr 0).toNat ∧ ¬ evCond 2 0 (t0.xr 4).toNat ∧
    ((atS tE).task? 0 = some tE ∧ tE.wait = .ev 0x40000 1 2 ∧ (atS tE).homeTgt 0 ((atS tE).taskCtx tE) 0 0x40000 = .ok 0x40000 ∧ (atS tE).dieDown (homeDie 0x40000) = false ∧ (atS tE).repairing 0x40000 = false) ∧
    (t0.rowops = [] ∧ (sS.stk 0).left = []) ∧ ((atS tPo).task? 0 = some tPo ∧ tPo.fin = none ∧ tPo.rowops = [⟨3, [0x40000], 0, [0xFE], 0, 0, 0, 0, 3, [0x40000]⟩] ∧ ((atS tPo).stk 0).left = [] ∧
      (atS tPo).stackOk 0x40000 8 = true ∧ HomeOk (atS tPo) 0x40000) := by
  have h : sS.homeTile? 0x40000 = none ∧ (atS tPo).homeTile? 0x40000 = none := by decide +kernel
  have z : (t0.xr 0).toNat = 0 ∧ (t0.xr 4).toNat = 0x40000 := by decide +kernel
  rw [z.1, z.2]
  exact ⟨by decide +kernel, by decide +kernel, ⟨by decide +kernel, by decide +kernel, by decide +kernel, by decide, by decide +kernel, fun x hx => by rw [h.1] at hx; cases hx⟩, by decide +kernel,
    by simp [evCond], by simp [evCond], ⟨rfl, rfl, by decide +kernel⟩, ⟨rfl, rfl⟩, rfl, rfl, rfl, rfl, by decide +kernel, by decide, by decide +kernel, fun x hx => by rw [h.2] at hx; cases hx⟩

def ER.isOk {α : Type} : ER α → Bool
  | .ok .. => true
  | _ => false
theorem er_ok {α : Type} {x : ER α} (h : ER.isOk x = true) : ∃ v s, x = .ok v s := by
  cases x <;> simp [ER.isOk] at h
  exact ⟨_, _, rfl⟩
/-- A kernel of one task that has not started; its image lies at 0x1000, 64 bytes. -/
def kN : Grid := { kS with tasks := [], hdr := toWords 8 (2 ^ 156 + 2 ^ 186 * 0 + 2 ^ 256 + 2 ^ 288 + 2 ^ 296 + 2 ^ 304 * 4 + 2 ^ 320 * 0x1000 + 2 ^ 384 * 8 + 2 ^ 416 * 256 + 2 ^ 448 * 0x30000) }
def sN : State := { State.reset with grids := [kN], dram := wMem, md := wMd }
def tP : Task := { t0 with preempt := some 0 }
def late (s : State) : State := s.setDie 0 { s.die 0 with cycle := 1050001 }
theorem witness_StackTasksAndChannels :
    ((sN.grid? kN.id = some kN ∧ kN.stack = true ∧ kN.ending = none ∧ sN.gridHeld kN = false ∧ sN.task? 0 = none ∧ (sN.die (0 / 64)).phase = .run ∧
        sN.stackFirst kN 0 = true ∧ sN.extQuiet = true ∧ sN.nextTask kN 0 = some 0) ∧ ∃ init s1 arg s2,
        sN.dispRead kN.die kN.ctx (.ofNat 64 kN.h.init) (if kN.h.init = 0 then 0 else 16 * kN.h.initsz) = .ok init s1 ∧
        s1.dispRead kN.die kN.ctx kN.p.arg (if kN.p.arg = 0 then 0 else 16 * kN.p.argsz) = .ok arg s2) ∧
    (let s := { sN with grids := [kS] }
     s.grid? kS.id = some kS ∧ s.stackOver kS = true ∧ CanRecord s (5000 + kS.die) kS.die kS.ctx kS.p.hdl) ∧
    (sS.task? 0 = some t0 ∧ t0.fin = none ∧ t0.preempt = none ∧ (atS (tR 1)).task? 0 = some (tR 1) ∧ (tR 1).fin = none ∧ ∃ r rest, (tR 1).rowops = r :: rest ∧ r.kind < 2 ∧ r.rows ≠ 0 ∧ r.pas ≠ []) ∧
    ((late (atS tP)).task? 0 = some tP ∧ tP.preempt = some 0 ∧ (late (atS tP)).grid? tP.grid = some kS ∧ kS.ending = none ∧ 0 + 1050000 < (late (atS tP)).stackNow 0) ∧
    (let s := sS.setStk 0 { sS.stk 0 with task := none, saved := [t0] }
     (s.stk 0).saved = [t0] ∧ s.task? 0 = none ∧ (s.die (0 / 64)).phase = .run) := by
  refine ⟨⟨⟨rfl, rfl, rfl, rfl, rfl, rfl, by decide +kernel, by decide +kernel, by decide +kernel⟩, ?_⟩, ⟨rfl, by decide +kernel, fun pa h => absurd (by decide +kernel : kS.p.hdl = 0) h⟩,
    ⟨rfl, rfl, rfl, rfl, rfl, _, _, rfl, by decide, by decide, by simp⟩, ⟨rfl, rfl, rfl, rfl, by decide +kernel⟩, rfl, rfl, rfl⟩
  obtain ⟨v, s1, h⟩ := er_ok (by decide +kernel : ER.isOk (sN.dispRead kN.die kN.ctx (.ofNat 64 kN.h.init) (if kN.h.init = 0 then 0 else 16 * kN.h.initsz)) = true)
  exact ⟨v, s1, 0, s1, h, by rw [State.dispRead, if_pos (by decide +kernel)]⟩

/-! ### Events of groups -/

/-- Lane 127 stands at 16, above the others, and the fairness counter at its limit. -/
def gRot : Group := { wG with fair := 4096, pcv := put wG.pcv 127 16 }
/-- The state at cycle c of die 0. -/
def atCyc (c : Nat) (s : State) : State := s.setDie 0 { s.die 0 with cycle := c }
def gHid : Group := { wG with hidden := true }
/-- Lane 0 waits at the barrier of 0x40 with its budget spent, lane 1 stands elsewhere. -/
def wWt : Wt := ⟨9, 3, 0x40, .barwt 2 15 1 (some 0), 0, 0, 1, 16⟩
def gBud : Group := { wG with lanes := put wG.lanes 0 (.waiting (.bank 9)) }
def tBud : Team := { bar 2 0 with bankq := [wWt] }
/-- A message on its way to the empty granule at 0x80. -/
def eMsg : Entry := ⟨8, .chan, 0, 1, 0, 0, .pad 2 0x80, 16, 77, 0, 0, false, .queued, 0, [], true, 0, false⟩
def gMsg : Group := { wG with obq := [eMsg] }
/-- A group with a register in general form, while another of its core finds no granule free; sixteen that use them all, and one moved out. -/
def gGen : Group := { wG with vregs := put wG.vregs 6 (.gen (.replicate 128 1)) }
def gNeed : Group := { wG with id := 4, slot := 1, room := 8192 }
def sPress : State := { wS with groups := [gGen, gNeed] }
def gAll (k : Nat) : Group := { wG with id := 10 + k, vregs := .replicate 256 (.gen (.replicate 128 1)) }
def gOut : Group := { gGen with hidden := true }
def sOut : State := { wS with groups := gOut :: (List.range 16).map gAll }
theorem gAll_granules (k : Nat) : (gAll k).granules = 512 := (by decide +kernel : (gAll 0).granules = 512)
theorem sOut_used : sOut.granulesUsed 0 = 8192 := by
  have e : (sOut.groups.filter fun g => g.core == 0 && g.res == .resident && !g.hidden) = (List.range 16).map gAll := by rfl
  rw [State.granulesUsed, e, List.foldl_map]
  simp only [gAll_granules]
  rfl
theorem press_ok : 8192 < sPress.granulesUsed gGen.core + gNeed.room ∧ (∀ x ∈ sPress.groups, x.core = gGen.core → x.res = .resident → x.hidden = true ∨ x.id = gNeed.id ∨ gGen.lastIssue ≤ x.lastIssue) ∧
    ¬ sOut.granulesUsed gOut.core + gOut.granules ≤ 8192 ∧ (wAt gHid wT).granulesUsed gHid.core + gHid.granules ≤ 8192 := by
  have h : gOut.granules = 8 := by decide +kernel
  rw [show gOut.core = 0 from rfl, sOut_used, h]
  decide +kernel
theorem witness_RotationHiddenTierAndWaits :
    ((wAt gRot wT).grp? 3 = some gRot ∧ gRot.res = .resident ∧ gRot.rot = none ∧ 2 ^ gRot.friv ≤ gRot.fair ∧ gRot.issueAddr = some 0 ∧
      ∃ l < 128, nth gRot.lanes l = .ready ∧ 0 < (nth gRot.pcv l).toNat) ∧
    ((atCyc 2049 wS).grp? 3 = some wG ∧ wG.hidden = false ∧ wG.lastIssue + 2048 < (atCyc 2049 wS).now wG ∧ wG.pend = []) ∧
    (sPress.grp? 3 = some gGen ∧ gGen.hidden = false ∧ gNeed ∈ sPress.groups ∧ gNeed.core = gGen.core ∧ gNeed.res = .resident ∧ gNeed.id ≠ gGen.id ∧ gNeed.room ≠ 0) ∧
    ((wAt gHid wT).grp? 3 = some gHid ∧ gHid.res = .resident ∧ gHid.hidden = true ∧ sOut.grp? 3 = some gOut ∧ gOut.res = .resident ∧ gOut.hidden = true) ∧
    (let s := atCyc 1 (wAt gBud tBud)
     s.grp? 3 = some gBud ∧ s.team? tBud.id = some tBud ∧ (∀ x ∈ s.teams, (∃ y ∈ x.bankq, y.grp = 3) → x = tBud) ∧
      tBud.fullAt wWt.off = true ∧ fld (tBud.rd wWt.off 16) 38 2 = 0 ∧ fld (tBud.rd wWt.off 16) 32 4 = 15 ∧ 1 ≠ 2 ^ 64 - 1 ∧ 0 < s.now gBud) ∧
    (let s := wAt gMsg wT
     s.grp? 3 = some gMsg ∧ (gMsg.obq.filter fun e => e.kind == .chan && e.stage == .queued)[0]? = some eMsg ∧ gMsg.obq[0]? = some eMsg ∧
      s.heldBack gMsg 0 eMsg false = false ∧ s.team? 2 = some wT ∧ wT.bankq = [] ∧ 0x80 + 16 ≤ wT.size ∧ wT.fullAt 0x80 = false ∧
      s.owned eMsg.loc 16 0 = false ∧ Memory.wf wT.win = true) := by
  refine ⟨⟨rfl, rfl, rfl, by decide, by decide +kernel, 127, by decide, by decide +kernel⟩, ⟨rfl, rfl, by decide +kernel, rfl⟩, ⟨rfl, rfl, by simp [sPress], rfl, rfl, by decide, by decide⟩, ⟨rfl, rfl, rfl, rfl, rfl, rfl⟩,
    ⟨rfl, rfl, ?_, by decide +kernel⟩, rfl, by decide +kernel, rfl, by decide +kernel, rfl, rfl, by decide +kernel⟩
  intro x hx _
  simpa [wAt, atCyc, State.setDie] using hx

/-! #### Saving and restoring -/

/-- A group without registers of its own, its lanes parked by a request to yield; another group of its team executes. -/
def gPk : Group := { wG with nv := 256, preds := .replicate 8 0, donem := 0, ns := 0, preempt := some 0, lanes := .replicate 128 .parked }
def gBy : Group := { wG with id := 4, slot := 1, gid := 1 }
/-- The save pool lies at 2^30, which a page maps to the memory of peer 0, whose link is up. -/
def poolMem : List Host.Cell := memWrite (memWrite (memWriteAll wMem (leCells 0x4008 8 (0xE3 + 2 ^ 50))) 0x103A 0) 0x103B 0x40
def poolMd : Module := { wMd with links := put wMd.links 0 ⟨true, []⟩ }
def sPk : State := { wAt gPk wT with groups := [gPk, gBy], dram := poolMem, md := poolMd }
theorem sPk_saves : (((sPk.setGrp gPk).saveGroup 3).isSome) = true := by decide +kernel
/-- That group once it is saved; its image lies at offset 0 of the pool. -/
def gSv : Group := { gPk with res := .saved, preempt := none, ibuf := none, img := some (0, 64) }
/-- The state in which it is, with an image of ready lanes there and registers of 0, or with nothing there (14 R329). -/
def sSv (bad : Bool) : State :=
  { sPk with groups := [gSv, gBy], dram := sPk.dram ++ (if bad then [] else cellsOf (2 ^ 50) 8 (1 + 2 ^ 16 * 256)) }
def poolOf (bad : Bool) : Option (Nat × State) := (sSv bad).poolRead 0 0 (((sSv bad).desc 0).savebase + 0) (64 / 64)
def imgOf (bad : Bool) : Nat := if bad then 0 else 1 + 2 ^ 16 * 256
theorem pools : ∀ bad, (poolOf bad).map (fun x => (x.1, (x.2.die 0).cycle)) = some (imgOf bad, 0) := by decide +kernel
theorem images : (gSv.fromImage (imgOf false) 0).isSome = true ∧ (gSv.fromImage (imgOf true) 0).isNone = true := by decide +kernel
/-- A group of an aborted gang. -/
def gAb : Group := { gPk with gangAbort := true }
def gDr : Group := { wG with res := .draining }
/-- Core 0 alone is present, and a grid of priority 1 wants all of its scratchpad. -/
def kHi : Grid := { wK with id := 5, next := 0, hdr := toWords 8 (2 ^ 112 + 2 ^ 200 * 128 + 2 ^ 416 * 256 + 2 ^ 448 * 0x30000), pkt := toWords 8 (1 + 2 ^ 16 + 2 ^ 256) }
def sPr : State := { wS with grids := [wK, kHi], md := { wMd with capdie := put (.replicate 4 0) 0 (2 ^ 84 + 1) } }
theorem sPr_starves : sPr.starved 1 = true ∧ wK.p.pri < 1 := by decide +kernel
theorem witness_PreemptionAndEnds :
    (sPr.grp? 3 = some wG ∧ wG.preempt = none ∧ sPr.grpTeam? wG = some wT ∧ sPr.grpGrid? wG = some wK ∧ (∃ s1, sPr.reserveTeam wT = some s1) ∧ wK.p.pri < 1 ∧
      sPr.starved 1 = true ∧ ∀ x ∈ sPr.groups, ∀ y s2, sPr.askable x = some (y, s2) → wK.id < y.id → 1 ≤ y.p.pri) ∧
    (sPk.grp? 3 = some gPk ∧ gPk.pend = [] ∧ (∀ l < 128, nth gPk.lanes l = .parked ∨ nth gPk.lanes l = .exited) ∧ gPk.trap = none ∧ gPk.core < 192 ∧ sPk.rangesClean gPk (sPk.heldAll gPk) = true ∧
      (∃ s1, (sPk.setGrp gPk).saveGroup 3 = some s1) ∧ ∃ x ∈ sPk.liveGroups gPk.team, x.id ≠ 3 ∧ x.res ≠ .saved) ∧
    (gPk.res = .resident ∧ gPk.preempt.isSome = true ∧ (sPk.die gPk.die).phase = .run ∧ gPk.gangAbort = false) ∧
    ((atCyc 1050001 (wAt gYld wT)).grp? 3 = some gYld ∧ gYld.preempt = some 0 ∧ (atCyc 1050001 (wAt gYld wT)).grpGrid? gYld = some wK ∧
      0 + 1050000 < (atCyc 1050001 (wAt gYld wT)).now gYld ∧ (atCyc 1050001 (wAt gYld wT)).untaken gYld = true ∧ wK.ending = none) ∧
    (∀ bad, (sSv bad).grp? 3 = some gSv ∧ gSv.res = .saved ∧ gSv.trap = none ∧ (sSv bad).grpTeam? gSv = some wT ∧ (sSv bad).grpGrid? gSv = some wK ∧
      ((sSv bad).freeSlots 0).contains 5 = true ∧ wT.saved = false ∧ wT.core = 0 ∧ gSv.img = some (0, 64) ∧ gSv.trapDue = none ∧ (sSv bad).trapSaved gSv = false ∧ gSv.adv = [] ∧
      ∀ y ∈ (sSv bad).teams, ∀ w ∈ y.bankq, w.grp ≠ 3) ∧
    (∃ w s1 x ws, poolOf false = some (w, s1) ∧ gSv.fromImage w (s1.die 0).cycle = some (x, ws)) ∧
    (∃ w s1, poolOf true = some (w, s1) ∧ gSv.fromImage w (s1.die 0).cycle = none) ∧
    ((wAt gAb wT).grp? 3 = some gAb ∧ gAb.gangAbort = true ∧ gAb.res = .resident ∧ gAb.pend = [] ∧ gAb.trap = none ∧
      (∀ l < 128, nth gAb.lanes l ≠ .ready) ∧ InContext (wAt gAb wT) gAb 0) ∧
    ((wAt gDr wT).grp? 3 = some gDr ∧ gDr.res = .draining ∧ gDr.obq = [] ∧ gDr.engines = [] ∧ (∀ h ∈ ((wAt gDr wT).core gDr.core).held, h.grp ≠ 3) ∧ ∀ x ∈ (wAt gDr wT).groups, x.core = gDr.core → x.untracked = false) := by
  have hr : sPr.reserveTeam wT ≠ none := by
    rw [← Option.isSome_iff_ne_none]; decide +kernel
  have lan : ∀ l < 128, nth gPk.lanes l = Lane.parked := by decide +kernel
  refine ⟨⟨rfl, rfl, rfl, rfl, Option.ne_none_iff_exists'.1 hr, sPr_starves.2, sPr_starves.1, fun x hx y s2 h hlt => ?_⟩, ⟨rfl, rfl, fun l hl => .inl (lan l hl), rfl, by decide, by decide +kernel, Option.isSome_iff_exists.1 sPk_saves, gBy, by simp [State.liveGroups, sPk, gPk, gBy, wG], by simp [gBy], by simp [gBy, wG]⟩,
    ⟨rfl, rfl, rfl, rfl⟩, ⟨rfl, rfl, rfl, by decide +kernel, by decide +kernel, rfl⟩, fun bad => ⟨by cases bad <;> rfl, rfl, rfl, by cases bad <;> rfl, by cases bad <;> rfl, by cases bad <;> decide +kernel, rfl, rfl, rfl, rfl, by cases bad <;> rfl, rfl, by cases bad <;> decide⟩, ?_, ?_,
    ⟨rfl, rfl, rfl, rfl, rfl, fun l hl => by rw [show nth gAb.lanes l = Lane.parked from lan l hl]; simp, wT, wK, rfl, rfl, rfl⟩, rfl, rfl, rfl, rfl, by decide +kernel, fun x hx _ => by rw [show x = gDr by simpa [wAt] using hx]; rfl⟩
  · obtain rfl : x = wG := by simpa [sPr, wS, wAt] using hx
    have e : (sPr.grpTeam? wG, sPr.grpGrid? wG) = (some wT, some wK) := rfl
    simp only [Prod.mk.injEq] at e
    simp only [State.askable, e.1, e.2] at h
    split at h
    · cases h
    · obtain ⟨_, -, h⟩ := Option.map_eq_some_iff.1 h
      simp only [Prod.mk.injEq] at h
      rw [← h.1] at hlt
      exact absurd hlt (Nat.lt_irrefl _)
  · obtain ⟨p, hp, he⟩ := Option.map_eq_some_iff.1 (pools false)
    obtain ⟨x, hx⟩ := Option.isSome_iff_exists.1 images.1
    simp only [Prod.mk.injEq] at he
    exact ⟨p.1, p.2, x.1, x.2, hp, by rw [he.1, he.2]; exact hx⟩
  · obtain ⟨p, hp, he⟩ := Option.map_eq_some_iff.1 (pools true)
    simp only [Prod.mk.injEq] at he
    exact ⟨p.1, p.2, hp, by rw [he.1, he.2]; exact Option.isNone_iff_eq_none.1 images.2⟩

/-! ### Records, queues, requests -/

def fltR (uid : Nat) (seq : Option Nat) (va : W64) : FaultRec := ⟨uid, seq, va, 16, 7, 0, 0, 0, 0, 0, 1, 0, 0, 0, 0, 3, false, 0, 0xFF⟩
/-- Context 0 with trap and fault records: of each kind one that its queue does not hold; the queue of trap records at 0xC000 is empty, the
header of the fault queue at 0x8000 counts 31. -/
def sRec : State :=
  let s := { wS with dram := memWriteAll wMem [(0x1032, 5), (0x8000, 31), (0x8008, 31)] }
  s.setCtx { s.ctxD 0 with
    traps := [⟨3, some 0, [], 1, false, true, false⟩, ⟨3, none, List.replicate 8 9, 3, false, false, false⟩],
    faults := [fltR 1 (some 3) 0x40000, fltR 2 (some 4) 0x80000000, fltR 3 none 0x80000000], trapSeq := 1, faultSeq := 31 }
theorem recQueued (base lsz n k : Nat) (hp pa : Nat) (h : sRec.recHdr 0 base = some (hp, k, k) ∧ sRec.devPa 0 (base + 64 + n * (k % 2 ^ lsz)) 1 = some pa ∧
    hp % 32 = 0 ∧ pa % 32 = 0 ∧ n ∈ [32, 64] ∧ pa % n = 0 ∧ (hp + 8 ≤ pa ∨ pa + n ≤ hp) ∧ tierOf hp ≠ .lp ∧ tierOf pa ≠ .lp ∧ sRec.homeTile? hp = none ∧
    sRec.homeTile? pa = none) : ∃ hp wr rd pa, sRec.recHdr 0 base = some (hp, wr, rd) ∧ sRec.devPa 0 (base + 64 + n * (wr % 2 ^ lsz)) 1 = some pa ∧
      HomeOk sRec hp ∧ HomeOk sRec pa ∧ n ∈ [32, 64] ∧ pa % n = 0 ∧ (hp + 8 ≤ pa ∨ pa + n ≤ hp) ∧ tierOf hp ≠ .lp ∧ tierOf pa ≠ .lp := by
  have w : Memory.wf sRec.dram = true := by decide +kernel
  obtain ⟨h1, h2, h3, h4, h5, h6, h7, h8, h9, h10, h11⟩ := h
  exact ⟨hp, k, k, pa, h1, h2, ⟨h3, w, fun x hx => by rw [h10] at hx; cases hx⟩, ⟨h4, w, fun x hx => by rw [h11] at hx; cases hx⟩, h5, h6, h7, h8, h9⟩
theorem witness_RecordsAndFirmware :
    ((sRec.desc 0).wellFormed = true ∧ (sRec.ctxD 0).badDesc = false ∧ ((sRec.desc 0).tqbase, (sRec.desc 0).tqlsz, (sRec.desc 0).fqbase, (sRec.desc 0).fqlsz) = (0xC000, 4, 0x8000, 5)) ∧
    ((sRec.ctxD 0).traps = [⟨3, some 0, [], 1, false, true, false⟩] ++ (⟨3, none, List.replicate 8 9, 3, false, false, false⟩ : TrapRec) :: [] ∧
      ∃ s1, sRec.putRec 0 0xC000 4 64 (ofWords ((List.replicate 8 9).set 2 (.ofNat 64 (1 % 2 ^ 32)))) = some s1) ∧
    ((sRec.ctxD 0).faults.find? (·.seq.isNone) = some (fltR 3 none 0x80000000) ∧ ∃ s1, sRec.putRec 0 0x8000 5 32 ((fltR 3 none 0x80000000).word 31) = some s1) ∧
    (∃ hp wr rd pa, sRec.recHdr 0 0xC000 = some (hp, wr, rd) ∧ sRec.devPa 0 (0xC000 + 64 + 64 * (wr % 2 ^ 4)) 1 = some pa ∧
      HomeOk sRec hp ∧ HomeOk sRec pa ∧ 64 ∈ [32, 64] ∧ pa % 64 = 0 ∧ (hp + 8 ≤ pa ∨ pa + 64 ≤ hp) ∧ tierOf hp ≠ .lp ∧ tierOf pa ≠ .lp) ∧
    (∃ hp wr rd pa, sRec.recHdr 0 0x8000 = some (hp, wr, rd) ∧ sRec.devPa 0 (0x8000 + 64 + 32 * (wr % 2 ^ 5)) 1 = some pa ∧
      HomeOk sRec hp ∧ HomeOk sRec pa ∧ 32 ∈ [32, 64] ∧ pa % 32 = 0 ∧ (hp + 8 ≤ pa ∨ pa + 32 ≤ hp) ∧ tierOf hp ≠ .lp ∧ tierOf pa ≠ .lp) ∧
    ((sRec.ctxD 0).faults.find? (fun f => f.seq == some 3 && !f.checked) = some (fltR 1 (some 3) 0x40000) ∧
      ∃ b z e, sRec.permit (sRec.walk 0 0x40000) 0x40000 0 = .ok b z e) ∧
    ((sRec.ctxD 0).faults.find? (fun f => f.seq == some 4 && !f.checked) = some (fltR 2 (some 4) 0x80000000) ∧
      ∃ ca b z, sRec.walk 0 0x80000000 = .fail ca b z) := by
  refine ⟨by decide +kernel, ⟨rfl, Option.isSome_iff_exists.1 (by decide +kernel)⟩, ⟨by decide +kernel, Option.isSome_iff_exists.1 (by decide +kernel)⟩,
    recQueued _ _ _ 0 0xC000 0xC040 (by decide +kernel), recQueued _ _ _ 31 0x8000 0x8420 (by decide +kernel), ⟨by decide +kernel, 0, 2 ^ 30, 0xE3, by decide +kernel⟩,
    by decide +kernel, 0, 0x80000000, 0x40000000, by decide +kernel⟩

/-- A group whose first result waits for nothing and whose second is a load of lane 3 into v10, performed. -/
def entL (kind : EKind) (loc : Loc) (n : Nat) : Entry := ⟨8, kind, 3, 8, 0, 0x40000, loc, n, 0x1FF, 0, 0, false, .queued, 5, [], true, 0, false⟩
def gRes : Group := { wG with pend := [⟨none, [], [.sset 4 7]⟩, ⟨none, [8], [.ld 10 2]⟩], obq := [{ entL .load (.mem 0x40000 0) 4 with stage := .done }] }
/-- A group with one queued entry; the core's L1 may hold the first bytes of the line at 0x40000. -/
def sQ (kind : EKind) (loc : Loc) (l1 : Bool) : State :=
  let s := wAt { wG with obq := [entL kind loc 4] } wT
  if l1 then s.setCore 0 { s.core 0 with l1 := [⟨0x40000, bytesCells 0x40000 [1, 2, 3, 4], [0x40001], 0, none, 0, 0⟩] } else s
def freeQ (kind : EKind) (loc : Loc) (l1 : Bool) : Bool :=
  let s := sQ kind loc l1
  match s.groups with
  | [g] => g.obq == [entL kind loc 4] && !s.heldBack g 0 (entL kind loc 4) false && (forwardBytes (g.obq.take 0) (entL kind loc 4)).isNone &&
      g.granMates (entL kind loc 4) == [entL kind loc 4] && !g.lostPriv (entL kind loc 4) 0x40000 &&
      !s.owned loc 4 0 && !s.writeBlocked 0 0 && !s.dieDown 0
  | _ => false
theorem shaped : TableShaped (List.replicate 5 (List.replicate 4 0)) := by unfold TableShaped; decide
theorem witness_QueueEntriesLeave :
    (∀ q ∈ gRes.pend, q.due = none) ∧
    (∀ i < 2, ∃ p, gRes.pend[i]? = some p ∧ gRes.ready p = true ∧ ∀ q ∈ gRes.pend.take i, q.touches (p.wrs.flatMap Wr.spans) = false) ∧
    (∃ p, gRes.pend[1]? = some p ∧ p.wrs = [.ld 10 2] ∧ (p.need.filterMap gRes.ent?).map (·.lane) = [3]) ∧
    (freeQ (.fence 0 1) .nowhere false && freeQ .store (.pad 2 0x10) false && freeQ (.atom 0 false 0) (.pad 2 0x10) false && freeQ .load (.mem 0x40000 0) true &&
      freeQ .load (.mem 0x40000 0) false && freeQ .store (.mem 0x40000 2) false && freeQ (.atom 7 true 3) (.mem 0x40000 2) false) = true ∧
    (Memory.wf wT.win = true ∧ 0x10 + 4 ≤ wT.size) ∧
    (let s := sQ .load (.mem 0x40000 0) true
     s.mayCache { wG with obq := [entL .load (.mem 0x40000 0) 4] } 0x40000 0x40000 (s.classNow { wG with obq := [entL .load (.mem 0x40000 0) 4] } 0x40000 0) false = true ∧ s.l1Get? 0 0x40000 4 = some 0x04030201) ∧
    (∀ k ∈ [EKind.store, .atom 7 true 3], (sQ k (.mem 0x40000 2) false).classNow { wG with obq := [entL k (.mem 0x40000 2) 4] } 0x40000 2 = 2 ∧
      (sQ k (.mem 0x40000 2) false).mayCache { wG with obq := [entL k (.mem 0x40000 2) 4] } 0x40000 0x40000 2 k.isWrite = false) ∧
    TableShaped (wS.die 0).dep := by
  refine ⟨by decide +kernel, ?_, ⟨_, rfl, rfl, rfl⟩, by decide +kernel, by decide +kernel, by decide +kernel, by decide +kernel, shaped⟩
  intro i hi
  match i, hi with
  | 0, _ => exact ⟨_, rfl, by decide +kernel, by decide +kernel⟩
  | 1, _ => exact ⟨_, rfl, by decide +kernel, by decide +kernel⟩

/-! ### Requests -/

/-- A request from die sd for the word at 0x40000, of die 0. -/
def reqP (sd : Nat) (k : EKind) : Req :=
  { uid := 9, src := 48 * sd, srcDie := sd, home := 0, grp := 3, ent := 8, kind := k, loc := .mem 0x40000 2, n := 4, data := 7, cells := [],
    write := k.isWrite, far := false, fill := 0, stamp := [0, if k.isWrite then 1 else 0, 0, 0, 0], table := [] }
def kinds : List EKind := [.load, .store, .atom 0 false 0, .atom 7 true 3]
def quad0 (s : State) (ts : List Tile) (as : List Acc) (ps : List Promo) (us : List Pull) : State :=
  s.setQuad 0 { s.quad 0 with tiles := ts, accs := as, promos := ps, pulls := us }
def tileP (pos : Option Nat) : Tile := { addr := 0x40000, copy := false, pos, legs := [], cls := 0, bytes := List.replicate 1024 3, dirty := [0x40001], sharers := [], apC := 0, apR := 0 }
def here : Way := ⟨0, 0, 0, true⟩
/-- What the request rests on, in a state whose tile, if any, is tileP. -/
theorem plain_of {s : State} {sd : Nat} {k : EKind} (hs : sd < 4) (hk : k ∈ kinds) (hm : Memory.wf s.dram = true)
    (ht : s.homeTile? 0x40000 = none ∨ ∃ p, s.homeTile? 0x40000 = some (tileP p)) : Plain s (reqP sd k) 0x40000 2 := by
  refine ⟨rfl, ⟨rfl, rfl⟩, by simp only [reqP]; decide, by simp [reqP], ?_, .inr (by decide), ⟨by simp only [reqP]; omega, by simp [reqP]⟩, hm, ?_⟩
  · simp only [kinds, List.mem_cons, List.not_mem_nil, or_false] at hk
    rcases hk with rfl | rfl | rfl | rfl <;> simp [reqP]
  · intro x hx
    rcases ht with h | ⟨p, h⟩
    · rw [h] at hx; cases hx
    · rw [h] at hx; cases hx; rfl
def sNet (sd : Nat) (k : EKind) : State := { wS with net := [reqP sd k] }
/-- Queues of die 0: an apply queue, the queue of writes from outside, the line that a write waits for. -/
def sDie (f : Die → Die) : State := wS.setDie 0 (f (wS.die 0))
/-- What of a request's way the statements ask, where no tile is held and the host holds no line. -/
def wayOk (s : State) (r : Req) : Bool :=
  !s.ownedReq r && !s.outranked r && !s.atRepair r && !s.dieDown r.home && (s.homeTile? 0x40000).isNone && !s.snooped r &&
  ((s.quad r.quad).tile? (tileOf r.pa)).isNone && !(s.quad r.quad).busyAt (tileOf r.pa) && s.acceptCycle r.quad == (s.die (r.quad / 4)).cycle
theorem way_of {s : State} {r : Req} (h : wayOk s r = true) :
    WayFree s r ∧ s.snooped r = false ∧ Unheld s r ∧ s.dieDown r.home = false ∧ s.homeTile? 0x40000 = none := by
  simp only [wayOk, Bool.and_eq_true, Bool.not_eq_true', Option.isNone_iff_eq_none, beq_iff_eq] at h
  obtain ⟨⟨⟨⟨⟨⟨⟨⟨h1, h2⟩, h3⟩, h4⟩, h5⟩, h6⟩, h7⟩, h8⟩, h9⟩ := h
  exact ⟨⟨h1, h2, h3⟩, h6, ⟨h7, h8, h9⟩, h4, h5⟩
theorem smallP {s : State} (h : s.groups = [wG]) (r : Req) : SmallAcquire s r := by
  intro g e hg he
  have := List.mem_of_find?_eq_some (show s.groups.find? _ = some g from hg)
  rw [h, List.mem_singleton] at this
  subst this
  cases he
def sAq (k : EKind) : State := sDie fun d => { d with applyq := put d.applyq 1 [reqP 1 k] }
def sAcc (k : EKind) : State := quad0 wS [tileP (some 4)] [⟨0, 0, here, reqP 0 k, 1⟩] [] []
def sRep (k : EKind) : State := { wS with replies := [⟨reqP 0 k, 5, List.replicate 5 [1, 2, 3, 4]⟩] }
def reqE : Req := { reqP 0 .store with src := 4000, loc := .mem 0x40000 0, cells := [(0x40001, 7), (0x40000, 8)], n := 2 }
def sExt : State := sDie fun d => { d with extq := [reqE] }
def sSn (k : EKind) : State := sDie fun d => { d with snoop := [reqP 0 k] }
/-- A request to a held tile, and a write to a line that the host holds. -/
def sHeld (k : EKind) : State := quad0 (sNet 0 k) [tileP (some 4)] [] [] []
def sHost (k : EKind) : State := { sDie fun d => { d with hostLines := [0x40000] } with net := [reqP 0 k] }
def accP (k : EKind) : Acc := ⟨0, 0, here, reqP 0 k, 1⟩
theorem witness_RequestsAreApplied :
    (∀ k ∈ kinds, ∀ sd < 2, let s := sNet sd k
      s.net[0]? = some (reqP sd k) ∧ (s.die 0).snoop = [] ∧ Plain s (reqP sd k) 0x40000 2 ∧ s.dieDown 0 = false ∧ WayFree s (reqP sd k) ∧
      s.snooped (reqP sd k) = false ∧ Unheld s (reqP sd k) ∧ SmallAcquire s (reqP sd k)) ∧
    (∀ k ∈ kinds, let s := sHeld k
      s.net[0]? = some (reqP 0 k) ∧ (s.die 0).snoop = [] ∧ Plain s (reqP 0 k) 0x40000 2 ∧ s.dieDown 0 = false ∧ WayFree s (reqP 0 k) ∧
      s.snooped (reqP 0 k) = false ∧ (s.quad (reqP 0 k).quad).tile? (tileOf 0x40000) = some (tileP (some 4))) ∧
    (∀ k ∈ [EKind.store, .atom 7 true 3], let s := sHost k
      s.net[0]? = some (reqP 0 k) ∧ (s.die 0).snoop = [] ∧ Plain s (reqP 0 k) 0x40000 2 ∧ s.dieDown 0 = false ∧ WayFree s (reqP 0 k) ∧
      s.snooped (reqP 0 k) = true) ∧
    (∀ k ∈ kinds, let s := sAq k
      nth (s.die 0).applyq 1 = [reqP 1 k] ∧ Plain s (reqP 1 k) 0x40000 2 ∧ s.dieDown 0 = false ∧ WayFree s (reqP 1 k) ∧
      s.snooped (reqP 1 k) = false ∧ Unheld s (reqP 1 k) ∧ TableShaped (s.die 0).dep ∧
      ∀ x < 5, let c := depAt (s.die 0).dep x 0
        let v := ((reqP 1 k).stamp[x]?).getD 0
        if x = 1 ∧ (reqP 1 k).write = true then c + 1 = v else v ≤ c) ∧
    (∀ k ∈ kinds, let s := sAcc k
      (s.quad 0).accs[0]? = some (accP k) ∧ AtTile s 0 0x40000 (accP k).way (accP k).key ∧ Plain s (reqP 0 k) 0x40000 2 ∧ 0 = homeQuad 0x40000 ∧
      s.ownedReq (reqP 0 k) = false ∧ s.atRepair (reqP 0 k) = false ∧ s.snooped (reqP 0 k) = false ∧ s.dieDown 0 = false ∧
      TableShaped (s.die 0).dep ∧ SmallAcquire s (reqP 0 k)) ∧
    (∀ k ∈ kinds, (sRep k).replies[0]? = some ⟨reqP 0 k, 5, List.replicate 5 [1, 2, 3, 4]⟩ ∧ (reqP 0 k).fill = 0 ∧ SmallAcquire (sRep k) (reqP 0 k)) ∧
    (homeDie 0x40000 < 4 ∧ tierOf 0x40000 = .hbm 0 ∧ wS.dieDown (homeDie 0x40000) = false ∧ wS.linkUp 16 = true ∧ 0x40000 % 8 = 0 ∧
      ∃ src < 16, ({ wS with md := { wMd with links := put wMd.links src { nth wMd.links src with up := true } } } : State).linkUp src = true) ∧
    ((sExt.die 0).extq = [reqE] ∧ (∀ c ∈ reqE.cells, tileOf c.1 = tileOf 0x40000) ∧ Memory.wf sExt.dram = true ∧ (reqE.cells.map (·.1)).Nodup ∧
      (reqE.kind = .store ∧ reqE.write = true ∧ reqE.fill = 0 ∧ reqE.cells ≠ [] ∧ 4000 ≤ reqE.src ∧ reqE.src < 5000 ∧ sExt.externalParked 0 = false) ∧
      sExt.ownedReq reqE = false ∧ sExt.outranked reqE = false ∧ Unheld sExt reqE ∧ TableShaped (sExt.die 0).dep) ∧
    (∀ src ∈ [0, 16], WayFree wS (outRead src 0x40000 64) ∧ Unheld wS (outRead src 0x40000 64)) ∧
    (∀ k ∈ kinds, let s := sSn k
      (s.die 0).snoop = [reqP 0 k] ∧ Plain s (reqP 0 k) 0x40000 2 ∧ s.dieDown 0 = false ∧ Unheld s (reqP 0 k) ∧ SmallAcquire s (reqP 0 k)) := by
  have wf : Memory.wf wMem = true := by decide +kernel
  refine ⟨fun k hk sd hd => ?_, fun k hk => ?_, fun k hk => ?_, fun k hk => ?_, fun k hk => ?_, fun k _ => ⟨rfl, rfl, smallP rfl _⟩,
    ⟨by decide, by decide +kernel, by decide +kernel, rfl, by decide, 0, by decide, by decide +kernel⟩,
    ⟨by decide +kernel, by decide +kernel, by decide +kernel, by decide +kernel, by decide +kernel, by decide +kernel, by decide +kernel,
      ⟨by decide +kernel, by decide +kernel, by decide +kernel⟩, shaped⟩, fun src hs => ?_, fun k hk => ?_⟩
  · have h := way_of ((by decide +kernel : ∀ k ∈ kinds, ∀ sd < 2, wayOk (sNet sd k) (reqP sd k) = true) k hk sd hd)
    exact ⟨rfl, by rfl, plain_of (by omega) hk wf (.inl h.2.2.2.2), h.2.2.2.1, h.1, h.2.1, h.2.2.1, smallP rfl _⟩
  · have h := (by decide +kernel : ∀ k ∈ kinds, let s := sHeld k
      (s.die 0).snoop = [] ∧ s.dieDown 0 = false ∧ (s.ownedReq (reqP 0 k) = false ∧ s.outranked (reqP 0 k) = false ∧ s.atRepair (reqP 0 k) = false) ∧
      s.snooped (reqP 0 k) = false ∧ (s.quad (reqP 0 k).quad).tile? (tileOf 0x40000) = some (tileP (some 4))) k hk
    exact ⟨rfl, h.1, plain_of (by omega) hk wf (.inr ⟨some 4, by rfl⟩), h.2.1, h.2.2.1, h.2.2.2.1, h.2.2.2.2⟩
  · have h := (by decide +kernel : ∀ k ∈ [EKind.store, .atom 7 true 3], let s := sHost k
      (s.die 0).snoop = [] ∧ s.dieDown 0 = false ∧ (s.ownedReq (reqP 0 k) = false ∧ s.outranked (reqP 0 k) = false ∧ s.atRepair (reqP 0 k) = false) ∧
      s.snooped (reqP 0 k) = true ∧ s.homeTile? 0x40000 = none) k hk
    exact ⟨rfl, h.1, plain_of (by omega) ((by decide : ∀ k ∈ [EKind.store, .atom 7 true 3], k ∈ kinds) k hk) wf (.inl h.2.2.2.2), h.2.1, h.2.2.1, h.2.2.2.1⟩
  · have h := way_of ((by decide +kernel : ∀ k ∈ kinds, wayOk (sAq k) (reqP 1 k) = true) k hk)
    exact ⟨by rfl, plain_of (by omega) hk wf (.inl h.2.2.2.2), h.2.2.2.1, h.1, h.2.1, h.2.2.1, shaped, (by decide +kernel : ∀ k ∈ kinds, ∀ x < 5,
      let c := depAt ((sAq k).die 0).dep x 0
      let v := ((reqP 1 k).stamp[x]?).getD 0
      if x = 1 ∧ (reqP 1 k).write = true then c + 1 = v else v ≤ c) k hk⟩
  · have h := (by decide +kernel : ∀ k ∈ kinds, let s := sAcc k
      s.acceptCycle 0 = (s.die 0).cycle ∧ (∀ b ∈ (s.quad 0).accs, earlier b.key (accP k).key = false) ∧ (s.quad 0).pulls = [] ∧
      s.ownedReq (reqP 0 k) = false ∧ s.atRepair (reqP 0 k) = false ∧ s.snooped (reqP 0 k) = false ∧ s.dieDown 0 = false) k hk
    exact ⟨rfl, ⟨rfl, h.1, fun b hb _ => h.2.1 b hb, by rw [h.2.2.1]; simp⟩, plain_of (by omega) hk wf (.inr ⟨some 4, by rfl⟩), by decide, h.2.2.2.1, h.2.2.2.2.1,
      h.2.2.2.2.2.1, h.2.2.2.2.2.2, shaped, smallP rfl _⟩
  · have h := (by decide +kernel : ∀ src ∈ [0, 16], wayOk wS (outRead src 0x40000 64) = true) src hs
    exact ⟨(way_of h).1, (way_of h).2.2.1⟩
  · have h := way_of ((by decide +kernel : ∀ k ∈ kinds, wayOk (sSn k) (reqP 0 k) = true) k hk)
    exact ⟨by rfl, plain_of (by omega) hk wf (.inl h.2.2.2.2), h.2.2.2.1, h.2.2.1, smallP rfl _⟩

/-! ### Tiles -/

def eRg (op a : Nat) : Entry := { entL (.range op [a]) .nowhere 0 with stage := .left }
def gRg (op a : Nat) : Group := { wG with obq := [eRg op a] }
def sRg (op a : Nat) : State := quad0 (wAt (gRg op a) wT) [tileP (some 4)] [] [] []
/-- A step of a range operation on its way to the tile at 0x40000, and at its spiral. -/
def rRg (op : Nat) : Req :=
  { uid := 9, src := 0, srcDie := 0, home := 0, grp := 3, ent := 8, kind := .range op [0x40000], loc := .mem 0x40000 0, n := 0, data := 0, cells := [],
    write := true, far := false, fill := 0, stamp := [], table := [] }
def sRgNet (op : Nat) : State := { wAt (gRg op 0x40000) wT with net := [rRg op] }
def aRg (op : Nat) : Acc := ⟨0, 0, here, rRg op, 1⟩
def sRgAcc (op : Nat) : State := quad0 (wAt (gRg op 0x40000) wT) [tileP (some 4)] [aRg op] [] []
theorem smallR {s : State} {op : Nat} (h : s.groups = [gRg op 0x40000]) (r : Req) : SmallAcquire s r := by
  intro g e hg he
  have := List.mem_of_find?_eq_some (show s.groups.find? _ = some g from hg)
  rw [h, List.mem_singleton] at this
  subst this
  have := List.mem_of_find?_eq_some (show (gRg op 0x40000).obq.find? _ = some e from he)
  rw [List.mem_singleton.1 (show e ∈ [eRg op 0x40000] from this)]
  exact Nat.zero_le _
def tileC : Tile := { tileP none with copy := true }
/-- A core's dirty line, of a tile of die `h`, of which its quadrant holds a copy or not. -/
def backAt (h : Nat) : Nat := 0x40000 + h * 0x2000000000
def lineB (h : Nat) : Line := ⟨backAt h, [(backAt h + 1, 2)], [backAt h + 1], 0, none, 0, 0⟩
def sBack (h : Nat) (copy : Bool) : State :=
  let s := quad0 wS (if copy then [{ tileC with addr := backAt h, dirty := [] }] else []) [] [] []
  s.setCore 0 { s.core 0 with l1 := [lineB h] }
def promo : Promo := ⟨0, 0x40000, false, 0⟩
/-- A pull of the tile at 0x40000 to position 1, or 9, which lies behind the tile. -/
def pullP (n : Nat) : Pull := ⟨0, 0, here, { rQu (.pull n) with grp := 3 }, n, 1⟩
theorem witness_TilesMoveAndWriteBack :
    (∀ x ∈ [(0, false), (1, false), (1, true)], let s := sBack x.1 x.2
     (s.core 0).line? (backAt x.1) = some (lineB x.1) ∧ (lineB x.1).dirtyCells ≠ [] ∧ s.copyFor 0 (lineB x.1) = x.2 ∧ s.writeBlocked (dieOfCore 0) (homeDie (lineB x.1).addr) = false) ∧
    (let s := quad0 wS [tileC] [] [] []
     (s.quad 0).copy? (tileOf 0x40010) = some tileC ∧ tileC.dirty ≠ [] ∧ s.writeBlocked 0 (homeDie tileC.addr) = false) ∧
    (∀ op < 3, ∀ a ∈ [0x40000, 0x2000000000], let s := sRg op a
     s.grp? 3 = some (gRg op a) ∧ (gRg op a).rangeWork[0]? = some (eRg op a, a) ∧ (eRg op a).kind = .range op [a] ∧ (gRg op a).core < 192 ∧ tileOf a = a ∧
      s.writeBlocked (gRg op a).die (homeDie a) = false ∧ s.stepping (eRg op a).uid a = false) ∧
    (∀ op < 3, let s := sRgNet op
     s.net[0]? = some (rRg op) ∧ s.net.take 0 = [] ∧ (s.die 0).snoop = [] ∧ RangeReq (rRg op) op 0x40000 0 ∧ homeDie 0x40000 < 4 ∧ s.dieDown 0 = false ∧
      WayFree s (rRg op) ∧ s.snooped (rRg op) = false ∧ Unheld s (rRg op) ∧ SmallAcquire s (rRg op)) ∧
    (∀ op < 3, let s := sRgAcc op
     (s.quad 0).accs[0]? = some (aRg op) ∧ AtTile s 0 0x40000 (aRg op).way (aRg op).key ∧ 0 = homeQuad 0x40000 ∧
      s.atRepair (aRg op).req = false ∧ s.snooped (aRg op).req = false ∧ SmallAcquire s (aRg op).req ∧
      (s.homeTile? 0x40000 = some (tileP (some 4)) ∧ tierOf 0x40000 ≠ .lp ∧ Memory.wf s.dram = true ∧ (tileP (some 4)).bytes.length = 1024 ∧
       (∀ c < 192, (s.core c).l1 = []) ∧ (∀ q < 16, ∀ y ∈ (s.quad q).tiles, y.copy = false) ∧ s.pullBacks 0x40000 1024 = s)) ∧
    (∀ pos ∈ [none, some 4], let s := quad0 wS [tileP pos] [] [promo] []
     (s.quad 0).promos = [promo] ∧ promo.who < 14 ∧ (s.quad 0).pAt ≠ (s.die 0).cycle + 1 ∧ (s.quad 0).accs = [] ∧ (s.quad 0).pulls = [] ∧
      s.evictStopped 0 = false ∧ (s.quad 0).tile? 0x40000 = some (tileP pos) ∧ s.pinnedTile (tileP pos) = false ∧
      (∀ y ∈ (s.quad 0).tiles, tileOf y.addr = y.addr) ∧ ∀ a ∈ (tileP pos).dirty, tileOf a = (tileP pos).addr) ∧
    (∀ n ∈ [1, 9], let s := quad0 wS [tileP (some 4)] [] [] [pullP n]
     (s.quad 0).pulls[0]? = some (pullP n) ∧ Asks (pullP n).req (.pull n) 0x40000 ∧ AtTile s 0 0x40000 (pullP n).way (pullP n).key ∧
      SmallAcquire s (pullP n).req ∧ (s.quad 0).tile? (tileOf 0x40000) = some (tileP (some 4)) ∧ s.pinnedTile (tileP (some 4)) = false ∧
      unpinnedFrom s.pinnedTile (s.quad 0).tiles 32768 (pullP n).target = n) := by
  refine ⟨by decide +kernel, by decide +kernel, fun op ho a ha => ?_, fun op ho => ?_, fun op ho => ?_, by decide +kernel, fun n hn => ?_⟩
  · have h := (by decide +kernel : ∀ op < 3, ∀ a ∈ [0x40000, 0x2000000000], let s := sRg op a
      tileOf a = a ∧ s.writeBlocked (gRg op a).die (homeDie a) = false ∧ s.stepping (eRg op a).uid a = false) op ho a ha
    exact ⟨rfl, by rfl, rfl, (by decide : wG.core < 192), h⟩
  · have h := (by decide +kernel : ∀ op < 3, let s := sRgNet op
      (s.die 0).snoop = [] ∧ s.dieDown 0 = false ∧ (s.ownedReq (rRg op) = false ∧ s.outranked (rRg op) = false ∧ s.atRepair (rRg op) = false) ∧
      s.snooped (rRg op) = false ∧ ((s.quad (rRg op).quad).tile? (tileOf (rRg op).pa) = none ∧ (s.quad (rRg op).quad).busyAt (tileOf (rRg op).pa) = false ∧
      s.acceptCycle (rRg op).quad = (s.die ((rRg op).quad / 4)).cycle)) op ho
    exact ⟨rfl, rfl, h.1, ⟨rfl, ⟨rfl, by decide⟩, by simp only [rRg]; decide, by simp [rRg], rfl⟩, by decide, h.2.1, h.2.2.1, h.2.2.2.1, h.2.2.2.2, smallR rfl _⟩
  · have h := (by decide +kernel : ∀ op < 3, let s := sRgAcc op
      s.acceptCycle 0 = (s.die 0).cycle ∧ (∀ b ∈ (s.quad 0).accs, earlier b.key (aRg op).key = false) ∧ (s.quad 0).pulls = [] ∧
      s.atRepair (aRg op).req = false ∧ s.snooped (aRg op).req = false) op ho
    have k : Memory.wf wMem = true ∧ (tileP (some 4)).bytes.length = 1024 ∧ (∀ c < 192, (wS.core c).l1 = []) ∧
        (∀ op < 3, ∀ q < 16, ∀ y ∈ ((sRgAcc op).quad q).tiles, y.copy = false) := by decide +kernel
    refine ⟨rfl, ⟨rfl, h.1, fun b hb _ => h.2.1 b hb, by rw [h.2.2.1]; simp⟩, by decide, h.2.2.2.1, h.2.2.2.2, smallR rfl _, by rfl, by decide, k.1, k.2.1, k.2.2.1, k.2.2.2 op ho, ?_⟩
    rw [State.pullBacks, if_pos ((by decide +kernel : ∀ op < 3, ((((sRgAcc op).quads.toList.flatMap fun q => (q.accs.map (·.req)).filter fun r => r.isBack && r.cells.any fun c => 0x40000 ≤ c.1 && c.1 < 0x40000 + 1024) ++
        ((sRgAcc op).dies.toList.flatMap fun d => d.snoop.filter fun r => r.isBack && r.cells.any fun c => 0x40000 ≤ c.1 && c.1 < 0x40000 + 1024) ++
        ((sRgAcc op).dies.toList.flatMap fun d => d.applyq.toList.flatMap fun rs => rs.filter fun r => r.isBack && r.cells.any fun c => 0x40000 ≤ c.1 && c.1 < 0x40000 + 1024) ++
        (sRgAcc op).net.filter fun r => r.isBack && r.cells.any fun c => 0x40000 ≤ c.1 && c.1 < 0x40000 + 1024).isEmpty) = true) op ho)]
  · have h := (by decide +kernel : ∀ n ∈ [1, 9], let s := quad0 wS [tileP (some 4)] [] [] [pullP n]
      s.acceptCycle 0 = (s.die 0).cycle ∧ (∀ p ∈ (s.quad 0).pulls, earlier p.key (pullP n).key = false) ∧
      (s.quad 0).tile? (tileOf 0x40000) = some (tileP (some 4)) ∧ s.pinnedTile (tileP (some 4)) = false ∧
      unpinnedFrom s.pinnedTile (s.quad 0).tiles 32768 (pullP n).target = n) n hn
    exact ⟨rfl, ⟨rfl, rfl, by simp only [pullP, rQu]; decide, by simp [pullP, rQu], rfl, rfl⟩, ⟨rfl, h.1, fun b hb => absurd (show b ∈ [] from hb) (by simp), fun p hp _ => h.2.1 p hp⟩,
      smallP rfl _, h.2.2⟩

/-! ### Copy engines and matrix engines -/

/-- Memory in which slot 1 of queue 1, a copy engine's, holds a packet, word by word. -/
def memP (cs : List Host.Cell) : List Host.Cell := memWriteAll wMem cs
def sP (cs : List Host.Cell) (cancels : List W64) : State :=
  let s := { wS with dram := memP cs }
  s.setCtx { s.ctxD 0 with cancels := cancels }
/-- Packets of every kind: well formed; with a reserved bit set; cancelled, of a handle of another tag. -/
def pktG (k : Nat) : List Host.Cell := if k < 4 then [(0x14040, .ofNat 8 k)] else [(0x14040, .ofNat 8 k), (0x14042, 1)]
def pktB (k : Nat) : List Host.Cell := pktG k ++ [(0x1407F, 1)]
def pktC (k : Nat) : List Host.Cell := pktG k ++ [(0x14049, 1)]
/-- What of the state the clauses on packets rest on. -/
def headOk (s : State) (k : Nat) (canc bad : Bool) : Bool :=
  (s.desc 0).wellFormed && !(s.ctxD 0).badDesc && s.cpePresent 0 &&
  match s.copyHead? 0 0 1 with
  | some (pa, h, w) => fld w 0 8 == k && (if canc then (Pkt.of w).hdl != 0 && (s.ctxD 0).cancels.contains (Pkt.of w).hdl else (s.ctxD 0).cancels.isEmpty) && pktBad w == bad &&
      (match s.putRecord 1000 0 0 (Pkt.of w).hdl ⟨2, 0, 0, 0, 0, 0⟩ with
       | some s1 => (s1.takeSlot 1000 0 pa h).isSome
       | none => false)
  | none => false
/-- A job with one line of one element of 4 bytes, which has its value, for its window or for memory. -/
def elV : Elem := ⟨4, 4, [], 9⟩
def jobL (loc : Loc) : Job := { uid := 7, ctx := 0, q := 1, slot := 1, pkt := 3, grid := 7, started := true, lines := [⟨loc, 0x40000, [elV], false⟩], written := 0, total := 4, status := 0, fcode := 0, ffa := 0, wait := none }
def sJob (j : Job) : State := wS.setCpe 0 ⟨[j]⟩
/-- The engines that serve queue 1 are absent; die 3 is. -/
def gone (s : State) (k : Nat) : Bool :=
  let s := { s with md := { s.md with capdie := put s.md.capdie 0 (2 ^ 84 + 1) } }
  (s.desc 0).wellFormed && !(s.ctxD 0).badDesc && s.absentEngines 0 && match s.copyHead? 0 0 1 with
  | some (_, _, w) => fld w 0 8 == k
  | none => false
def noDie (s : State) : State := { s with md := { s.md with capdie := put s.md.capdie 3 0 } }
theorem witness_CopyEnginesWork :
    (∀ k ∈ [2, 3, 4, 5], headOk (sP (pktG k) []) k false false = true ∧ headOk (sP (pktB k) []) k false true = true ∧ headOk (sP (pktC k) [0x100]) k true false = true) ∧
    (headOk (sP (pktG 7) []) 7 false true = true) ∧
    (∀ k ∈ [2, 3, 4, 5, 7], gone (sP (pktG k) []) k = true) ∧
    (let s := noDie (sP [(0x18000, 9)] [])
     ∃ x, s.launchHead? 0 0 0 = some x ∧ fld x.2.2 0 8 ≠ 1 ∧ s.absentDies (Lp.of x.2.2) = false ∧ (noDie (sP [(0x18000, 9), (0x18005, 0x80)] [])).absentDies (Lp.of (9 + 2 ^ 47)) = true) ∧
    (let s := sP [(0x18000, 9)] []
     ∃ x, s.launchHead? 0 0 0 = some x ∧ fld x.2.2 0 8 ≠ 1 ∧ (s.takeSlot 5000 0 x.1 x.2.1).isSome = true) ∧
    (∀ loc ∈ [Loc.pad 2 0x40, .mem 0x40000 0], let j := jobL loc
     let s := sJob j
     (s.cpe 0).jobs[0]? = some j ∧ s.job? 0 7 = some j ∧ j.accepted = true ∧ j.lines[0]? = some ⟨loc, 0x40000, [elV], false⟩ ∧
      ∃ s1, (s.modJob 0 7 fun j => { j with wait := none }).lineVals (j.eng 0) (Pkt.of j.pkt) [elV] [] = .ok [(4, 4, 9)] s1 ∧ s1.team? 2 = some wT ∧
        s1.dieDown 0 = false ∧ s1.writeBlocked 0 0 = false) ∧
    (let j := { jobL (.mem 0x40000 0) with lines := [] }
     ((sJob j).cpe 0).jobs[0]? = some j ∧ (Pkt.of j.pkt).hdl = 0 ∧ CanRecord (sJob j) 1000 0 0 (Pkt.of j.pkt).hdl) := by
  refine ⟨by decide +kernel, by decide +kernel, by decide +kernel, ?_, ?_, fun loc hl => ⟨rfl, rfl, (by decide : ∀ loc ∈ [Loc.pad 2 0x40, .mem 0x40000 0], (jobL loc).accepted = true) loc hl, rfl, _, rfl, rfl, by decide +kernel +revert, by decide +kernel +revert⟩, rfl, by decide, fun pa h => absurd (by decide) h⟩
  · have h : (match (noDie (sP [(0x18000, 9)] [])).launchHead? 0 0 0 with
      | some x => fld x.2.2 0 8 != 1 && !(noDie (sP [(0x18000, 9)] [])).absentDies (Lp.of x.2.2)
      | none => false) = true := by decide +kernel
    split at h
    · rename_i x hx
      rw [Bool.and_eq_true, bne_iff_ne, Bool.not_eq_true'] at h
      exact ⟨x, hx, h.1, h.2, by decide +kernel⟩
    · cases h
  have h : (match (sP [(0x18000, 9)] []).launchHead? 0 0 0 with
    | some x => fld x.2.2 0 8 != 1 && ((sP [(0x18000, 9)] []).takeSlot 5000 0 x.1 x.2.1).isSome
    | none => false) = true := by decide +kernel
  split at h
  · rename_i x hx
    exact ⟨x, hx, by simpa using h⟩
  · cases h

/-! #### Matrix engines -/

def reqM (i : Instr) (a b : W64) : MReq :=
  { uid := 6, grp := 9, team := 2, ctx := 0, grid := 7, pc := 0, instr := i, a, b, tok := 0, hdl := 0, eng := 0, signers := [], acc := true, passes := 0, data := none,
    count := 0, aux := 0, status := 0, fcode := 0, ffa := 0, done := false, wait := none }
def sEng (r : MReq) : State := wS.setEng 0 { Engine.reset with lease := some 2, table := [r] }
theorem serves_of {r : MReq} {mine : Instr → Bool} {before : MReq → MReq → Bool} (h : (mine r.instr && (sEng r).eligible r) = true) (h1 : r.eng = 0 ∧ r.done = false ∧ r.acc = true) :
    PortServes (sEng r) 0 0 r mine before (sEng r) := by
  rw [Bool.and_eq_true] at h
  refine ⟨by decide, rfl, h1.1, h.1, h1.2.1, h.2, fun a ha hn => absurd ?_ hn, by simp [State.accept, h1.2.2]⟩
  have : a ∈ [r] := ha
  simp only [List.mem_singleton] at this
  rw [this]
/-- Operands in the team's own window. -/
def win (o : Nat) : W64 := .ofNat 64 (windowBase + o)
def rLd : MReq := reqM (.mwld h128 mm) (win 0x40) 0
def rMma : MReq := { reqM (.mma h128 mm) (win 0x40) 0 with data := some 5 }
def rZ : MReq := reqM (.macz h64 0 5) 0 0
def oW : MOp := { mm with f := { mf with fmt := 0, n := 1, row := 255 } }
def rWr : MReq := reqM (.macwr h128 oW) (win 0x40) 1024
def rRd : MReq := { reqM (.macrd h128 oW) (win 0x40) 1024 with acc := false }
/-- The state behind the acceptance of that request. -/
def sAcpt : State := (sEng rRd).modReq 0 6 fun r => { r with acc := true }
theorem witness_MatrixEnginesWork :
    (let s := wS.setEng 0 (leased none [2])
     (s.eng 0).lease = none ∧ (s.eng 0).waits ≠ []) ∧
    (let s := wS.setEng 0 { leased (some 8) [2] with leaving := true }
     (s.eng 0).lease = some 8 ∧ (s.eng 0).leaving = true ∧ ∀ j < 3, s.teamReqs 8 (0 / 3 * 3 + j) = false) ∧
    (PortServes (sEng rLd) 0 0 rLd Instr.isMwld (fun a b => decide (a.uid < b.uid)) (sEng rLd) ∧ mm.f.acc = false ∧ mm.set < 8 ∧
      mm.f.n ≤ 256 ∧ ∃ got s2, (sEng rLd).readPieces ((sEng rLd).reqEng { rLd with acc := true, wait := none }) false 0 0 rLd.source rLd.got [] = .ok got s2) ∧
    (PortServes (sEng rMma) 0 0 rMma Instr.isMma (fun a b => decide (b.fld.pri < a.fld.pri) || (a.fld.pri == b.fld.pri && decide (a.uid < b.uid))) (sEng rMma) ∧
      mm.f.shp = false ∧ mm.f.tl < 4 ∧ mm.f.ws < 8 ∧ rMma.data = some 5 ∧ (sEng rMma).chainOf 2 0 = 1 ∧ rMma.passes = 0 ∧ wT.bankq = [] ∧ Memory.wf wT.win = true) ∧
    PortServes (sEng rZ) 0 0 rZ Instr.isTile (fun a b => decide (a.uid < b.uid)) (sEng rZ) ∧
    (PortServes (sEng rWr) 0 0 rWr Instr.isTile (fun a b => decide (a.uid < b.uid)) (sEng rWr) ∧
      (let rows := (List.range oW.f.n).map fun (k : Nat) => rWr.a + .ofNat 64 k * rWr.b
       (sEng rWr).rowsBad { rWr with acc := true, wait := none } rows (256 * 4) = none ∧
       oW.f.tl < 4 ∧ ∃ got s2, (sEng rWr).readPieces ((sEng rWr).reqEng { rWr with acc := true, wait := none }) true 0 0 rWr.source rWr.got [] = .ok got s2)) ∧
    (PortServes (sEng rRd) 0 0 rRd Instr.isTile (fun a b => decide (a.uid < b.uid)) sAcpt ∧ rRd.acc = false ∧ oW.f.tl < 4 ∧ 0 < oW.f.n ∧ oW.f.row + oW.f.n ≤ 256 ∧ rRd.a.toNat = windowBase + 0x40 ∧ rRd.b.toNat = 1024 ∧
      0x40 + (oW.f.n - 1) * 1024 + 256 * macSize oW.f.fmt ≤ wT.size ∧ (sEng rRd).team? 2 = some wT ∧ (sEng rRd).tagTeam? wT.ctag = some wT ∧
      ∀ off, (sEng rRd).owned (.pad wT.id off) 16 6 = false) := by
  refine ⟨⟨rfl, by simp [State.eng, State.setEng, leased, wS, wAt, State.reset, nth, put]⟩, ⟨rfl, rfl, by decide +kernel⟩, ⟨serves_of (by decide +kernel) ⟨rfl, rfl, rfl⟩, rfl, by decide, by decide, er_ok (by decide +kernel)⟩,
    ⟨serves_of (by decide +kernel) ⟨rfl, rfl, rfl⟩, rfl, by decide, by decide, rfl, by decide +kernel, rfl, rfl, by decide⟩, serves_of (by decide +kernel) ⟨rfl, rfl, rfl⟩,
    ⟨serves_of (by decide +kernel) ⟨rfl, rfl, rfl⟩, by decide +kernel, by decide, er_ok (by decide +kernel)⟩,
    ⟨⟨by decide, rfl, rfl, rfl, rfl, by decide +kernel, fun a ha hn => absurd (by rw [List.mem_singleton.1 (show a ∈ [rRd] from ha)]) hn, rfl⟩, rfl, by decide, by decide, by decide, by decide +kernel, by decide, by decide, rfl, rfl, fun off => ?_⟩⟩
  have h : (sEng rRd).copyEngs.toList.all (fun c => c.jobs.isEmpty) = true ∧ (sEng rRd).engines.toList.all (fun e => e.table.all fun r => r.own.isEmpty) = true := by decide +kernel
  rw [State.owned, Bool.or_eq_false_iff]
  constructor
  · refine List.any_eq_false.2 fun e he => ?_
    simp only [List.any_eq_true, Bool.and_eq_true, not_exists, not_and]
    intro r hr _ x hx
    rw [List.isEmpty_iff.1 (List.all_eq_true.1 (List.all_eq_true.1 h.2 e he) r hr)] at hx
    cases hx
  · refine List.any_eq_false.2 fun c hc => ?_
    rw [List.isEmpty_iff.1 (List.all_eq_true.1 h.1 c hc)]
    simp

/-! ### The dispatcher -/

/-- The header of a grid of one thread and a window of 4 KiB (12 R261); `stack`: of a kernel on stack core 0. -/
def wHd (stack : Bool) : Nat := 2 ^ 112 + (if stack then 2 ^ 156 + 2 ^ 256 + 2 ^ 288 + 2 ^ 296 else 2 ^ 200) + 2 ^ 416 * 256 + 2 ^ 448 * 0x30000
/-- Its launch packet, of one team. -/
def wPk (stack : Bool) : Nat := 1 + 2 ^ 256 + (if stack then 2 ^ 288 * 63 else 0) + 2 ^ 448 * 0x38000
/-- Memory whose queue table ends where the mapping does: only queue 0 has a header, at 2^30 - 64; its packet and that packet's header. -/
def memL (pkt hdr : Nat) : List Host.Cell :=
  memWriteAll wMem (leCells 0x1008 8 (2 ^ 48 - 64) ++ cellsOf 0x3FF8 8 0x5001 ++ cellsOf 0x5FF8 8 0xE3 ++ cellsOf 0x18000 64 pkt) ++ cellsOf 0x38000 64 hdr ++
    cellsOf (2 ^ 30 - 64) 32 (0x18000 + 2 ^ 192 * 6)
/-- Cores 0 and 1 of die 0 alone are present. -/
def sD (pkt hdr : Nat) : State :=
  { wS with groups := [], teams := [], grids := [], dram := memL pkt hdr, md := { wMd with capdie := put (.replicate 4 0) 0 (2 ^ 84 + 3) } }
def launchOk (stack : Bool) : Bool :=
  let s := sD (wPk stack) (wHd stack)
  s.nextQueue 0 == some (0, 0) && !(s.ctxD 0).badDesc && (s.desc 0).wellFormed &&
  match s.launchHead? 0 0 0 with
  | some (pa, h, w) => w == wPk stack && (s.takeSlot 5000 0 pa h).isSome && (match s.launchState 0 0 0 w with
    | .start hd => decide ((Hd.of hd).lvl = 1) == stack
    | _ => false)
  | none => false
theorem launches : launchOk false = true ∧ launchOk true = true := ⟨by decide +kernel, by decide +kernel⟩
theorem witness_LaunchStarts : ∀ stack, let s := sD (wPk stack) (wHd stack)
    ∃ pa h w hdr s1, s.launchHead? 0 0 0 = some (pa, h, w) ∧ fld w 0 8 = 1 ∧ s.launchState 0 0 0 w = .start hdr ∧ ((Hd.of hdr).lvl = 1 ↔ stack = true) ∧
      s.nextQueue 0 = some (0, 0) ∧ s.takeSlot 5000 0 pa h = some s1 ∧ (s.desc 0).wellFormed = true ∧ (s.ctxD 0).badDesc = false := by
  intro stack
  have h : launchOk stack = true := by cases stack; exact launches.1; exact launches.2
  simp only [launchOk, Bool.and_eq_true, beq_iff_eq, Bool.not_eq_true'] at h
  obtain ⟨⟨⟨h1, h2⟩, h3⟩, h4⟩ := h
  split at h4
  · rename_i pa h w e
    simp only [Bool.and_eq_true, beq_iff_eq] at h4
    obtain ⟨⟨h5, h6⟩, h7⟩ := h4
    split at h7
    · rename_i hd e2
      obtain ⟨s1, h6⟩ := Option.isSome_iff_exists.1 h6
      refine ⟨pa, h, w, hd, s1, e, ?_, e2, ?_, h1, h6, h3, h2⟩
      · subst h5; cases stack <;> decide
      · rw [beq_iff_eq] at h7; rw [← h7]; simp
    · cases h7
  · cases h4
/-- A launch whose packet asks for 0 teams is refused; the header of another is not mapped. -/
def refuseOk (pkt : Nat) : Bool :=
  let s := sD pkt (wHd false)
  match s.launchHead? 0 0 0 with
  | some (pa, h, w) => fld w 0 8 == 1 && (Pkt.of w).hdl == 0 && (s.takeSlot 5000 0 pa h).isSome && (match s.launchState 0 0 0 w with
    | .refuse 4 1 0 => true
    | _ => false)
  | none => false
def heldOk (pkt : Nat) : Bool :=
  let s := sD pkt (wHd false)
  match s.launchHead? 0 0 0 with
  | some (_, _, w) => fld w 0 8 == 1 && (match s.launchState 0 0 0 w with
    | .miss va _ => va == 0x80000000
    | _ => false)
  | none => false
/-- A launch that names only die 3, which is absent. -/
def absentOk : Bool :=
  let s := sD (wPk false + 2 ^ 47) (wHd false)
  match s.launchHead? 0 0 0 with
  | some (_, _, w) => fld w 0 8 == 1 && !(s.ctxD 0).cancels.contains (Lp.of w).hdl && s.absentDies (Lp.of w) && (s.desc 0).wellFormed && !(s.ctxD 0).badDesc
  | none => false
theorem witness_LaunchRefusedOrHeld : absentOk = true ∧ refuseOk (1 + 2 ^ 448 * 0x38000) = true ∧ heldOk (1 + 2 ^ 256 + 2 ^ 448 * 0x80000000) = true ∧
    ((sD 1 1).desc 0).wellFormed = true ∧ ((sD 1 1).ctxD 0).badDesc = false ∧ ∀ st fc ffa, ∃ s1, (sD 1 1).putRecord 5000 0 0 0 ⟨st, fc, 0, 0, 0, ffa⟩ = some s1 :=
  ⟨by decide +kernel, by decide +kernel, by decide +kernel, by decide +kernel, by decide +kernel, fun _ _ _ => ⟨_, rfl⟩⟩
theorem witness_SlotTaken : let s := sD (wPk false) (wHd false)
    let h : QHdr := ⟨2 ^ 30 - 64, 0x18000, 0, 0, 6, 0, 0, 0⟩
    (s.takeSlot 5000 0 0x18000 h).isSome = true ∧ HomeOk s 0x18000 ∧ HomeOk s h.pa ∧ 0x18000 / 64 ≠ h.pa / 64 ∧ tierOf 0x18000 ≠ .lp ∧ tierOf h.pa ≠ .lp := by
  have t : (sD (wPk false) (wHd false)).homeTile? 0x18000 = none ∧ (sD (wPk false) (wHd false)).homeTile? (2 ^ 30 - 64) = none ∧ Memory.wf (sD (wPk false) (wHd false)).dram = true := by decide +kernel
  exact ⟨by decide +kernel, ⟨by decide, t.2.2, fun x hx => by rw [t.1] at hx; cases hx⟩, ⟨by decide, t.2.2, fun x hx => by rw [t.2.1] at hx; cases hx⟩, by decide, by decide +kernel, by decide +kernel⟩

/-- A grid that starts: of one team, or of a cluster of two with a channel from rank 1 to rank 0, its object at 0 and its buffer at 0x400. -/
def hdC : Nat := wHd false + 2 ^ 191 + 2 ^ 232 + 2 ^ 240 * 0x38080
def kPl (c : Bool) : Grid := { wK with next := 0, hdr := toWords 8 (if c then hdC else wHd false), pkt := toWords 8 (wPk false + if c then 2 ^ 256 else 0) }
def sPl (c : Bool) : State :=
  let s := sD (wPk false) (if c then hdC else wHd false)
  { s with grids := [kPl c], dram := memWriteAll s.dram (cellsOf 0x38080 8 (2 ^ 8 + 2 ^ 32 * 0x40)) }
def placeOk (c : Bool) : Bool :=
  let s := sPl c
  let k := kPl c
  !s.gridHeld k && !s.restoreFirst k.p.pri && !s.depHolds k && s.extQuiet && (s.pickArc k.h k.p).isSome && k.next < k.p.teams && k.h.init == 0 && k.p.arg == 0 &&
  match s.readHeader k.die k.ctx k.p with
  | .ok (_, tab) _ => (tab.map Chan.of).length == c.toNat
  | _ => false
theorem witness_TeamsPlaced : ∀ c, let s := sPl c
    let k := kPl c
    s.grid? 1 = some k ∧ k.stack = false ∧ k.ending = none ∧ k.aborted = false ∧ k.next < k.p.teams ∧ s.gridHeld k = false ∧ k.hdr ≠ [] ∧
      s.restoreFirst k.p.pri = false ∧ s.depHolds k = false ∧ s.extQuiet = true ∧ (∃ arc, s.pickArc k.h k.p = some arc) ∧
      s.dispRead k.die k.ctx (.ofNat 64 k.h.init) 0 = .ok 0 s ∧ s.dispRead k.die k.ctx k.p.arg (16 * k.p.argsz) = .ok 0 s ∧ k.h.init = 0 ∧ k.p.arg = 0 ∧
      ∃ hd tab s3, s.readHeader k.die k.ctx k.p = .ok (hd, tab) s3 ∧ (tab.map Chan.of).length = c.toNat := by
  intro c
  have h : placeOk c = true := (by decide +kernel : ∀ c, placeOk c = true) c
  simp only [placeOk, Bool.and_eq_true, Bool.not_eq_true', decide_eq_true_eq, beq_iff_eq] at h
  obtain ⟨⟨⟨⟨⟨⟨⟨⟨h1, h2⟩, h3⟩, h4⟩, h5⟩, h6⟩, h7⟩, h8⟩, h9⟩ := h
  refine ⟨rfl, rfl, rfl, rfl, h6, h1, by simp [kPl, toWords], h2, h3, h4, Option.isSome_iff_exists.1 h5, ?_, ?_, h7, h8, ?_⟩
  · rw [State.dispRead, if_pos (by rw [h7]; decide)]
  · rw [State.dispRead, if_pos h8]
  · split at h9
    · rename_i e
      exact ⟨_, _, _, e, by simpa using h9⟩
    · cases h9

/-! #### Gangs -/

def wPkG (dies : Nat) : Nat := wPk false + 2 ^ 18 + 2 ^ 240 * 3 + 2 ^ 44 * dies
def sGa (hdr : Nat) : State :=
  let s := sD (wPkG 1) hdr
  { s with md := { s.md with links := put s.md.links 0 { nth s.md.links 0 with up := true } } }
def gangOk (hdr : Nat) (good : Bool) : Bool :=
  let s := sGa hdr
  let pkt := toWords 8 (wPkG 1)
  let w := ofWords pkt
  let p := Lp.of w
  let x := newGrid s 0 0 0 0 0 pkt false (some 0)
  ((List.range 4).find? fun d => p.allows d && (s.die d).phase == .run && (nth s.md.capdie d).getLsbD 84) == some 0 && s.descOk 0 && p.kind == 1 && p.gang &&
    (nth s.md.links 0).up && s.extQuiet && p.dep == 0 && packetBad w false == none &&
  match (x.2.setGrid { x.1 with hdr := [] }).readHeader 0 0 p with
  | .ok (hd, tab) s1 => (s1.headerBad hd w tab).isNone == good
  | _ => false
/-- The grids of a gang: the taking dispatcher's, with acknowledgements of some links, and another device's. -/
def kGa (acks : List Nat) (aborted : Bool) (remote : Option Nat) (next : Nat) : Grid :=
  { wK with gang := true, acks, aborted, remote, next, pkt := toWords 8 (wPkG 1 + 2 ^ 224 * 0) }
def sGr (k : Grid) : State := { wS with grids := [k] }
theorem witness_GangSteps :
    ((List.range 4).all fun d => !((Lp.of (ofWords (toWords 8 (wPkG 2)))).allows d && ((sGa 0).die d).phase == .run && (nth (sGa 0).md.capdie d).getLsbD 84)) = true ∧
    gangOk (wHd false) true = true ∧ gangOk 0 false = true ∧
    (∀ ab, let k := kGa [1] ab none 0
      (sGr k).grid? 1 = some k ∧ k.gang = true ∧ k.remote = none ∧ bit k.p.pmask 0 = true ∧ bit k.p.pmask 1 = true ∧ 0 ∉ k.acks ∧ ((sGr k).die k.die).cycle ≤ k.sentAt + k.p.timeout ∧
      k.sentAt + k.p.timeout < ((atCyc (k.p.timeout + 1) (sGr k)).die k.die).cycle ∧ (atCyc (k.p.timeout + 1) (sGr k)).grid? 1 = some k) ∧
    (∀ n, let k := kGa [] false (some 0) n
      (sGr k).grid? 1 = some k ∧ k.gang = true ∧ k.remote = some 0 ∧ k.next = n ∧ k.aborted = false) :=
  ⟨by decide +kernel, by decide +kernel, by decide +kernel, fun ab => ⟨rfl, rfl, rfl, by cases ab <;> decide +kernel, by cases ab <;> decide +kernel, by simp [kGa], by cases ab <;> decide +kernel, by cases ab <;> decide +kernel, by cases ab <;> rfl⟩,
    fun n => ⟨rfl, rfl, rfl, rfl, rfl⟩⟩
/-- Grids that are over: the dispatcher's own, and one of a gang. -/
def kOv (remote : Option Nat) : Grid := { wK with ending := some (7, 0), remote, hdr := toWords 8 (wHd false) }
theorem witness_GridsEnd : ∀ remote ∈ [none, some 0], let s := { wS with grids := [kOv remote], groups := [], teams := [] }
    s.grid? 1 = some (kOv remote) ∧ (kOv remote).stack = false ∧ (kOv remote).hdr ≠ [] ∧ s.gridOver (kOv remote) = true ∧ (kOv remote).remote = remote ∧
      CanRecord s 5000 0 0 (kOv remote).p.hdl := by
  intro r hr
  refine ⟨rfl, rfl, by simp [kOv, toWords], (by decide +kernel : ∀ remote ∈ [none, some 0], State.gridOver { wS with grids := [kOv remote], groups := [], teams := [] } (kOv remote) = true) r hr, rfl, fun pa h => absurd ?_ h⟩
  show (kOv none).p.hdl = 0
  decide +kernel

/-! ### The system controller -/

/-- The state with the command w at the head of the control queue, whose header lies at 0x50000. -/
def ctl (s : State) (w : Nat) : State :=
  { s with dram := s.dram ++ cellsOf 0x50000 32 (0x50100 + 2 ^ 64 + 2 ^ 192 * 6) ++ cellsOf 0x50100 64 w, md := { s.md with ctlq := 0x50000 } }
/-- The state once the head's slot is taken. -/
def taken (s : State) : State := (s.ctlHead?.bind fun x => s.takeCmd x.1 x.2.1 x.2.2.1).getD s
def ctlOk (s : State) (w : Nat) : Bool :=
  match s.ctlHead? with
  | some (pa, hp, rd, x) => x == w && populated pa && (s.takeCmd pa hp rd).isSome && (decide ((Command.of w).done = 0) || populated (Command.of w).done) && s.md.held.isEmpty &&
      !s.behindShoot (Command.of w) && s.md.cmds.isEmpty && (List.range 4).all fun d => (s.die d).unitOps.isEmpty
  | none => false
theorem ctl_of {s : State} {w : Nat} (h : ctlOk s w = true) : CtlHead s w (taken s) := by
  unfold ctlOk at h
  split at h
  · rename_i pa hp rd x e
    simp only [Bool.and_eq_true, beq_iff_eq, Bool.or_eq_true, decide_eq_true_eq, Bool.not_eq_true', List.isEmpty_iff, List.all_eq_true, List.mem_range] at h
    obtain ⟨⟨⟨⟨⟨⟨⟨h1, h2⟩, h3⟩, h4⟩, h5⟩, h6⟩, h7⟩, h8⟩ := h
    subst h1
    refine ⟨⟨pa, hp, rd, e, h2, ?_⟩, h4, h5, h6, h7, h8⟩
    obtain ⟨s1, h3⟩ := Option.isSome_iff_exists.1 h3
    simp [taken, e, h3]
  · cases h
theorem taken_aside (s : State) : s.SameAside (taken s) := by
  rw [taken]
  cases h : s.ctlHead?.bind fun x => s.takeCmd x.1 x.2.1 x.2.2.1 with
  | none => exact .refl s
  | some u =>
    obtain ⟨x, -, hx⟩ := Option.bind_eq_some_iff.1 h
    simp only [State.takeCmd] at hx
    obtain ⟨v, h1, h2⟩ := Option.bind_eq_some_iff.1 hx
    exact (directWrite_aside h1).trans (directWrite_aside h2)
theorem taken_ctx (s : State) (n : Nat) : (taken s).ctxD n = s.ctxD n := by rw [State.ctxD, State.ctx?, (taken_aside s).2.2.2.1]; rfl
theorem taken_grp (s : State) (n : Nat) : (taken s).grp? n = s.grp? n := by rw [State.grp?, (taken_aside s).2.1]; rfl
/-- A command: operation, flags, context 0, arguments. -/
def cmd (op flags a0 a1 a2 : Nat) : Nat := op + 2 ^ 8 * flags + 2 ^ 256 * a0 + 2 ^ 320 * a1 + 2 ^ 384 * a2
theorem fair_of {s : State} {w : Nat} (h : (!(Command.of w).bad && decide ((Command.of w).ctx < s.md.ctxcnt.toNat)) = true) : CmdFair s (Command.of w) := by
  simp only [Bool.and_eq_true, Bool.not_eq_true', decide_eq_true_eq] at h
  exact ⟨h.1, fun _ => h.2⟩
/-- Group 3 waits on fault record 8, of a page that is mapped; its queue holds it as number 3. -/
def gFl : Group := { wG with lanes := put wG.lanes 5 (.waiting (.fault 8)) }
def sFl : State := let s := wAt gFl wT; s.setCtx { s.ctxD 0 with faults := [fltR 8 (some 3) 0x40000] }
def resolvable (w : Nat) : Bool :=
  let s := taken (ctl sFl w)
  ctlOk (ctl sFl w) w && (s.ctxD 0).faults == [fltR 8 (some 3) 0x40000] && !s.forced 0 (fltR 8 (some 3) 0x40000) && !(Command.of w).bad
theorem witness_CommandsAnswered :
    (0x60000 ≠ 0 ∧ wS.peerDown 0x60000 = false ∧ wS.directOk 6000 0 0x60000 8 true = true ∧ 0x60000 % 8 = 0 ∧ Memory.wf wS.dram = true ∧ wS.homeTile? 0x60000 = none ∧ tierOf 0x60000 ≠ .lp ∧ tierOf 0x10000000000 = .lp) ∧
    (∀ w ∈ [cmd 9 0 0 0 0, cmd 3 4 0 0 0, cmd 2 0 5 0 0, cmd 9 0 0 0 0 + 2 ^ 448 * 0x60000], ctlOk (ctl wS w) w = true) ∧
    (∃ u, (taken (ctl wS (cmd 9 0 0 0 0 + 2 ^ 448 * 0x60000))).writeDone 0x60000 4 = some u) ∧
    (¬ CmdFair (ctl wS (cmd 3 4 0 0 0)) (Command.of (cmd 3 4 0 0 0)) ∧ (taken (ctl wS (cmd 2 0 5 0 0))).trapNamed (Command.of (cmd 2 0 5 0 0)) = none) ∧
    (∀ fl ∈ [0, 1, 2], resolvable (cmd 1 fl 3 0 0) = true ∧ (Command.of (cmd 1 fl 3 0 0)).a0 = 3 ∧ (Command.of (cmd 1 fl 3 0 0)).flag8 = bit fl 0 ∧ (Command.of (cmd 1 fl 3 0 0)).flag9 = bit fl 1) ∧
    (resolvable (cmd 1 0 4 0 0) = true ∧ (Command.of (cmd 1 0 4 0 0)).a0 = 4) ∧ (∀ w, (ctl sFl w).grp? 3 = some gFl) ∧ gFl.res = .resident ∧ gFl.trap = none :=
  ⟨by decide +kernel, by decide +kernel, Option.isSome_iff_exists.1 (by decide +kernel), ⟨fun h => absurd h.1 (by decide), by decide +kernel⟩, by decide +kernel, by decide +kernel,
    fun _ => rfl, rfl, rfl⟩

/-- A group with a trap of which the record is number 5: resident, or saved with a later trap that waits. -/
def trX : TrapSt := { cause := 3, pc := 0, code := 0, lane := 0, lanes := 1, va := 0, after := true, size := 8, delivered := true, seq := some 5 }
def gTd (sv : Bool) : Group := { gPk with nv := 0, preempt := none, trap := some trX, later := if sv then [{ trX with pc := 8, seq := none, delivered := false }] else [], res := if sv then .saved else .resident }
def trR : TrapRec := ⟨3, some 5, [], 3, false, false, false⟩
def sTr (sv : Bool) : State :=
  let s := { wAt (gTd sv) wT with groups := [gTd sv, gBy], dram := poolMem, md := poolMd }
  s.setCtx { s.ctxD 0 with traps := [trR] }
def trapOk (sv : Bool) (a : Nat) : Bool :=
  let w := cmd 2 0 5 a 0
  ctlOk (ctl (sTr sv) w) w && !(Command.of w).bad && (Command.of w).a1 == a && (Command.of w).op == 2
theorem witness_TrapActions :
    (∀ a < 4, trapOk false a = true) ∧ trapOk true 0 = true ∧
    (∀ sv a, (taken (ctl (sTr sv) (cmd 2 0 5 a 0))).grp? 3 = some (gTd sv) ∧ ((taken (ctl (sTr sv) (cmd 2 0 5 a 0))).ctxD 0).traps = [trR]) ∧ ¬ (trX.cause = Cause.memerr ∧ trX.lanes = 0) ∧ (trX.delivered && trX.seq == trR.seq) = true ∧
    (∀ sv, ((sTr sv).grpGrid? (gTd sv)).map (·.ending) = some none) := by
  refine ⟨by decide +kernel, by decide +kernel, ?_, by decide, by decide, fun sv => by cases sv <;> rfl⟩
  intro sv a
  rw [taken_grp, taken_ctx]
  cases sv <;> exact ⟨rfl, rfl⟩
/-- A saved group may trap nothing further; that of the resident one can be saved by the command. -/
theorem trap_saves : ((taken (ctl (sTr false) (cmd 2 0 5 3 0))).saveGroup 3).isSome = true ∧ ((taken (ctl (sTr false) (cmd 2 0 5 3 0))).reserveGroup 3).isSome = true := by decide +kernel

def shX : Shoot := { ctx := 0, base := 0x40000, len := 0x10000, code := true, done := 0, wait := [], jobs := [], rows := [] }
theorem witness_ShootSteps :
    (∀ fl ∈ [0, 1], ctlOk (ctl wS (cmd 3 fl 0x40000 0x10000 0)) (cmd 3 fl 0x40000 0x10000 0) = true ∧ (Command.of (cmd 3 fl 0x40000 0x10000 0)).bad = false) ∧
    (let s := { wS with md := { wMd with shoots := [shX] } }
     s.md.shoots[0]? = some shX ∧ s.shootOver shX = true ∧ shX.done = 0) := by decide +kernel

/-- Commands on the unit at the base of the LPDDR, and a move of it under way to frame 0x60000 of die 0. -/
def unit0 : Nat := 0x10000000000
def wUnits : List Nat := [cmd 4 0 unit0 1 0x60000, cmd 4 0 unit0 0 0x60000, cmd 5 0 unit0 1 0, cmd 6 1 unit0 1 0, cmd 6 0 unit0 1 0]
theorem witness_TierCommands :
    (∀ w ∈ wUnits, ctlOk (ctl wS w) w = true ∧ (Command.of w).bad = false ∧ (Command.of w).done = 0) ∧
    (∀ n ∈ [0, 1], let s := taken (ctl wS (cmd 4 0 unit0 n 0x60000))
      s.unitsOk unit0 n = true ∧ s.frameOk false unit0 0x60000 = true) ∧
    (0x60000 % 65536 = 0 ∧ (∀ w ∈ wUnits, (Command.of w).a0 = unit0 ∧ (Command.of w).a1 ≤ 1) ∧ (∀ d < 4, (wS.die d).staged.length + 1 ≤ 65536) ∧ wS.unitWritten unit0 = false) ∧
    (let s := sDie fun d => { d with unitOps := [⟨0, unit0, 0x60000, 0⟩] }
     (s.die 0).unitOps[0]? = some ⟨0, unit0, 0x60000, 0⟩ ∧ unit0 % 65536 = 0 ∧ tierOf unit0 = .lp ∧ homeDie unit0 = 0 ∧ s.md.cmds = [] ∧ Memory.wf s.dram = true ∧ s.frameOk false unit0 0x60000 = true ∧
      ((s.die 0).unitOps.filter (·.unit == unit0)).length = 1 ∧ s.unitBusy (unitOf unit0) = true) ∧
    (unitOf unit0 = unit0 ∧ wS.unitBusy (unitOf unit0) = false) := by decide +kernel

theorem witness_CountersAndWindows :
    (∀ sel ∈ [0, 71, 143], let w := cmd 7 0 sel 1 0
     ctlOk (ctl wS w) w = true ∧ (Command.of w).bad = false ∧ (Command.of w).op = 7 ∧ fld (Command.of w).a0 0 8 = sel ∧ pmSelOk sel = true ∧
      pmSource (sel / 64) (Command.of w).a1 = true ∧ (wS.die 0).phase = .run ∧ fld (Command.of w).a0 8 6 < 48 ∧ wS.diePresent (fld (Command.of w).a0 14 2) = true ∧
      wS.corePresent (48 * fld (Command.of w).a0 14 2 + fld (Command.of w).a0 8 6) = true) ∧
    (ctlOk (ctl wS (cmd 7 0 (256 * 63) 1 0)) (cmd 7 0 (256 * 63) 1 0) = true ∧ (Command.of (cmd 7 0 (256 * 63) 1 0)).bad = false ∧ 48 ≤ fld (Command.of (cmd 7 0 (256 * 63) 1 0)).a0 8 6) ∧
    (let w := cmd 8 0 15 0x10000 0
     ctlOk (ctl { wS with grids := [] } w) w = true ∧ (Command.of w).bad = false ∧ (Command.of w).op = 8 ∧ (Command.of w).a0 ≤ 15 ∧
      ncwBad ((Command.of w).a1 + 2 ^ 64 * (Command.of w).a2) = false ∧ (∀ k ∈ ({ wS with grids := [] } : State).grids, k.ctx = 0 → k.next = 0 ∧ k.tasks = []) ∧
      ∀ dirty, ctlOk (ctl { sNcw dirty with grids := [] } w) w = true ∧
        (taken (ctl { sNcw dirty with grids := [] } w)).windowsClean 0 (nth ((taken (ctl { sNcw dirty with grids := [] } w)).ctxD 0).ncw 15).toNat = !dirty) := by
  refine ⟨by decide +kernel, by decide +kernel, by decide +kernel, by decide +kernel, by decide +kernel, by decide +kernel, by decide +kernel, ?_, by decide +kernel⟩
  intro k hk
  cases hk

/-! ### The module -/

/-- Die 0 in a phase of a warm reset, with its field of MODSTAT. -/
def sPh (p : Phase) (stat : W64) : State := { sDie (fun d => { d with phase := p }) with md := { wMd with modstat := stat }, groups := [], teams := [] }
theorem witness_WarmResets :
    (wS.diePresent 0 = true ∧ (wS.die 0).phase = .run ∧ wS.md.recovery = false ∧ wS.teams.filter (fun t => t.core / 48 == 0 && t.left != 0 && !t.saved) = [wT] ∧
      ∃ s1, ((wS.modDie 0 fun d => { d with phase := .draining }).setStat 0 2).reserveTeam wT = some s1) ∧
    (((sPh .draining 2).die 0).phase = .draining ∧ (sPh .draining 2).drained 0 = true) ∧
    (let s := { sPh .flush 2 with net := [{ reqP 0 .store with src := 6001, srcDie := 1 }] }
     (s.die 0).phase = .flush ∧ s.portsBusy 0 = true) ∧
    (((sPh .flush 2).die 0).phase = .flush ∧ (sPh .flush 2).heldElsewhere 0 = false ∧ (sPh .flush 2).portsBusy 0 = false ∧ (sPh .flush 2).flushStopped 0 = false ∧
      Memory.wf (sPh .flush 2).dram = true) ∧
    (((sPh .reset 2).die 0).phase = .reset ∧ fld (sPh .reset 2).md.modstat.toNat (2 * 0) 2 = 2 ∧ (sPh .reset 2).net = [] ∧
      (∀ d < 4, (∀ k < 4, nth ((sPh .reset 2).die d).applyq k = []) ∧ ((sPh .reset 2).die d).snoop = []) ∧ ∀ q < 16, ((sPh .reset 2).quad q).accs = [] ∧ ((sPh .reset 2).quad q).pulls = []) :=
  ⟨⟨by decide +kernel, rfl, rfl, by rfl, Option.isSome_iff_exists.1 (by decide +kernel)⟩, by decide +kernel, by decide +kernel, by decide +kernel, by decide +kernel⟩
theorem witness_RegisterWrites : State.reset.md.recovery = false ∧ State.reset.anyEnabled = false ∧ wS.md.recovery = false ∧ fld (0x1F0 : W64).toNat 0 4 = 0 ∧
    0x0B0 ∉ [0x078, 0x080, 0x088, 0x090, 0x098, 0x0A0, 0x0A8] ∧ 0x0D8 ≤ 0x0D8 := by decide +kernel
/-- 15 R343, R344: CAPDIE0 of a full part, all of its units and die bit, reserved bits 0; CAPPEER with links down; MODCTL and an unlisted offset. -/
theorem test_register_read : State.reset.registerRead 0x000 = 0x0FFFFFFFFFFFFFFF ∧ State.reset.registerRead 0x008 = 0x1FFFFF ∧
    State.reset.registerRead 0x068 = 0xFFFF ∧ State.reset.registerRead 0x078 = 0 ∧ State.reset.registerRead 0x0D8 = 0 := by decide +kernel

/-- A record for a queue of the module at 0x50000. -/
def sysR (notice : Bool) : SysRec := ⟨notice, if notice then [1, 2] else [1, 2, 3, 4]⟩
def sSy (notice : Bool) : State := { wS with md := { wMd with notq := 0x50000, errq := 0x50000, recs := [sysR notice] } }
/-- The slot is the first whatever the number of records. -/
theorem slot0 (k : Nat) : 0 % 2 ^ k = 0 := Nat.zero_mod _
def sysOk (notice : Bool) : Bool :=
  let s := sSy notice
  populated 0x50000 && populated 0x50040 && tierOf 0x50000 != .lp && tierOf 0x50040 != .lp && s.homeRead 0x50000 8 == 0 && s.homeRead 0x50008 8 == 0 && ofWords (sysR notice).words < 2 ^ (8 * (if notice then 16 else 32)) &&
    Memory.wf s.dram && (s.quads.toList.all fun q => q.tiles.isEmpty) &&
    match s.directWrite 6000 0 0x50040 (if notice then 16 else 32) (ofWords (sysR notice).words) with
    | some s1 => (s1.directWrite 6000 0 0x50000 8 1).isSome
    | none => false
theorem witness_SystemRecords :
    (∀ notice, sysOk notice = true ∧ (sSy notice).md.recs[0]? = some (sysR notice) ∧ (sysR notice).notice = notice ∧
      (if notice then (sSy notice).md.notq else (sSy notice).md.errq).toNat = 0x50000 ∧
      0x50000 + 64 + (if notice then 16 else 32) * (0 % 2 ^ Config.sysQueueSize notice) = 0x50040 ∧ (0 + 2 ^ 64 - 0) % 2 ^ 64 < 2 ^ Config.sysQueueSize notice) ∧
    (∀ host : Bool, let s := { sDie (fun d => { d with accHost := [(5, 3)], accDev := [(5, 2)] }) with md := { wMd with acthr := 2 } }
      (if host then (s.die 0).accDev else (s.die 0).accHost).find? (·.1 == 5) = some (5, if host then 2 else 3) ∧ fld s.md.acthr.toNat 0 16 = 2) :=
  ⟨fun notice => ⟨(by decide +kernel : ∀ n, sysOk n = true) notice, rfl, rfl, by cases notice <;> decide, by rw [slot0]; cases notice <;> rfl, by
      rw [show (0 + 2 ^ 64 - 0) % 2 ^ 64 = 0 by decide]; exact Nat.two_pow_pos _⟩, fun host => by cases host <;> decide +kernel⟩
theorem witness_ModuleEvents :
    (let s := { sDie (fun d => { d with viaOld := false, dirs := [(0x40000, 1, 2, 16)] }) with md := { wMd with cappeer := 1 } }
     (s.die 0).viaOld ≠ ((s.die 0).phase == .run) ∧ s.net = [] ∧ s.replies = [] ∧ (s.die 0).dirs.find? (·.1 == 0x40000) = some (0x40000, 1, 2, 16) ∧ s.md.cappeer.getLsbD 0 = true) := by
  decide +kernel
def gBk : Group := { wG with hidden := true }
/-- A job that reads 4 bytes at 0x40000, a task that waits for an RLD's row or at a WAITEV, and a row left behind. -/
def jobS : Job := { jobL (.mem 0x40000 0) with lines := [⟨.mem 0x40000 0, 0x40000, [⟨0, 4, [0x40000], 0⟩], false⟩] }
def tLd : Task := { t0 with rowops := [⟨0, [0x50000], 0, [], 0, 0x50000, 8, 1, 3, []⟩] }
def wtEv : Instr := .waitev h64 4 0 2
def sWt : State := { atS t0 with dram := wMem ++ cellsOf 0x30000 8 (encode wtEv) }
def rwL : RowOp := ⟨1, [0x40000, 0x50000], 0, [5, 6], 1, 0, 0, 1, 3, []⟩
/-- MMA's write behind its acceptance: one piece is on its way. -/
def rOwn : MReq := { rRd with own := [(0, .ofNat 64 0x40000, .mem 0x40000 0)] }
def fetchesWt : Bool := match sWt.fetchStack 0 t0 with
  | .ok i => i == wtEv
  | _ => false
theorem witness_MemoryErrors :
    (let g : Group := { wG with obq := [entL .load (.mem 0x40000 0) 4] }
     (wAt g wT).grp? 3 = some g ∧ g.obq[0]? = some (entL .load (.mem 0x40000 0) 4) ∧ (entL .load (.mem 0x40000 0) 4).kind.isRead = true ∧ (entL .load (.mem 0x40000 0) 4).kind.unreached = false ∧
      (entL .load (.mem 0x40000 0) 4).stage = .queued ∧ g.res = .resident ∧ g.trap = none ∧ g.later = []) ∧
    ((sNet 0 .store).net[0]? = some (reqP 0 .store) ∧ (reqP 0 .store).write = true ∧ (reqP 0 .store).kind = .store ∧ (sNet 0 .sc).net[0]? = some (reqP 0 .sc) ∧ (reqP 0 .sc).write = true) ∧
    ((sExt.die 0).extq[0]? = some reqE ∧ reqE.kind ≠ .sc) ∧
    ((sS.setStk 0 { sS.stk 0 with left := [(9, rwL)] }).stk 0).left = (9, rwL) :: [] ∧
    (((sJob jobS).cpe 0).jobs[0]? = some jobS ∧ (sJob jobS).job? 0 7 = some jobS ∧ jobS.status = 0 ∧ (sJob jobS).jobReady jobS = true ∧ .ofNat 64 0x40000 ∈ jobS.sources) ∧
    (((sEng rLd).eng 0).table[0]? = some rLd ∧ rLd.eng = 0 ∧ rLd.done = false ∧ rLd.hdl = 0 ∧ rLd.status = 0 ∧ rLd.data = none ∧ ((sEng rLd).accept rLd).isSome = true ∧
      rLd.source[0]? = some (.ofNat 64 (windowBase + 0x40)) ∧ (rLd.got[0]?).bind id = none) ∧
    (((sEng rOwn).eng 0).table[0]? = some rOwn ∧ rOwn.done = false ∧ rOwn.own = [(0, .ofNat 64 0x40000, .mem 0x40000 0)]) ∧
    ((atS tLd).task? 0 = some tLd ∧ tLd.fin = none ∧ tLd.rowops = [⟨0, [0x50000], 0, [], 0, 0x50000, 8, 1, 3, []⟩]) ∧
    (sWt.task? 0 = some t0 ∧ t0.fin = none ∧ t0.rowops = [] ∧ t0.wait = .no ∧ fetchesWt = true ∧ sWt.homeTgt 0 (sWt.taskCtx t0) 0 (t0.xr 4) = .ok 0x40000) ∧
    ((wAt gBk wT).grp? 3 = some gBk ∧ gBk.res = .resident ∧ gBk.hidden = true ∧ gBk.trap = none) :=
  ⟨⟨rfl, rfl, rfl, rfl, rfl, rfl, rfl, rfl⟩, ⟨rfl, rfl, rfl, rfl, rfl⟩, ⟨rfl, by decide⟩, rfl, ⟨rfl, rfl, rfl, by decide +kernel, by decide +kernel⟩, ⟨rfl, rfl, rfl, rfl, rfl, rfl, rfl, by decide +kernel, rfl⟩,
    ⟨rfl, rfl, rfl⟩, ⟨rfl, rfl, rfl⟩, ⟨rfl, rfl, rfl, rfl, by decide +kernel, by decide +kernel⟩, rfl, rfl, rfl, rfl⟩
/-- Recovery; a controller image given, and one that the minimum version refuses. -/
theorem witness_FirmwareAndReports : ({ State.reset with md := { Module.reset with recovery := true } } : State).md.recovery = true ∧
    (some 5 : Option Nat).or (nth Module.reset.loaded 0) = some 5 ∧
    ∃ m : Module, ¬ (Config.imageVerifies 5 = true ∧ m.minVer ≤ Config.imageVersion 5) :=
  ⟨rfl, rfl, { Module.reset with minVer := Config.imageVersion 5 + 1 }, fun h => absurd h.2 (Nat.not_succ_le_self _)⟩

/-! ### Encodings and steps -/

/-- Instructions of every family of the cores, and of the stack cores. -/
theorem witness_CoreEncodingRoundTrip : ∀ i ∈ wInts ++ wFloats ++ wPins 11 ++ wTiles ++ wChains ++ wCurd ++ [Instr.exit h64], i.WfCore := by
  have h : (wInts ++ wFloats ++ wPins 11 ++ wTiles ++ wChains ++ wCurd ++ [Instr.exit h64]).all (fun i => legal i && !i.onStack) = true := by decide +kernel
  intro i hi
  have := List.all_eq_true.1 h i hi
  simp only [Bool.and_eq_true, Bool.not_eq_true'] at this
  exact this
theorem witness_StackEncodingRoundTrip : ∀ i ∈ wStackC ++ wChan, i.WfStack := fun i hi => (fitsS (by decide) i hi).1
theorem witness_DecodedInstructionsAreWellFormed : (∃ i, decodeCore 0x8000004B0407A1051 = .ok i) ∧ (∃ i, decodeStack 0x0006038020401000 = .ok i) ∧ 7 % 4 = 3 :=
  ⟨⟨_, rfl⟩, ⟨_, rfl⟩, rfl⟩

/-- Code whose first instruction is IADD, of the core's group and of the task. -/
def sRun (t : Turn) : State := { wAt wG wT with sched := [t], dram := wMem ++ cellsOf 0x30000 12 0x8000004B0407A1051 }
/-- EXIT of a group with a store outstanding, on a core whose drydown tracker is full. -/
def gLast : Group := { wG with obq := [entL .store (.mem 0x40000 0) 4] }
def sDryHeld : State := { wAt gLast wT with groups := gLast :: (List.range 32).map fun k => { wG with id := 100 + k, slot := 4 + k, res := .draining, engines := [1] }, sched := [.issue 0 0], dram := wMem ++ cellsOf 0x30000 8 (encode (.exit h64)) }
def issueOk (s : State) (took : Bool) (n : Nat) : Bool :=
  let p := { s with sched := [], cur := .none }.prepared 0 0
  (nth (p.core 0).slots 0).last ≤ (p.die 0).cycle &&
  match p.order 0 0 with
  | g :: gs => g.core == 0 && gs.isEmpty && g.rotate.issueAddr == some 0 && g.rot.isSome == g.rotate.rot.isSome && (match p.grpGrid? g with
    | some m => 0 < m.csize && (match ((g.iblk.find? (·.1 == 0)).map (·.2)).or (p.codeBlock g.core m.ctx m.code) with
      | some blk => Sys2Proof.sizeOf (bytesNat blk) == some n && (match decodeCore (bytesNat blk % 2 ^ (8 * n)) with
        | .ok i => i.size == n && (match exec i (p.issuing 0 0 g i) with
          | .next t => t.tookCycle g.id (p.die 0).cycle == took && p.shortage t 0 == 0
          | _ => false)
        | .error _ => false)
      | none => false)
    | none => false)
  | [] => false
def sRunS : State := { sS with sched := [.stack 0], dram := wMem ++ cellsOf 0x30000 8 0x0006038020401000 }
def fetchOk : Bool :=
  let s0 := { sRunS with sched := [], cur := .none }
  match s0.permit (s0.lookup none (dieOfStack 0) kS.ctx kS.code s0.free) kS.code 0 with
  | .ok b _ e => pteX e && (match decodeStack (sRunS.homeRead (pteFrame e + (kS.code - b)) 32 % 2 ^ 64) with
    | .ok i => i.size == 8
    | .error _ => false) && Sys2Proof.sizeOf (sRunS.homeRead (pteFrame e + (kS.code - b)) 32) == some 8
  | .fail .. => false
theorem witness_StepRunsDecodedInstruction :
    (sRun (.event (.hiddenRecall 3))).sched = .event (.hiddenRecall 3) :: [] ∧ (sRun (.tick 0)).sched = .tick 0 :: [] ∧ State.reset.sched = [] ∧
    (sRun (.issue 0 0)).sched = .issue 0 0 :: [] ∧ issueOk (sRun (.issue 0 0)) true 12 = true ∧ issueOk sDryHeld false 8 = true ∧
    (sRunS.sched = .stack 0 :: [] ∧ sRunS.task? 0 = some t0 ∧ t0.wait = .no ∧ t0.fin = none ∧ t0.nextIssue ≤ sRunS.stackNow 0 ∧ sRunS.dieDown (dieOfStack 0) = false ∧ sRunS.late 0 t0 = false ∧ sRunS.fetchHeld t0 = false ∧
      t0.preempt = none ∧ sRunS.grid? t0.grid = some kS ∧ t0.pc = 0 ∧ 0 < kS.csize) ∧ fetchOk = true ∧
    (∀ q < 16, (State.reset.quad q).promos = [] ∧ (State.reset.quad q).accs = [] ∧ (State.reset.quad q).pulls = []) ∧ (∀ g ∈ State.reset.groups, g.preempt = none) ∧
    ∀ sc < 256, ∀ x, State.reset.task? sc = some x → x.preempt = none :=
  ⟨rfl, rfl, rfl, rfl, by decide +kernel, by decide +kernel, ⟨rfl, rfl, rfl, rfl, by decide +kernel, by decide +kernel, by decide +kernel, by decide +kernel, rfl, rfl, rfl, by decide +kernel⟩, by decide +kernel,
    by decide +kernel, by decide, fun sc _ x h => by simp [State.task?, State.reset, State.stk, nth, StackCore.reset] at h⟩

/-- Every step from reset goes on, and its memories are in canonical form. -/
theorem witness_StepsKeepMemoryForm : State.reset.memOk = true ∧ ∃ t, step State.reset = .next t := ⟨by decide +kernel, _, rfl⟩

end Sys2Proof.Tests
end

section
/-! SUPPORT. The issue address as the minimum over the ready lanes (03 R53). -/

namespace Sys2Proof.Machine

open Sys2Proof

/-! ### The issue address (03 R53) -/

theorem mem_lanesOf {m : Mask} {l : Nat} : l ∈ lanesOf m ↔ l < 128 ∧ m.getLsbD l = true := by
  simp [lanesOf]

theorem Lane.isReady_iff (x : Lane) : x.isReady = true ↔ x = .ready := by
  cases x <;> simp [Lane.isReady]

theorem mem_lanesOf_readyMask {g : Group} {l : Nat} : l ∈ lanesOf g.readyMask ↔ l < 128 ∧ nth g.lanes l = .ready := by
  rw [mem_lanesOf]
  refine and_congr_right fun hl => ?_
  rw [Group.readyMask, getLsbD_maskOf _ l hl, Lane.isReady_iff]

/-- `minOf` gives an element that is at most every element. -/
theorem minOf_eq_some_iff {xs : List Nat} {m : Nat} : minOf xs = some m ↔ m ∈ xs ∧ ∀ x ∈ xs, m ≤ x := by
  have e : minOf xs = xs.min? := by cases xs <;> rfl
  rw [e, List.min?_eq_some_iff]

/-- The smallest PC of a set stands at one of its lanes and above none of them. -/
theorem Group.minPc_eq_some_iff {g : Group} {m : Mask} {a : W32} :
    g.minPc m = some a ↔ (∃ l ∈ lanesOf m, nth g.pcv l = a) ∧ ∀ l ∈ lanesOf m, a.toNat ≤ (nth g.pcv l).toNat := by
  rw [Group.minPc, Option.map_eq_some_iff]
  constructor
  · rintro ⟨n, hn, rfl⟩
    obtain ⟨hmem, hle⟩ := minOf_eq_some_iff.1 hn
    obtain ⟨l, hl, rfl⟩ := List.mem_map.1 hmem
    rw [BitVec.ofNat_toNat, BitVec.setWidth_eq]
    exact ⟨⟨l, hl, rfl⟩, fun k hk => hle _ (List.mem_map.2 ⟨k, hk, rfl⟩)⟩
  · rintro ⟨⟨l, hl, rfl⟩, hle⟩
    refine ⟨(nth g.pcv l).toNat, minOf_eq_some_iff.2 ⟨List.mem_map.2 ⟨l, hl, rfl⟩, fun x hx => ?_⟩, by simp⟩
    obtain ⟨k, hk, rfl⟩ := List.mem_map.1 hx
    exact hle k hk

/-- Settles O9: outside a rotation the issue address is the minimum over the ready lanes. -/
theorem issueAddressIsLeastReadyPc : Obligations.IssueAddressIsLeastReadyPc := by
  intro g a hrot
  rw [Group.issueAddr, hrot, Group.minPc_eq_some_iff]
  simp only [mem_lanesOf_readyMask, and_assoc, and_imp]

end Sys2Proof.Machine
end

section
/-! SUPPORT. Transfers: what BRA, BRX, RET, CALL and CALLX do where every target passes and where one fails (03 R68-R71). -/

namespace Sys2Proof.Machine

open Sys2Proof

/-! ### Targets of transfers (03 R68-R70) -/

theorem badTarget_eq_none_iff {e : Nat} {t : Int} : badTarget e t = none ↔ GoodTarget e t := by
  unfold badTarget GoodTarget
  split
  · simp; omega
  · split
    · simp; omega
    · split
      · simp; omega
      · simp; omega

/-- The cause of a target that fails: alignment is looked at before the end of the code, and not at all below address 0. -/
theorem badTarget_of_not_good {e : Nat} {t : Int} (h : ¬ GoodTarget e t) :
    badTarget e t = some (if 0 ≤ t ∧ (t % 4 ≠ 0 ∨ t % 32 = 28) then 0x02 else 0x06) := by
  unfold GoodTarget at h
  unfold badTarget
  by_cases hneg : t < 0
  · rw [if_pos hneg, if_neg (by omega)]; rfl
  · rw [if_neg hneg]
    by_cases hal : t % 4 ≠ 0 ∨ t % 32 = 28
    · rw [if_pos hal, if_pos ⟨by omega, hal⟩]; rfl
    · rw [if_neg hal, if_pos (by omega), if_neg fun k => hal k.2]; rfl

/-- Over the lanes of a set in ascending order, the first lane that gives something decides. -/
theorem findSome?_lanesOf {α : Type} {m : Mask} {f : Nat → Option α} {l : Nat} {b : α} (hl : l < 128) (hm : m.getLsbD l = true)
    (hb : f l = some b) (hfst : ∀ k < l, m.getLsbD k = true → f k = none) : (lanesOf m).findSome? f = some b := by
  have hsplit : List.range 128 = List.range l ++ l :: (List.range (127 - l)).map (l + 1 + ·) := by
    have h1 : 128 = l + ((127 - l) + 1) := by omega
    rw [h1, List.range_add, List.range_succ_eq_map]
    simp [Function.comp_def, Nat.add_left_comm, Nat.add_comm]
  have hnone : ((List.range l).filter m.getLsbD).findSome? f = none := by
    rw [List.findSome?_eq_none_iff]
    intro k hk
    obtain ⟨hk, hkm⟩ := List.mem_filter.1 hk
    exact hfst k (List.mem_range.1 hk) hkm
  rw [lanesOf, hsplit, List.filter_append, List.findSome?_append, hnone, List.filter_cons_of_pos hm]
  simp [hb]

/-- A source operand does not depend on the queue, which alone a change of path touches. -/
theorem Group.opnd_onPath (g : Group) (a : W32) (two : Bool) (n : Nat) (o : Src) (l : Nat) :
    (g.onPath a).opnd two n o l = g.opnd two n o l := by
  rcases g.onPath_cases a with h | h <;> rw [h]
  rfl

theorem srcTarget_onPath (g : Group) (a : W32) (src : Src) (n l : Nat) :
    srcTarget (g.onPath a) src n l = (g.opnd false n src l).toNat % 2 ^ 32 := by
  simp [srcTarget, Group.opnd_onPath, lo32]

theorem startOf_codeEnd (s : State) (g : Group) (a : W32) : (startOf s g a).codeEnd (g.onPath a) = s.codeEnd g := by
  have hteam : (g.onPath a).team = g.team := by
    rcases g.onPath_cases a with h | h <;> rw [h]
    rfl
  have hk := startOf_around s g a
  simp only [State.codeEnd, State.grpGrid?, State.team?, State.grid?, hteam, hk.teams, hk.grids]

theorem actOf_subset {i : Instr} {g : Group} {a : W32} {l : Nat} (h : (actOf i g a).getLsbD l = true) :
    (g.lanesAt a).getLsbD l = true := by
  unfold actOf Group.active at h
  split at h
  · exact h
  · rw [BitVec.getLsbD_and, Bool.and_eq_true] at h
    exact h.1

/-! ### What a transfer does (03 R68) -/

section
variable {i : Instr} {s : State} {g : Group} {a : W32}

theorem transfer_of_good {tgt : Nat → Int} (refill : Nat) (ws : List Wr)
    (h : ∀ l < 128, (actOf i g a).getLsbD l = true → GoodTarget (s.codeEnd g) (tgt l)) :
    transfer (issueOf i g a) (startOf s g a) tgt refill ws =
      (if ws.isEmpty then startOf s g a else (startOf s g a).locked (issueOf i g a) [] ws).finish (issueOf i g a)
        (fun l => some (BitVec.ofNat 32 (tgt l).toNat)) (fun _ => none) refill := by
  have hnone : ((lanesOf (actOf i g a)).findSome? fun l => badTarget (s.codeEnd g) (tgt l)) = none := by
    rw [List.findSome?_eq_none_iff]
    intro l hl
    obtain ⟨hl, hact⟩ := mem_lanesOf.1 hl
    exact badTarget_eq_none_iff.2 (h l hl hact)
  unfold transfer
  simp only [issueOf, startOf_codeEnd, hnone]

theorem transfer_of_bad {tgt : Nat → Int} (refill : Nat) (ws : List Wr) {l : Nat} (hl : l < 128) (hact : (actOf i g a).getLsbD l = true)
    (hbad : ¬ GoodTarget (s.codeEnd g) (tgt l))
    (hfst : ∀ k < l, (actOf i g a).getLsbD k = true → GoodTarget (s.codeEnd g) (tgt k)) :
    transfer (issueOf i g a) (startOf s g a) tgt refill ws =
      (startOf s g a).trapExec (issueOf i g a) (if 0 ≤ tgt l ∧ (tgt l % 4 ≠ 0 ∨ tgt l % 32 = 28) then 0x02 else 0x06) 0xFF 0 := by
  have hsome := findSome?_lanesOf (f := fun l => badTarget (s.codeEnd g) (tgt l)) hl hact (badTarget_of_not_good hbad)
    fun k hk hkm => badTarget_eq_none_iff.2 (hfst k hk hkm)
  unfold transfer
  simp only [issueOf, startOf_codeEnd, hsome]

/-- Results that a transfer issues: its link, where it has one. -/
def linkPend (ws : List Wr) : List Pend := if ws.isEmpty then [] else [⟨none, [], ws⟩]

theorem linked_grp (h : s.curGrp? = some g) (ws : List Wr) :
    (if ws.isEmpty then startOf s g a else (startOf s g a).locked (issueOf i g a) [] ws).grp? g.id =
      some { g.onPath a with pend := g.pend ++ linkPend ws } ∧
    Around g.id g.core s (if ws.isEmpty then startOf s g a else (startOf s g a).locked (issueOf i g a) [] ws) := by
  have hstart := startOf_grp h a
  have hid : (issueOf i g a).g.id = g.id := Group.onPath_id g a
  unfold linkPend
  split
  · refine ⟨?_, startOf_around s g a⟩
    rw [hstart, ← Group.onPath_pend g a, List.append_nil]
  · rw [State.locked, hid, State.addPend_grp hstart, Group.onPath_pend]
    exact ⟨rfl, (startOf_around s g a).trans (State.addPend_around hstart g.core _)⟩

/-- A transfer whose targets all pass: the active lanes go to their targets, the others at the address fall through. -/
theorem transfer_good_moves (h : s.curGrp? = some g) {tgt : Nat → Int} (refill : Nat) (ws : List Wr)
    (hgood : ∀ l < 128, (actOf i g a).getLsbD l = true → GoodTarget (s.codeEnd g) (tgt l)) :
    ∃ g', (transfer (issueOf i g a) (startOf s g a) tgt refill ws).grp? g.id = some g' ∧ RegsKept g g' ∧
      Around g.id g.core s (transfer (issueOf i g a) (startOf s g a) tgt refill ws) ∧ g'.lanes = g.lanes ∧
      (∀ l < 128, nth g'.pcv l =
        if (actOf i g a).getLsbD l then BitVec.ofNat 32 (tgt l).toNat
        else if (g.lanesAt a).getLsbD l then nextPc a i.size else nth g.pcv l) ∧
      g'.pend = g.pend ++ linkPend ws := by
  obtain ⟨hgrp, haround⟩ := linked_grp (i := i) (a := a) h ws
  rw [transfer_of_good refill ws hgood]
  revert hgrp haround
  generalize (if ws.isEmpty then startOf s g a else (startOf s g a).locked (issueOf i g a) [] ws) = s1
  intro hgrp haround
  have hid : (issueOf i g a).g.id = g.id := Group.onPath_id g a
  have hgrp' : s1.grp? (issueOf i g a).g.id = some { g.onPath a with pend := g.pend ++ linkPend ws } := by rw [hid]; exact hgrp
  have hfin := State.finish_grp hgrp' (fun l => some (BitVec.ofNat 32 (tgt l).toNat)) (fun _ => none) refill
  have hfar := State.finish_around hgrp' (fun l => some (BitVec.ofNat 32 (tgt l).toNat)) (fun _ => none) refill
  rw [hid] at hfin
  simp only [Group.onPath_core, Group.onPath_id] at hfar
  obtain ⟨hkept, hpend, -, hpcv, hlanes⟩ := Group.finished_kept { g.onPath a with pend := g.pend ++ linkPend ws } (issueOf i g a)
    (s1.now { g.onPath a with pend := g.pend ++ linkPend ws }) (fun l => some (BitVec.ofNat 32 (tgt l).toNat)) (fun _ => none) refill
  obtain ⟨hmpc, hml⟩ := Group.advance_moves { g.onPath a with pend := g.pend ++ linkPend ws } (issueOf i g a)
    (s1.now { g.onPath a with pend := g.pend ++ linkPend ws }) (fun l => some (BitVec.ofNat 32 (tgt l).toNat)) (fun _ => none) refill
  refine ⟨_, hfin, ?_, haround.trans hfar, ?_, ?_, hpend⟩
  · have hpre : RegsKept (g.onPath a) { g.onPath a with pend := g.pend ++ linkPend ws } :=
      ⟨rfl, rfl, rfl, rfl, rfl, rfl, rfl, rfl, rfl, rfl, rfl, rfl, rfl, rfl, rfl⟩
    exact (g.onPath_kept a).trans (hpre.trans hkept)
  · rw [hlanes, hml]
    apply Vector.ext
    intro l hl
    simp [mkLanes, nth, Nat.mod_eq_of_lt hl]
  · intro l hl
    rw [hpcv, hmpc, nth_mkLanes _ _ hl]
    by_cases hact : (actOf i g a).getLsbD l = true
    · simp [issueOf, hact, actOf_subset hact]
    · simp [issueOf, hact]

end

/-! ### Traps raised (14 R311) -/

/-- A delivery happens where a trap is due in a group that is not saved. -/
theorem State.deliverTrap_cases {s : State} {gid : Nat} {g : Group} (h : s.grp? gid = some g) :
    s.deliverTrap gid = s ∨ ∃ t, g.trapDue = some t ∧ s.deliverTrap gid = s.putTrap g t := by
  unfold State.deliverTrap
  rw [h]
  dsimp only
  cases ht : g.trapDue with
  | none => exact .inl rfl
  | some t =>
    dsimp only
    split
    · exact .inl rfl
    · exact .inr ⟨t, rfl, rfl⟩

theorem Group.trapDue_some {g : Group} {t : TrapSt} (h : g.trapDue = some t) : g.trap = some t ∧ t.delivered = false := by
  obtain ⟨ht, hd⟩ := Option.filter_eq_some_iff.1 h
  simp only [Bool.and_eq_true, Bool.not_eq_true'] at hd
  exact ⟨ht, hd.1⟩

/-- A trap of a group without one stands in it, and nothing of the group but TRAPC changes with it. -/
theorem State.raiseTrap_grp {s : State} {gid : Nat} {g : Group} (t : TrapSt) (h : s.grp? gid = some g) (hno : g.trap = none) :
    ∃ d c, (s.raiseTrap gid t).grp? gid = some { g with trap := some { t with delivered := d }, trapc := c } := by
  have hid := State.grp?_id s h
  have hset : (s.setGrp { g with trap := some t }).grp? gid = some { g with trap := some t } := State.grp?_setGrp_of s h hid
  unfold State.raiseTrap
  rw [h]
  dsimp only
  rw [if_neg (by simp [hno])]
  rcases State.deliverTrap_cases hset with e | ⟨t', ht', e⟩
  · exact ⟨t.delivered, g.trapc, by rw [e, hset]⟩
  · have ht : t = t' := Option.some.inj (Group.trapDue_some ht').1
    subst ht
    refine ⟨true, t.trapc, ?_⟩
    rw [e]
    exact State.grp?_setGrp_of _ hset hid

theorem State.deliverTrap_memory (s : State) (gid : Nat) :
    (s.deliverTrap gid).dram = s.dram ∧ (s.deliverTrap gid).quads = s.quads ∧ (s.deliverTrap gid).teams = s.teams := by
  cases h : s.grp? gid with
  | none => simp [State.deliverTrap, h]
  | some g =>
    rcases State.deliverTrap_cases h with e | ⟨t, -, e⟩ <;> rw [e]
    · exact ⟨rfl, rfl, rfl⟩
    · exact ⟨rfl, rfl, rfl⟩

theorem State.raiseTrap_memory (s : State) (gid : Nat) (t : TrapSt) :
    (s.raiseTrap gid t).dram = s.dram ∧ (s.raiseTrap gid t).quads = s.quads ∧ (s.raiseTrap gid t).teams = s.teams := by
  unfold State.raiseTrap
  split
  · exact ⟨rfl, rfl, rfl⟩
  · split
    · exact ⟨rfl, rfl, rfl⟩
    · exact State.deliverTrap_memory _ gid

theorem Group.flush_trap (g : Group) (t : Nat) : (g.flush t).trap = g.trap := by
  have hcommit : ∀ (w : Wr) (x : Group), (x.commit w).trap = x.trap := by
    intro w x
    cases w <;> simp only [Group.commit]
    split <;> rfl
  have hall : ∀ (ws : List Wr) (x : Group), (x.commitAll ws).trap = x.trap := by
    intro ws
    induction ws with
    | nil => exact fun _ => rfl
    | cons w ws ih => exact fun x => (ih (x.commit w)).trans (hcommit w x)
  have hfold : ∀ (ps : List Pend) (x : Group), (ps.foldl (fun g p => g.commitAll p.wrs) x).trap = x.trap := by
    intro ps
    induction ps with
    | nil => exact fun _ => rfl
    | cons p ps ih => exact fun x => (ih (x.commitAll p.wrs)).trans (hall p.wrs x)
  exact hfold _ g

/-- The group that issues has no trap outstanding. -/
theorem State.curGrp?_trap {s : State} {g : Group} (h : s.curGrp? = some g) : g.trap = none := by
  obtain ⟨x, -, -, -, hx, rfl⟩ := State.curGrp?_some h
  rw [Group.flush_trap, hx]

/-- An execution trap of the instruction at issue. -/
theorem trapExec_raises {i : Instr} {s : State} {g : Group} {a : W32} (h : s.curGrp? = some g) (cause lane : Nat) (va : W64) :
    TrapRaised s ((startOf s g a).trapExec (issueOf i g a) cause lane va) g cause (actOf i g a) a := by
  have hid : (issueOf i g a).g.id = g.id := Group.onPath_id g a
  have hnone : ((issueOf i g a).g.issued ((startOf s g a).now (issueOf i g a).g) 0).trap = none :=
    (g.onPath_kept a).trap.trans (State.curGrp?_trap h)
  have hset := State.grp?_setGrp_of (startOf s g a) (g' := (issueOf i g a).g.issued ((startOf s g a).now (issueOf i g a).g) 0)
    (startOf_grp h a) hid
  obtain ⟨d, c, hgrp⟩ := State.raiseTrap_grp ((issueOf i g a).trapSt cause (issueOf i g a).act lane va false 0) hset hnone
  obtain ⟨hdram, hquads, hteams⟩ := State.raiseTrap_memory
    ((startOf s g a).setGrp ((issueOf i g a).g.issued ((startOf s g a).now (issueOf i g a).g) 0)) g.id
    ((issueOf i g a).trapSt cause (issueOf i g a).act lane va false 0)
  have hk := startOf_around s g a
  unfold State.trapExec
  rw [hid]
  exact ⟨_, _, hgrp, rfl, rfl, rfl, rfl, rfl, Group.onPath_pcv g a, Group.onPath_lanes g a, Group.onPath_pend g a, Group.onPath_vregs g a,
    Group.onPath_sregs g a, Group.onPath_preds g a, Group.onPath_hnds g a, hdram.trans hk.dram, hquads.trans hk.quads, hteams.trans hk.teams⟩

theorem TrapRaised.trapped {s t : State} {g : Group} {cause : Nat} {m : Mask} {a : W32} (h : TrapRaised s t g cause m a) :
    ∃ g' tr, t.grp? g.id = some g' ∧ g'.trap = some tr := by
  obtain ⟨g', tr, hg', htr, -⟩ := h
  exact ⟨g', tr, hg', htr⟩

/-! ### The transfer instructions (03 R69-R71) -/

/-- Only the return predictor of a group that has not trapped moves. -/
def PredictorMoved (gid : Nat) (s t : State) : Prop :=
  t = s ∨ ∃ g ret, s.grp? gid = some g ∧ g.trap = none ∧ t = s.setGrp { g with retp := ret }

theorem PredictorMoved.grp {gid : Nat} {s t : State} {g : Group} (h : PredictorMoved gid s t) (hg : s.grp? gid = some g) :
    ∃ ret, t.grp? gid = some { g with retp := ret } := by
  rcases h with rfl | ⟨x, ret, hx, -, rfl⟩
  · exact ⟨g.retp, hg⟩
  · obtain rfl : x = g := Option.some.inj (hx.symm.trans hg)
    exact ⟨ret, State.grp?_setGrp_of s hg (show x.id = gid from State.grp?_id s hx)⟩

theorem PredictorMoved.around {gid : Nat} {s t : State} (h : PredictorMoved gid s t) (c : Nat) : Around gid c s t := by
  rcases h with rfl | ⟨g, ret, hg, -, rfl⟩
  · exact Around.refl gid c _
  · rw [← State.grp?_id s hg]
    exact around_setGrp s { g with retp := ret } c

theorem PredictorMoved.eq_of_trap {gid : Nat} {s t : State} {g : Group} {tr : TrapSt} (h : PredictorMoved gid s t)
    (hg : s.grp? gid = some g) (ht : g.trap = some tr) : t = s := by
  rcases h with rfl | ⟨x, ret, hx, hno, rfl⟩
  · rfl
  · obtain rfl : x = g := Option.some.inj (hx.symm.trans hg)
    rw [ht] at hno
    cases hno

theorem callTo_moves (c : Issue) (s : State) (d : Nat) (tgt : Nat → Int) :
    PredictorMoved c.g.id (transfer c s tgt 8 (linkWr c d)) (callTo c s d tgt) := by
  unfold callTo
  generalize transfer c s tgt 8 (linkWr c d) = t
  dsimp only
  cases hg : t.grp? c.g.id with
  | none => exact .inl rfl
  | some g =>
    dsimp only
    split
    · exact .inl rfl
    · rename_i hno
      rw [State.pushRet, hg]
      exact .inr ⟨g, _, hg, by simpa using hno, rfl⟩

/-- RET takes the top of the return predictor once its transfer has not trapped. -/
theorem predictor_popped (s : State) (gid : Nat) :
    PredictorMoved gid s (match s.grp? gid with
      | some g => if g.trap.isSome then s else s.setGrp { g with retp := g.retp.drop 1 }
      | none => s) := by
  cases hg : s.grp? gid with
  | none => exact .inl rfl
  | some g =>
    dsimp only
    split
    · exact .inl rfl
    · rename_i hno
      exact .inr ⟨g, _, hg, by simpa using hno, rfl⟩

/-- The link of a transfer that has one. -/
def linkOf (c : Issue) : Option Nat → List Wr
  | none => []
  | some d => linkWr c d

theorem exec_bra (h : Hdr) (imm : W32) (s : State) : exec (.bra h imm) s = execBra h imm s := rfl
theorem exec_brx (h : Hdr) (src : Src) (n : Nat) (s : State) : exec (.brx h src n) s = execBrx h src n s := rfl
theorem exec_ret (h : Hdr) (src : Src) (n : Nat) (s : State) : exec (.ret h src n) s = execRet h src n s := rfl
theorem exec_call (h : Hdr) (d : Nat) (imm : W32) (s : State) : exec (.call h d imm) s = execCall h d imm s := rfl
theorem exec_callx (h : Hdr) (d : Nat) (src : Src) (n : Nat) (s : State) : exec (.callx h d src n) s = execCallx h d src n s := rfl

/-- The targets that a lane reads are those of the group before its path changed. -/
theorem srcTarget_issueOf (i : Instr) (g : Group) (a : W32) (src : Src) (n : Nat) :
    srcTarget (issueOf i g a).g src n = fun l => (((g.opnd false n src l).toNat % 2 ^ 32 : Nat) : Int) := by
  funext l
  exact srcTarget_onPath g a src n l

/-- BRA, BRX, RET, CALL and CALLX are transfers to the targets of their row, with their link. -/
theorem exec_transferRow {i : Instr} {s : State} {g : Group} {a : W32} {link : Option Nat} {tgt : Nat → Int}
    (hrow : transferRow g a i = some (link, tgt)) (H : Acts i s g a) :
    ∃ refill t, exec i s = .next t ∧
      PredictorMoved (issueOf i g a).g.id (transfer (issueOf i g a) (startOf s g a) tgt refill (linkOf (issueOf i g a) link)) t := by
  cases i with
  | bra h imm =>
    cases hrow
    rw [exec_bra, execBra, withIssue_acts H]
    exact ⟨8, _, rfl, .inl rfl⟩
  | brx h src n =>
    cases hrow
    rw [exec_brx, execBrx, withIssue_acts H, srcTarget_issueOf]
    exact ⟨8, _, rfl, .inl rfl⟩
  | ret h src n =>
    cases hrow
    rw [exec_ret, execRet, withIssue_acts H, srcTarget_issueOf]
    exact ⟨_, _, rfl, predictor_popped _ _⟩
  | call h d imm =>
    cases hrow
    rw [exec_call, execCall, withIssue_acts H]
    exact ⟨8, _, rfl, callTo_moves ..⟩
  | callx h d src n =>
    cases hrow
    rw [exec_callx, execCallx, withIssue_acts H, srcTarget_issueOf]
    exact ⟨8, _, rfl, callTo_moves ..⟩
  | _ => cases hrow

theorem legal_call (h : Hdr) (d : Nat) (imm : W32) : legal (.call h d imm) =
    (spansOk (.call h d imm) && (prd h && noU h && l96 h && decide (d < 256) && imm.toNat % 4 == 0)) := rfl
theorem legal_callx (h : Hdr) (d : Nat) (src : Src) (n : Nat) : legal (.callx h d src n) =
    (spansOk (.callx h d src n) && (tgtOk h src n && decide (d < 256))) := rfl

/-- Transfers are encoded without U, and the link register is one of the 256. -/
theorem transferRow_wf {i : Instr} {g : Group} {a : W32} {d : Nat} {tgt : Nat → Int}
    (hrow : transferRow g a i = some (some d, tgt)) (hwf : i.WfCore) : (hdrOf i).u = false ∧ d < 256 := by
  have hleg := hwf.1
  cases i with
  | call h d imm =>
    cases hrow
    simp only [legal_call, noU, Bool.and_eq_true, Bool.not_eq_true', decide_eq_true_eq] at hleg
    obtain ⟨-, ⟨⟨⟨-, hu⟩, -⟩, hd⟩, -⟩ := hleg
    exact ⟨hu, hd⟩
  | callx h d src n =>
    cases hrow
    simp only [legal_callx, tgtOk, noU, Bool.and_eq_true, Bool.not_eq_true', decide_eq_true_eq] at hleg
    obtain ⟨-, ⟨⟨⟨⟨-, hu⟩, -⟩, -⟩, -⟩, hd⟩ := hleg
    exact ⟨hu, hd⟩
  | _ => cases hrow

theorem linkWr_ne_nil (c : Issue) (d : Nat) : (linkWr c d).isEmpty = false := by
  unfold linkWr emitVec
  dsimp only
  split
  · rfl
  · split <;> rfl

/-- The link written: the address of the next instruction in every active lane. -/
theorem linkWr_written {i : Instr} {g : Group} {a : W32} {d : Nat} (hu : (hdrOf i).u = false) (hd : d < 256) :
    VecWritten g (g.commitAll (linkWr (issueOf i g a) d)) false false (actOf i g a) d fun _ => (nextPc a i.size).zeroExtend 64 := by
  have h := emitVec_written (g := g) (c := issueOf i g a) (two := false) (uni := true) (d := d) (lin := none)
    (f := fun _ => (nextPc a i.size).zeroExtend 64) (Group.onPath_lanes g a) hd (by simp) (by simp) (fun _ _ _ _ _ => rfl)
  rwa [show (issueOf i g a).h.u = false from hu] at h

theorem transfersMoveActiveLanes : TransfersMoveActiveLanes := by
  intro i s g a link tgt hrow hwf H hgood
  obtain ⟨refill, t, hexec, hpred⟩ := exec_transferRow hrow H
  rw [show (issueOf i g a).g.id = g.id from Group.onPath_id g a] at hpred
  obtain ⟨g1, hg1, hkept, haround, hlanes, hpcv, hpend⟩ :=
    transfer_good_moves H.1.cur refill (linkOf (issueOf i g a) link) hgood
  obtain ⟨ret, hg'⟩ := hpred.grp hg1
  refine ⟨t, _, hexec, hg', ?_, haround.trans (hpred.around g.core), hlanes, hpcv, ?_⟩
  · exact hkept.trans ⟨rfl, rfl, rfl, rfl, rfl, rfl, rfl, rfl, rfl, rfl, rfl, rfl, rfl, rfl, rfl⟩
  · cases link with
    | none => simpa [linkOf, linkPend] using hpend
    | some d =>
      obtain ⟨hu, hd⟩ := transferRow_wf hrow hwf
      refine ⟨linkWr (issueOf i g a) d, ?_, linkWr_written hu hd⟩
      simpa [linkOf, linkPend, linkWr_ne_nil] using hpend

theorem badTargetTraps : BadTargetTraps := by
  intro i s g a link tgt l hrow hwf H hl hact hbad hfst
  obtain ⟨refill, t, hexec, hpred⟩ := exec_transferRow hrow H
  rw [show (issueOf i g a).g.id = g.id from Group.onPath_id g a] at hpred
  rw [transfer_of_bad refill _ hl hact hbad hfst] at hpred
  have htrap := trapExec_raises (i := i) (a := a) H.1.cur
    (if 0 ≤ tgt l ∧ (tgt l % 4 ≠ 0 ∨ tgt l % 32 = 28) then 0x02 else 0x06) 0xFF 0
  obtain ⟨g', tr, hg', htr⟩ := htrap.trapped
  refine ⟨t, hexec, ?_⟩
  rw [hpred.eq_of_trap hg' htr]
  exact htrap

/-- Settles O12: every transfer instruction is `transfer` to the targets of its row, which either moves all lanes or traps. -/
theorem transfersAndTheirTargets : Obligations.TransfersAndTheirTargets := ⟨transfersMoveActiveLanes, badTargetTraps⟩

end Sys2Proof.Machine
end

section
/-! SUPPORT. Frames: what copies, spirals, queues, banks and traps leave of groups, grids and trap records (06 R127, 08 R183, 09 R200-R207,
14 R311). -/

namespace Sys2Proof.Machine

open Sys2Proof

/-! ### Groups that stay -/

/-- `y` is what has become of `x` where nothing ended, saved or restored it and no result was committed. -/
structure Group.Kept (x y : Group) : Prop where
  id    : y.id = x.id
  core  : y.core = x.core
  slot  : y.slot = x.slot
  res   : y.res = x.res
  ended : y.ended = x.ended
  img   : y.img = x.img
  vregs : y.vregs = x.vregs
  sregs : y.sregs = x.sregs
  preds : y.preds = x.preds
  hnds  : y.hnds = x.hnds

theorem Group.Kept.refl (x : Group) : x.Kept x := ⟨rfl, rfl, rfl, rfl, rfl, rfl, rfl, rfl, rfl, rfl⟩

theorem Group.Kept.trans {x y z : Group} (h : x.Kept y) (k : y.Kept z) : x.Kept z where
  id := k.id.trans h.id
  core := k.core.trans h.core
  slot := k.slot.trans h.slot
  res := k.res.trans h.res
  ended := k.ended.trans h.ended
  img := k.img.trans h.img
  vregs := k.vregs.trans h.vregs
  sregs := k.sregs.trans h.sregs
  preds := k.preds.trans h.preds
  hnds := k.hnds.trans h.hnds

/-- Grids stand, trap records stay listed, and every group is one that was there; groups may have gone. -/
structure State.Wanes (s t : State) : Prop where
  grids : t.grids = s.grids
  traps : ∀ c, ∀ r ∈ (s.ctxD c).traps, r ∈ (t.ctxD c).traps
  grps  : ∀ y ∈ t.groups, ∃ x ∈ s.groups, x.Kept y

/-- The same where no group goes. -/
structure State.Stays (s t : State) : Prop extends s.Wanes t where
  ids : t.groups.map (·.id) = s.groups.map (·.id)

theorem State.Wanes.trans {s t u : State} (h : s.Wanes t) (k : t.Wanes u) : s.Wanes u where
  grids := k.grids.trans h.grids
  traps c r hr := k.traps c r (h.traps c r hr)
  grps z hz := by
    obtain ⟨y, hy, hyz⟩ := k.grps z hz
    obtain ⟨x, hx, hxy⟩ := h.grps y hy
    exact ⟨x, hx, hxy.trans hyz⟩

theorem State.Stays.trans {s t u : State} (h : s.Stays t) (k : t.Stays u) : s.Stays u :=
  ⟨h.toWanes.trans k.toWanes, k.ids.trans h.ids⟩

/-- The last of two steps first. -/
theorem State.Stays.after {s t u : State} (k : t.Stays u) (h : s.Stays t) : s.Stays u := h.trans k

/-- Groups, grids and contexts as they were. -/
theorem State.Stays.of_eq {s t : State} (hg : t.groups = s.groups) (hk : t.grids = s.grids) (hc : t.ctxs = s.ctxs) : s.Stays t where
  grids := hk
  traps c r hr := by
    rw [State.ctxD, State.ctx?, hc]
    exact hr
  grps y hy := ⟨y, hg ▸ hy, .refl y⟩
  ids := by rw [hg]

theorem State.Stays.refl (s : State) : s.Stays s := .of_eq rfl rfl rfl

theorem stays_setCore (s : State) (c : Nat) (x : Core) : s.Stays (s.setCore c x) := .of_eq rfl rfl rfl

theorem stays_cores (s : State) (cs : Vector Core 192) : s.Stays { s with cores := cs } := .of_eq rfl rfl rfl

theorem stays_nextId (s : State) (n : Nat) : s.Stays { s with nextId := n } := .of_eq rfl rfl rfl

theorem stays_setTeam (s : State) (t : Team) : s.Stays (s.setTeam t) := .of_eq rfl rfl rfl

theorem State.Stays.of_aside {s t : State} (h : s.SameAside t) : s.Stays t := by
  obtain ⟨-, hg, hk, hc, -⟩ := h
  exact .of_eq hg hk hc

/-- A run of steps each of which leaves groups, grids and records. -/
theorem stays_foldl {α : Type} {f : State → α → State} (h : ∀ (s : State) x, s.Stays (f s x)) (xs : List α) (s : State) :
    s.Stays (xs.foldl f s) := by
  induction xs generalizing s with
  | nil => exact .refl s
  | cons x xs ih => exact (h s x).trans (ih (f s x))

theorem State.grp?_mem {s : State} {n : Nat} {g : Group} (h : s.grp? n = some g) : g ∈ s.groups := List.mem_of_find?_eq_some h

theorem State.mem_setGrp {s : State} {g y : Group} (h : y ∈ (s.setGrp g).groups) : y = g ∨ y ∈ s.groups := by
  obtain ⟨x, hx, rfl⟩ := List.mem_map.1 h
  split
  · exact .inl rfl
  · exact .inr hx

theorem State.setGrp_ids (s : State) (g : Group) : (s.setGrp g).groups.map (·.id) = s.groups.map (·.id) := by
  rw [State.setGrp, List.map_map]
  refine List.map_congr_left fun x _ => ?_
  dsimp only [Function.comp]
  split
  · rename_i h
    exact h.symm
  · rfl

/-- A group of the state is replaced by one that keeps what it has. -/
theorem stays_setGrp {s : State} {g g' : Group} (h : g ∈ s.groups) (k : g.Kept g') : s.Stays (s.setGrp g') where
  grids := rfl
  traps _ _ hr := hr
  grps y hy := by
    rcases State.mem_setGrp hy with rfl | hy
    · exact ⟨g, h, k⟩
    · exact ⟨y, hy, .refl y⟩
  ids := State.setGrp_ids s g'

theorem stays_modGrp (s : State) (gid : Nat) {f : Group → Group} (h : ∀ g : Group, g.Kept (f g)) : s.Stays (s.modGrp gid f) := by
  unfold State.modGrp
  split
  · rename_i g hg
    exact stays_setGrp (State.grp?_mem hg) (h g)
  · exact .refl s

/-! ### Contexts -/

theorem State.ctxD_id (s : State) (n : Nat) : (s.ctxD n).id = n := by
  unfold State.ctxD State.ctx?
  cases h : s.ctxs.find? (·.id == n) with
  | none => rfl
  | some c => simpa using List.find?_some h

/-- A context reads back as it was set, and every other one as before. -/
theorem State.ctxD_setCtx (s : State) (c : Ctx) (n : Nat) : (s.setCtx c).ctxD n = if n = c.id then c else s.ctxD n := by
  unfold State.setCtx State.ctxD State.ctx?
  dsimp only
  by_cases hn : n = c.id
  · subst hn
    rw [if_pos rfl]
    split
    · rename_i hany
      obtain ⟨x, hx, hxid⟩ := List.any_eq_true.1 hany
      rw [find?_map_put Ctx.id c]
      cases hf : s.ctxs.find? (·.id == c.id) with
      | none => exact absurd hxid (by simpa using List.find?_eq_none.1 hf x hx)
      | some y => rfl
    · rename_i hany
      have hnone : s.ctxs.find? (·.id == c.id) = none := by
        refine List.find?_eq_none.2 fun x hx hxid => hany (List.any_eq_true.2 ⟨x, hx, hxid⟩)
      simp [List.find?_append, hnone]
  · rw [if_neg hn]
    split
    · rw [find?_map_other Ctx.id c n hn]
    · simp [List.find?_append, Ne.symm hn]

/-- A context's list of trap records grows. -/
theorem stays_record (s : State) (n : Nat) (rs : List TrapRec) :
    s.Stays (s.setCtx { s.ctxD n with traps := (s.ctxD n).traps ++ rs }) where
  grids := rfl
  traps c r hr := by
    rw [State.ctxD_setCtx]
    split
    · rename_i hc
      rw [State.ctxD_id] at hc
      subst hc
      exact List.mem_append_left _ hr
    · exact hr
  grps y hy := ⟨y, hy, .refl y⟩
  ids := rfl

/-! ### Lines, copies and their write-backs -/

theorem stays_send (s : State) (r : Req) : s.Stays (s.send r) := by
  unfold State.send
  split <;> exact .of_eq rfl rfl rfl

theorem stays_sendBack (s : State) (src die a n cls : Nat) (who : Who) (cells : List Host.Cell) :
    s.Stays (s.sendBack src die a n cls who cells) := by
  unfold State.sendBack
  split
  · exact .refl s
  · exact (stays_send ..).after (.of_eq rfl rfl rfl)

theorem stays_atSpiral (s : State) (q : Nat) (r : Req) : s.Stays (s.atSpiral q r) := by
  unfold State.atSpiral
  dsimp only
  split <;> exact .of_eq rfl rfl rfl

theorem stays_lineBack (s : State) (core : Nat) (l : Line) : s.Stays (s.lineBack core l) := by
  unfold State.lineBack
  split
  · exact .refl s
  · split
    · exact (stays_atSpiral ..).after (.of_eq rfl rfl rfl)
    · exact stays_sendBack ..

/-- Fills cancelled change the queues of some groups. -/
theorem cancelFills_groups (s : State) (hit : Nat → Bool) (a n : Nat) :
    ∃ f : Group → List Entry, (s.cancelFills hit a n).groups = s.groups.map fun g => { g with obq := f g } := by
  unfold State.cancelFills
  dsimp only
  generalize (fun e : Entry => if e.stage == .filling && _ then { e with stage := .queued } else e) = ent
  refine ⟨fun g => if hit g.core && g.obq.any (·.stage == .filling) then g.obq.map ent else g.obq, List.map_congr_left fun g _ => ?_⟩
  dsimp only
  split <;> rfl

theorem stays_cancelFills (s : State) (hit : Nat → Bool) (a n : Nat) : s.Stays (s.cancelFills hit a n) := by
  obtain ⟨f, hf⟩ := cancelFills_groups s hit a n
  exact {
    grids := rfl
    traps := fun _ _ hr => hr
    grps := fun y hy => by
      rw [hf] at hy
      obtain ⟨x, hx, rfl⟩ := List.mem_map.1 hy
      exact ⟨x, hx, ⟨rfl, rfl, rfl, rfl, rfl, rfl, rfl, rfl, rfl, rfl⟩⟩
    ids := by rw [hf, List.map_map]; rfl }

theorem stays_wbLine (s : State) (core a : Nat) (drop : Bool) : s.Stays (s.wbLine core a drop) := by
  unfold State.wbLine
  split
  · exact .refl s
  · split
    · exact .refl s
    · rename_i l _ _
      dsimp only
      refine (stays_lineBack s core l).trans ?_
      split
      · exact (stays_cancelFills ..).after (.of_eq rfl rfl rfl)
      · exact .of_eq rfl rfl rfl

theorem stays_dropCopy (s : State) (q tile : Nat) : s.Stays (s.dropCopy q tile) := by
  unfold State.dropCopy
  split
  · exact .refl s
  · split
    · exact .refl s
    · exact (stays_sendBack ..).trans (.of_eq rfl rfl rfl)

theorem stays_cleanCopy (s : State) (q tile : Nat) : s.Stays (s.cleanCopy q tile) := by
  unfold State.cleanCopy
  split
  · exact .refl s
  · split
    · exact .refl s
    · exact (stays_sendBack ..).trans (.of_eq rfl rfl rfl)

theorem stays_cleanRuns (s : State) (cores : Nat → Bool) (ps : List (Nat × Nat)) : s.Stays (s.cleanRuns cores ps) := by
  unfold State.cleanRuns
  dsimp only
  refine (stays_foldl (fun s q => ?_) _ _).after (stays_foldl (fun s c => ?_) _ s)
  · exact stays_foldl (fun s (t : Tile) => stays_cleanCopy s q t.addr) _ s
  · split
    · exact .refl s
    · exact stays_foldl (fun s (l : Line) => stays_wbLine s c l.addr false) _ s

theorem stays_acqSysDrop (s : State) (core : Nat) : s.Stays (s.acqSysDrop core) := by
  unfold State.acqSysDrop
  dsimp only
  refine (stays_cancelFills ..).after ((stays_foldl (fun s t => ?_) _ _).after (stays_foldl (fun s l => ?_) _ s))
  · exact stays_dropCopy ..
  · exact stays_wbLine ..

theorem stays_endCopyResv (s : State) (q tile : Nat) : s.Stays (s.endCopyResv q tile) := by
  unfold State.endCopyResv
  exact .of_eq rfl rfl rfl

theorem stays_killResv (s : State) (l : Loc) (n hp cr g lane : Nat) (own : Bool) : s.Stays (s.killResv l n hp cr g lane own) :=
  .of_aside (killResv_aside ..)

theorem stays_dropAll (s : State) (cores quads : Nat → Bool) (a n : Nat) : s.Stays (s.dropAll cores quads a n) := by
  unfold State.dropAll
  dsimp only
  refine (stays_cancelFills ..).after (State.Stays.trans (stays_foldl (fun s x => ?_) _ s) (.of_eq rfl rfl rfl))
  exact stays_endCopyResv s x.1 x.2

/-! ### Entries performed -/

theorem stays_tryAcq (s : State) (gid uid : Nat) : s.Stays (s.tryAcq gid uid) := by
  unfold State.tryAcq
  split
  · exact .refl s
  · rename_i g hg
    split
    · exact .refl s
    · rename_i e _
      split
      · exact .refl s
      · split
        · exact stays_setGrp (State.grp?_mem hg) ⟨rfl, rfl, rfl, rfl, rfl, rfl, rfl, rfl, rfl, rfl⟩
        · split
          · exact .refl s
          · dsimp only
            have hdrop : s.Stays (if e.acq = 5 then s.acqSysDrop g.core else s) := by
              split
              · exact stays_acqSysDrop s g.core
              · exact .refl s
            generalize (if e.acq = 5 then s.acqSysDrop g.core else s) = u at hdrop ⊢
            split
            · exact hdrop
            · refine (stays_modGrp _ gid fun g => ?_).after hdrop
              exact ⟨rfl, rfl, rfl, rfl, rfl, rfl, rfl, rfl, rfl, rfl⟩

theorem stays_perform (s : State) (gid uid val : Nat) : s.Stays (s.perform gid uid val) := by
  unfold State.perform
  exact (stays_tryAcq ..).after (stays_modGrp s gid fun _ => ⟨rfl, rfl, rfl, rfl, rfl, rfl, rfl, rfl, rfl, rfl⟩)

theorem stays_prune (s : State) (gid : Nat) : s.Stays (s.prune gid) := by
  unfold State.prune
  exact stays_modGrp s gid fun _ => ⟨rfl, rfl, rfl, rfl, rfl, rfl, rfl, rfl, rfl, rfl⟩

theorem stays_addPend (s : State) (gid : Nat) (p : Pend) : s.Stays (s.addPend gid p) := by
  unfold State.addPend
  split
  · exact .refl s
  · rename_i g hg
    exact stays_setGrp (State.grp?_mem hg) ⟨rfl, rfl, rfl, rfl, rfl, rfl, rfl, rfl, rfl, rfl⟩

/-! ### Traps -/

theorem stays_putTrap {s : State} {g : Group} (h : g ∈ s.groups) (t : TrapSt) : s.Stays (s.putTrap g t) := by
  unfold State.putTrap
  dsimp only
  refine (stays_record ..).after ?_
  exact State.Stays.trans (stays_setGrp h (g' := { g with trapc := t.trapc, trap := some { t with delivered := true } })
    ⟨rfl, rfl, rfl, rfl, rfl, rfl, rfl, rfl, rfl, rfl⟩) (.of_eq rfl rfl rfl)

theorem stays_deliverTrap (s : State) (gid : Nat) : s.Stays (s.deliverTrap gid) := by
  cases h : s.grp? gid with
  | none =>
    rw [State.deliverTrap, h]
    exact .refl s
  | some g =>
    rcases State.deliverTrap_cases h with e | ⟨t, -, e⟩ <;> rw [e]
    · exact .refl s
    · exact stays_putTrap (State.grp?_mem h) t

theorem stays_raiseTrap (s : State) (gid : Nat) (t : TrapSt) : s.Stays (s.raiseTrap gid t) := by
  unfold State.raiseTrap
  split
  · exact .refl s
  · rename_i g hg
    split
    · exact stays_setGrp (State.grp?_mem hg) ⟨rfl, rfl, rfl, rfl, rfl, rfl, rfl, rfl, rfl, rfl⟩
    · exact (stays_deliverTrap ..).after (stays_setGrp (State.grp?_mem hg) ⟨rfl, rfl, rfl, rfl, rfl, rfl, rfl, rfl, rfl, rfl⟩)

/-! ### Banks (09 R194-R207, R212, R213) -/

theorem stays_padWrite (s : State) (team off n v : Nat) : s.Stays (s.padWrite team off n v) := by
  unfold State.padWrite
  split
  · split
    · exact .of_eq rfl rfl rfl
    · exact .refl s
  · exact .refl s

theorem stays_objWrite (s : State) (team off x grp : Nat) : s.Stays (s.objWrite team off x grp) := by
  unfold State.objWrite
  exact (stays_killResv ..).after (stays_padWrite ..)

theorem stays_setGran (s : State) (g : Nat × Nat) (b : Bool) : s.Stays (s.setGran g b) := by
  unfold State.setGran
  split
  · exact .of_eq rfl rfl rfl
  · exact .refl s

theorem stays_grant (s : State) (team off x : Nat) (g : Group) (waiters : Nat) : s.Stays (s.grant team off x g waiters) := by
  unfold State.grant
  dsimp only
  exact (stays_setCore ..).after (stays_objWrite ..)

theorem stays_dropRanges (s : State) (g : Group) (rs : List (Nat × Nat × Bool)) : s.Stays (s.dropRanges g rs) := by
  unfold State.dropRanges
  exact stays_foldl (fun s p => stays_dropAll ..) _ s

theorem stays_unlock (s : State) (g : Group) (team off x : Nat) : s.Stays (s.unlock g team off x) := by
  unfold State.unlock
  exact (stays_objWrite ..).after ((stays_setCore ..).after (stays_dropRanges ..))

theorem stays_cleanRanges (s : State) (g : Group) (rs : List (Nat × Nat × Bool)) : s.Stays (s.cleanRanges g rs) := by
  unfold State.cleanRanges
  exact stays_cleanRuns ..

/-- A bank's check leaves groups, grids and records, whatever it answers. -/
inductive ObjRes.Stays (s : State) : ObjRes → Prop
  | done {t : State} {ws : List Wr} {acq spill : Bool} (h : s.Stays t) : ObjRes.Stays s (.done t ws acq spill)
  | wait {t : State} {op : ObjOp} (h : s.Stays t) : ObjRes.Stays s (.wait t op)
  | trap {t : State} {cause : Nat} (h : s.Stays t) : ObjRes.Stays s (.trap t cause)

theorem ObjRes.Stays.ite {s : State} {p : Prop} [Decidable p] {x y : ObjRes} (hx : x.Stays s) (hy : y.Stays s) :
    (if p then x else y).Stays s := by
  split
  · exact hx
  · exact hy

theorem stays_objTry (s : State) (t : Team) (w : Wt) (g : Group) (n : Nat) : (s.objTry t w g n).Stays s := by
  have waits : ∀ op, (ObjRes.wait s op).Stays s := fun op => .wait (.refl s)
  have traps : ∀ cause, (ObjRes.trap s cause).Stays s := fun op => .trap (.refl s)
  have ends : ∀ ws acq spill, (ObjRes.done s ws acq spill).Stays s := fun ws acq spill => .done (.refl s)
  unfold State.objTry
  cases w.op with
  | barinit exp lock trap => exact .done ((stays_cores ..).after ((stays_setGran ..).after (stays_objWrite ..)))
  | bararv d k =>
    refine .ite (waits _) (.ite (traps _) ?_)
    exact .ite (.done (stays_objWrite ..)) (.done (stays_objWrite ..))
  | barwt d ph budget dead =>
    exact .ite (waits _) (.ite (traps _) (.ite (ends _ _ _) (.ite (waits _) (.ite (ends _ _ _) (waits _)))))
  | barq d clr =>
    refine .ite (waits _) (.done ?_)
    split
    · exact stays_objWrite ..
    · exact .refl s
  | lkacq asked =>
    refine .ite (waits _) (.ite (traps _) (.ite (.done (stays_grant ..)) (.ite (traps _) (.ite (waits _) ?_))))
    exact .wait (stays_objWrite ..)
  | lktry d => exact .ite (waits _) (.ite (traps _) (.ite (.done (stays_grant ..)) (ends _ _ _)))
  | lkrel =>
    refine .ite (waits _) (.ite (traps _) (.ite (.wait ?_) (.ite (.done ?_) (.trap ?_))))
    · exact stays_cleanRanges ..
    · exact stays_unlock ..
    · exact stays_dropRanges ..
  | grset list => exact .ite (waits _) (.ite (traps _) (.ite (traps _) (.done (stays_objWrite ..))))
  | chsend data =>
    refine .ite (waits _) (.ite (traps _) (.ite (traps _) (.ite (waits _) (.ite (traps _) (.done ?_)))))
    refine (stays_modGrp _ _ fun g => ?_).after ((stays_nextId ..).after (stays_objWrite ..))
    exact ⟨rfl, rfl, rfl, rfl, rfl, rfl, rfl, rfl, rfl, rfl⟩
  | chrecv d slot =>
    refine .ite (waits _) (.ite (traps _) (.ite (traps _) ?_))
    have recv : ∀ u : State, s.Stays u → ∀ base, s.Stays ((List.range 32).foldl (fun s k => s.setGran (t.id, base / 16 + k) false) u) :=
      fun u hu base => (stays_foldl (fun s k => stays_setGran ..) _ u).after hu
    dsimp only
    split
    · exact waits _
    · rename_i u j hclaim
      have hu : s.Stays u := by
        cases slot with
        | some j => cases hclaim; exact .refl s
        | none =>
          dsimp only at hclaim
          split at hclaim
          · cases hclaim
          · cases hclaim; exact stays_objWrite ..
      exact .ite (.done (recv u hu _)) (.wait hu)

theorem stays_objPerformed (s : State) (w : Wt) (team : Nat) (acq : Bool) : s.Stays (s.objPerformed w team acq) := by
  unfold State.objPerformed
  refine (stays_perform ..).after ((stays_modGrp _ _ fun g => ?_).after (stays_nextId s (s.nextId + 1)))
  exact ⟨rfl, rfl, rfl, rfl, rfl, rfl, rfl, rfl, rfl, rfl⟩

theorem stays_bankTrap (s : State) (w : Wt) (cause : Nat) (after : Bool) : s.Stays (s.bankTrap w cause after) := by
  unfold State.bankTrap
  split
  · exact .refl s
  · rename_i g hg
    refine (stays_raiseTrap ..).after (stays_setGrp (State.grp?_mem hg) ?_)
    exact ⟨rfl, rfl, rfl, rfl, rfl, rfl, rfl, rfl, rfl, rfl⟩

theorem Group.release_kept (g : Group) (id : Nat) (next : W32) : g.Kept (g.release id next) := by
  unfold Group.release
  exact ⟨rfl, rfl, rfl, rfl, rfl, rfl, rfl, rfl, rfl, rfl⟩

theorem stays_objAfter (s : State) (w : Wt) (wrs : List Wr) (spill : Bool) : s.Stays (s.objAfter w wrs spill) := by
  unfold State.objAfter
  have hres : s.Stays (if wrs.isEmpty then s else s.addPend w.grp ⟨none, [], wrs⟩) := by
    split
    · exact .refl s
    · exact stays_addPend ..
  dsimp only
  split
  · exact (stays_bankTrap ..).after hres
  · exact (stays_modGrp _ _ fun g => g.release_kept _ _).after hres

/-- A waiter leaves its bank. -/
theorem stays_leaveBank (s : State) (team : Nat) (f : Team → Team) :
    s.Stays (match s.team? team with
      | some t => s.setTeam (f t)
      | none => s) := by
  split
  · exact stays_setTeam ..
  · exact .refl s

theorem stays_bankPass (ws : List Wt) (s : State) (team : Nat) : s.Stays (bankPass s team ws) := by
  induction ws generalizing s with
  | nil => exact .refl s
  | cons w ws ih =>
    unfold bankPass
    split
    · rename_i t g _ _
      split
      · exact ih s
      · have htry := stays_objTry s t w g (t.askers w.off w.id)
        dsimp only
        split
        · rename_i u wrs acq spill hu
          rw [hu] at htry
          cases htry with
          | done h => exact (ih _).after ((stays_objAfter ..).after ((stays_objPerformed ..).after ((stays_leaveBank ..).after h)))
        · rename_i u op hu
          rw [hu] at htry
          cases htry with
          | wait h => exact (ih _).after ((stays_leaveBank ..).after h)
        · rename_i u cause hu
          rw [hu] at htry
          cases htry with
          | trap h => exact (ih _).after ((stays_bankTrap ..).after ((stays_leaveBank ..).after h))
    · exact ih s

theorem stays_bankRun (n : Nat) (s : State) (team : Nat) : s.Stays (bankRun s team n) := by
  induction n generalizing s with
  | zero => exact .refl s
  | succ n ih =>
    unfold bankRun
    split
    · exact .refl s
    · rename_i t _
      split
      · exact .refl s
      · have hpass := stays_bankPass t.bankq s team
        dsimp only
        split
        · split
          · exact (ih _).after hpass
          · exact hpass
        · exact hpass

theorem stays_bank (s : State) (team : Nat) : s.Stays (s.bank team) := stays_bankRun ..

end Sys2Proof.Machine
end

section
/-! SUPPORT. Ends: what the end of a group and of a grid leave of other groups, grids and trap records (03 R65, R73, R74, 12 R269). -/

namespace Sys2Proof.Machine

open Sys2Proof

/-! ### Drydown (03 R74) -/

theorem stays_leaveSlot (s : State) (core slot : Nat) : s.Stays (s.leaveSlot core slot) := by
  unfold State.leaveSlot
  split
  · exact .refl s
  · exact stays_setCore ..

theorem stays_takeEntry (s : State) (core : Nat) : s.Stays (s.takeEntry core) := by
  unfold State.takeEntry
  split
  · exact .refl s
  · split
    · exact .refl s
    · rename_i g hg
      refine (stays_leaveSlot ..).after (stays_setGrp (List.mem_of_find?_eq_some hg) ?_)
      exact ⟨rfl, rfl, rfl, rfl, rfl, rfl, rfl, rfl, rfl, rfl⟩

theorem wanes_dropGroup (s : State) (g : Group) : s.Wanes (s.dropGroup g) := by
  have hdrop : s.Wanes { s with groups := s.groups.filter (·.id != g.id) } :=
    { grids := rfl
      traps := fun _ _ hr => hr
      grps := fun y hy => ⟨y, (List.mem_filter.1 hy).1, .refl y⟩ }
  unfold State.dropGroup
  dsimp only
  split
  · exact hdrop.trans (stays_leaveSlot ..).toWanes
  · exact hdrop.trans (stays_takeEntry ..).toWanes

theorem stays_releaseLock (s : State) (g : Group) (h : Held) : s.Stays (s.releaseLock g h) := by
  have hcopies := (stays_setCore _ g.core { (s.dropRanges g h.ranges).core g.core with
    held := ((s.dropRanges g h.ranges).core g.core).held.filter fun x => !(x.grp == h.grp && x.off == h.off) }).after
    (stays_dropRanges s g h.ranges)
  unfold State.releaseLock
  dsimp only
  split
  · split
    · exact (stays_bank ..).after (stays_unlock ..)
    · exact hcopies
  · exact hcopies

theorem stays_releaseLocks (s : State) (g : Group) : s.Stays (s.releaseLocks g) := by
  unfold State.releaseLocks
  exact stays_foldl (fun s h => stays_releaseLock ..) _ s

theorem wanes_drydown (s : State) (gid : Nat) : s.Wanes (s.drydown gid) := by
  have hprune := stays_prune s gid
  unfold State.drydown
  split
  · exact (State.Stays.refl s).toWanes
  · split
    · exact (State.Stays.refl s).toWanes
    · dsimp only
      split
      · exact hprune.toWanes
      · rename_i g _
        split
        · exact hprune.toWanes
        · split
          · exact ((stays_cleanRanges ..).after hprune).toWanes
          · have hlocks := (stays_releaseLocks _ g).after hprune
            split
            · exact hlocks.toWanes.trans (wanes_dropGroup ..)
            · exact ((stays_takeEntry ..).after hlocks).toWanes

/-! ### What goes before it (03 R73) -/

theorem stays_dropPriv (s : State) (g : Group) : s.Stays (s.dropPriv g) := by
  unfold State.dropPriv
  dsimp only
  split
  · exact .refl s
  · exact stays_setCore ..

theorem stays_exitLanes (s : State) (gid : Nat) (m : Mask) : s.Stays (s.exitLanes gid m) := by
  unfold State.exitLanes
  split
  · exact .refl s
  · rename_i g hg
    refine (stays_dropPriv ..).after (State.Stays.after (stays_setGrp (g := g) (State.grp?_mem hg) ?_) (stays_setCore ..))
    exact ⟨rfl, rfl, rfl, rfl, rfl, rfl, rfl, rfl, rfl, rfl⟩

theorem stays_withdraw (s : State) (gid : Nat) : s.Stays (s.withdraw gid) := by
  unfold State.withdraw
  refine (stays_foldl (fun s t => ?_) _ _).after (stays_modGrp s gid fun g => ⟨rfl, rfl, rfl, rfl, rfl, rfl, rfl, rfl, rfl, rfl⟩)
  dsimp only
  split
  · exact .refl s
  · refine (stays_foldl (fun s w => ?_) _ _).after (stays_setTeam ..)
    split
    · exact stays_objWrite ..
    · exact .refl s

theorem stays_engines (s : State) (es : Vector Engine 48) (sv : List Saved) : s.Stays { s with engines := es, saved := sv } :=
  .of_eq rfl rfl rfl

theorem stays_teamEnd (s : State) (t : Team) (bad : Bool) : s.Stays (s.teamEnd t bad) := by
  unfold State.teamEnd
  dsimp only
  split
  · exact stays_setTeam ..
  · exact (stays_engines ..).after ((stays_setTeam ..).after (stays_setTeam ..))

theorem stays_dies (s : State) (ds : Vector Die 4) : s.Stays { s with dies := ds } := .of_eq rfl rfl rfl

/-! ### The end of a group -/

/-- Group gid has ended, well or by force, or is gone; grids stand, trap records stay listed, and every other group is one that was there. -/
structure State.Ends (gid : Nat) (good : Bool) (s t : State) : Prop where
  grids  : t.grids = s.grids
  traps  : ∀ c, ∀ r ∈ (s.ctxD c).traps, r ∈ (t.ctxD c).traps
  ended  : ∀ y ∈ t.groups, y.id = gid → y.res = .draining ∧ y.ended = some good
  others : ∀ y ∈ t.groups, y.id ≠ gid → ∃ x ∈ s.groups, x.Kept y

theorem State.Ends.after_stays {gid : Nat} {good : Bool} {s t u : State} (k : State.Ends gid good t u) (h : s.Stays t) :
    State.Ends gid good s u where
  grids := k.grids.trans h.grids
  traps c r hr := k.traps c r (h.traps c r hr)
  ended := k.ended
  others y hy hn := by
    obtain ⟨x, hx, hxy⟩ := k.others y hy hn
    obtain ⟨w, hw, hwx⟩ := h.grps x hx
    exact ⟨w, hw, hwx.trans hxy⟩

theorem State.Ends.wanes {gid : Nat} {good : Bool} {s t u : State} (h : State.Ends gid good s t) (k : t.Wanes u) :
    State.Ends gid good s u where
  grids := k.grids.trans h.grids
  traps c r hr := k.traps c r (h.traps c r hr)
  ended y hy hid := by
    obtain ⟨x, hx, hxy⟩ := k.grps y hy
    rw [hxy.res, hxy.ended]
    exact h.ended x hx (hxy.id.symm.trans hid)
  others y hy hn := by
    obtain ⟨x, hx, hxy⟩ := k.grps y hy
    obtain ⟨w, hw, hwx⟩ := h.others x hx fun e => hn (hxy.id.trans e)
    exact ⟨w, hw, hwx.trans hxy⟩

/-- A group that is not there has ended. -/
theorem State.Ends.of_gone {s : State} {gid : Nat} (good : Bool) (h : s.grp? gid = none) : State.Ends gid good s s where
  grids := rfl
  traps _ _ hr := hr
  ended y hy hid := absurd (beq_iff_eq.2 hid) (List.find?_eq_none.1 h y hy)
  others y hy _ := ⟨y, hy, .refl y⟩

theorem ends_modGrp (s : State) (gid : Nat) (good : Bool) {f : Group → Group}
    (hf : ∀ g : Group, (f g).id = g.id ∧ (f g).res = .draining ∧ (f g).ended = some good) : State.Ends gid good s (s.modGrp gid f) := by
  unfold State.modGrp
  split
  · rename_i g hg
    obtain ⟨hid, hres, hended⟩ := hf g
    have hgid : (f g).id = gid := hid.trans (State.grp?_id s hg)
    exact {
      grids := rfl
      traps := fun _ _ hr => hr
      ended := fun y hy hy' => by
        obtain ⟨x, hx, rfl⟩ := List.mem_map.1 hy
        split
        · exact ⟨hres, hended⟩
        · rename_i hne
          rw [if_neg hne] at hy'
          exact absurd (hy'.trans hgid.symm) hne
      others := fun y hy hn => by
        rcases State.mem_setGrp hy with rfl | hy
        · exact absurd hgid hn
        · exact ⟨y, hy, .refl y⟩ }
  · rename_i hg
    exact .of_gone good hg

/-- A resident group that ends with room in the tracker gives its slot up. -/
theorem stays_endedSlot (s : State) (core slot : Nat) (p : Bool) : s.Stays (if p then s.leaveSlot core slot else s) := by
  split
  · exact stays_leaveSlot ..
  · exact .refl s

/-- The team of an ended group counts it. -/
theorem stays_endedTeam (s : State) (team : Nat) (bad : Bool) :
    s.Stays (match s.team? team with
      | some t => s.teamEnd t bad
      | none => s) := by
  split
  · exact stays_teamEnd ..
  · exact .refl s

theorem ends_endGroup (s : State) (gid : Nat) (good : Bool) : State.Ends gid good s (s.endGroup gid good) := by
  unfold State.endGroup
  split
  · rename_i hg
    exact .of_gone good hg
  · rename_i g0 hg0
    dsimp only
    have hbefore := (stays_withdraw _ gid).after (stays_exitLanes s gid (BitVec.allOnes 128))
    refine State.Ends.wanes ?_ (wanes_drydown ..)
    refine State.Ends.wanes ?_ (stays_endedTeam ..).toWanes
    refine State.Ends.wanes ?_ (stays_dies ..).toWanes
    refine State.Ends.wanes ?_ (stays_setCore ..).toWanes
    refine State.Ends.wanes ?_ (stays_endedSlot ..).toWanes
    refine State.Ends.after_stays ?_ hbefore
    exact ends_modGrp _ gid good fun g => ⟨rfl, rfl, rfl⟩

end Sys2Proof.Machine
end

section
/-! SUPPORT. The end of a grid, and the records of groups not taken (03 R65, 12 R271). -/

namespace Sys2Proof.Machine

open Sys2Proof

/-! ### The end of a grid (03 R65) -/

/-- Of several groups that end in turn, each has ended and every other one is one that was there. -/
theorem ends_endGroups (ns : List Nat) (s : State) :
    (ns.foldl (fun s n => s.endGroup n false) s).grids = s.grids ∧
    (∀ c, ∀ r ∈ (s.ctxD c).traps, r ∈ ((ns.foldl (fun s n => s.endGroup n false) s).ctxD c).traps) ∧
    ∀ y ∈ (ns.foldl (fun s n => s.endGroup n false) s).groups,
      (y.id ∈ ns → y.res = .draining) ∧ (y.id ∉ ns → ∃ x ∈ s.groups, x.Kept y) := by
  induction ns generalizing s with
  | nil => exact ⟨rfl, fun _ _ hr => hr, fun y hy => ⟨fun h => absurd h List.not_mem_nil, fun _ => ⟨y, hy, .refl y⟩⟩⟩
  | cons n ns ih =>
    obtain ⟨hgrids, htraps, hgrps⟩ := ih (s.endGroup n false)
    have hn := ends_endGroup s n false
    refine ⟨hgrids.trans hn.grids, fun c r hr => htraps c r (hn.traps c r hr), fun y hy => ?_⟩
    obtain ⟨hin, hout⟩ := hgrps y hy
    by_cases hmem : y.id ∈ ns
    · exact ⟨fun _ => hin hmem, fun h => absurd (List.mem_cons_of_mem n hmem) h⟩
    · obtain ⟨x, hx, hxy⟩ := hout hmem
      refine ⟨fun h => ?_, fun h => ?_⟩
      · have hxn : x.id = n := hxy.id.symm.trans ((List.mem_cons.1 h).resolve_right hmem)
        rw [hxy.res, (hn.ended x hx hxn).1]
      · obtain ⟨w, hw, hwx⟩ := hn.others x hx fun e => h (List.mem_cons.2 (.inl (hxy.id.trans e)))
        exact ⟨w, hw, hwx.trans hxy⟩

theorem State.grid?_id {s : State} {n : Nat} {k : Grid} (h : s.grid? n = some k) : k.id = n := by
  simpa using List.find?_some h

theorem State.grid?_setGrid_of {s : State} {n : Nat} {k k' : Grid} (h : s.grid? n = some k) (e : k'.id = n) :
    (s.setGrid k').grid? n = some k' := by
  subst e
  simp only [State.grid?, State.setGrid] at *
  rw [find?_map_put Grid.id k', h]
  rfl

/-- A grid as its first ending leaves it. -/
def Grid.endedWith (k : Grid) (status fcode : Nat) (ffa : W64) : Grid := { k with ending := some (status, fcode), ffa := ffa, wait := none }

/-- The groups of a grid that have not ended. -/
def State.running (s : State) (n : Nat) : List Nat :=
  (s.groups.filter fun g => g.res != .draining && (s.team? g.team).map (·.grid) == some n).map (·.id)

theorem mem_running {s : State} {n : Nat} {g : Group} (hg : g ∈ s.groups) (hres : g.res ≠ .draining)
    (hteam : (s.team? g.team).map (·.grid) = some n) : g.id ∈ s.running n := by
  refine List.mem_map.2 ⟨g, List.mem_filter.2 ⟨hg, ?_⟩, rfl⟩
  rw [hteam]
  simpa using hres

/-- The first end of a grid ends each of its groups by force. -/
theorem endGrid_eq {s : State} {n : Nat} {k : Grid} (h : s.grid? n = some k) (hk : k.ending = none) (status fcode : Nat) (ffa : W64) :
    s.endGrid n status fcode ffa =
      (s.running n).foldl (fun s g => s.endGroup g false) (s.setGrid (k.endedWith status fcode ffa)) := by
  unfold State.endGrid
  rw [h]
  dsimp only
  rw [if_neg (by simp [hk])]
  simp only [hk, Option.none_or, Option.isSome_none, Bool.false_eq_true, if_false]
  rfl

/-- A grid that has not ended ends as it is told, trap records stay listed, and its groups drain or are gone. -/
theorem endGrid_spec {s : State} {n : Nat} {k : Grid} (h : s.grid? n = some k) (hk : k.ending = none) (status fcode : Nat) (ffa : W64) :
    (∃ k', (s.endGrid n status fcode ffa).grid? n = some k' ∧ k'.ending = some (status, fcode)) ∧
    (∀ c, ∀ r ∈ (s.ctxD c).traps, r ∈ ((s.endGrid n status fcode ffa).ctxD c).traps) ∧
    ∀ y ∈ (s.endGrid n status fcode ffa).groups, y.id ∈ s.running n → y.res = .draining := by
  rw [endGrid_eq h hk]
  obtain ⟨hgrids, htraps, hgrps⟩ := ends_endGroups (s.running n) (s.setGrid (k.endedWith status fcode ffa))
  refine ⟨⟨k.endedWith status fcode ffa, ?_, rfl⟩, htraps, fun y hy => (hgrps y hy).1⟩
  rw [State.grid?, hgrids]
  exact State.grid?_setGrid_of h (show k.id = n from State.grid?_id h)

/-! ### Records of groups not taken (03 R65, 12 R271) -/

theorem State.grpCtx_congr {s t : State} (ht : t.teams = s.teams) (hk : t.grids = s.grids) (g : Group) : t.grpCtx g = s.grpCtx g := by
  simp only [State.grpCtx, State.grpGrid?, State.team?, State.grid?, ht, hk]

theorem State.grpCtx_of_grid {s : State} {g : Group} {k : Grid} (h : s.grpGrid? g = some k) : s.grpCtx g = k.ctx := by
  rw [State.grpCtx, h]
  rfl

theorem record_listed (s : State) (n : Nat) (r : TrapRec) :
    r ∈ ((s.setCtx { s.ctxD n with traps := (s.ctxD n).traps ++ [r] }).ctxD n).traps := by
  rw [State.ctxD_setCtx, if_pos (State.ctxD_id s n).symm]
  exact List.mem_append_right _ (List.mem_singleton_self r)

/-- A record that takes no resolution, of a group and a cause. -/
def NotedFor (gid cause : Nat) (r : TrapRec) : Prop := r.grp = gid ∧ r.cause = cause ∧ r.resolved = true

/-- The record of a group is listed in its context; nothing else but the free values drawn changes. -/
theorem noteTrap_spec (s : State) (g : Group) (cause : Nat) :
    s.Stays (s.noteTrap g cause) ∧ (s.noteTrap g cause).groups = s.groups ∧ (s.noteTrap g cause).teams = s.teams ∧
      ∃ r ∈ ((s.noteTrap g cause).ctxD (s.grpCtx g)).traps, NotedFor g.id cause r := by
  unfold State.noteTrap
  refine ⟨(stays_record ..).after (.of_eq rfl rfl rfl), rfl, rfl, ?_⟩
  exact ⟨_, record_listed .., rfl, rfl, rfl⟩

/-- Each of several groups noted has its record. -/
theorem noteTraps_spec (gs : List Group) (cause : Nat) (s : State) :
    s.Stays (gs.foldl (fun s g => s.noteTrap g cause) s) ∧ (gs.foldl (fun s g => s.noteTrap g cause) s).groups = s.groups ∧
      (gs.foldl (fun s g => s.noteTrap g cause) s).teams = s.teams ∧
      ∀ g ∈ gs, ∃ r ∈ ((gs.foldl (fun s g => s.noteTrap g cause) s).ctxD (s.grpCtx g)).traps, NotedFor g.id cause r := by
  induction gs generalizing s with
  | nil => exact ⟨.refl s, rfl, rfl, fun g hg => absurd hg List.not_mem_nil⟩
  | cons x gs ih =>
    obtain ⟨hstay, hgroups, hteams, r, hr, hnoted⟩ := noteTrap_spec s x cause
    obtain ⟨hstay', hgroups', hteams', hrec⟩ := ih (s.noteTrap x cause)
    refine ⟨hstay.trans hstay', hgroups'.trans hgroups, hteams'.trans hteams, fun g hg => ?_⟩
    rcases List.mem_cons.1 hg with rfl | hg
    · exact ⟨r, hstay'.traps _ r hr, hnoted⟩
    · rw [← State.grpCtx_congr hteams hstay.grids g]
      exact hrec g hg

/-- A group's grid is its team's. -/
theorem State.grpGrid?_some {s : State} {g : Group} {k : Grid} (h : s.grpGrid? g = some k) :
    s.grid? k.id = some k ∧ (s.team? g.team).map (·.grid) = some k.id := by
  rw [State.grpGrid?, Option.bind_eq_some_iff] at h
  obtain ⟨t, ht, hk⟩ := h
  have hid := State.grid?_id hk
  rw [hid, ht]
  exact ⟨hk, rfl⟩

/-! ### PREEMPTTIMEOUT (03 R65) -/

theorem State.untaken_resident {s : State} {g : Group} (h : s.untaken g = true) : g.res = .resident := by
  unfold State.untaken at h
  simp only [Bool.and_eq_true, beq_iff_eq] at h
  exact h.1.1

/-- After 1 ms the grid ends, the group not taken has its record, and it drains or is gone. -/
theorem endUntaken_spec {s : State} {gid x : Nat} {g : Group} {k : Grid} (hg : s.grp? gid = some g) (hpre : g.preempt = some x)
    (hgrid : s.grpGrid? g = some k) (hlate : x + 1050000 < s.now g) (hun : s.untaken g = true) (hk : k.ending = none) :
    (∃ k', (s.endUntaken gid).grid? k.id = some k' ∧ k'.ending = some (7, 0)) ∧
    (∃ r ∈ ((s.endUntaken gid).ctxD k.ctx).traps, NotedFor gid 0x0C r) ∧
    ∀ y, (s.endUntaken gid).grp? gid = some y → y.res = .draining := by
  have hid := State.grp?_id s hg
  obtain ⟨hgrid', hteam⟩ := State.grpGrid?_some hgrid
  have hmem := State.grp?_mem hg
  have hlist : g ∈ s.groups.filter fun x => s.untaken x && (s.grpGrid? x).map (·.id) == some k.id := by
    refine List.mem_filter.2 ⟨hmem, ?_⟩
    simp [hun, hgrid]
  unfold State.endUntaken
  rw [hg]
  dsimp only
  rw [hpre, hgrid]
  dsimp only
  rw [if_neg (by simp [hun]; omega)]
  obtain ⟨hstay, hgroups, hteams, hrec⟩ := noteTraps_spec
    (s.groups.filter fun x => s.untaken x && (s.grpGrid? x).map (·.id) == some k.id) Cause.preemptTimeout s
  obtain ⟨r, hr, hnoted⟩ := hrec g hlist
  revert hstay hgroups hteams hr
  generalize List.foldl (fun s x => s.noteTrap x Cause.preemptTimeout) s
    (s.groups.filter fun x => s.untaken x && (s.grpGrid? x).map (·.id) == some k.id) = u
  intro hstay hgroups hteams hr
  have hku : u.grid? k.id = some k := by rw [State.grid?, hstay.grids]; exact hgrid'
  obtain ⟨hend, htraps, hgrps⟩ := endGrid_spec hku hk 7 0 0
  rw [State.grpCtx_of_grid hgrid] at hr
  rw [hid] at hnoted
  refine ⟨hend, ⟨r, htraps _ r hr, hnoted⟩, fun y hy => hgrps y (State.grp?_mem hy) ?_⟩
  rw [State.grp?_id _ hy, ← hid]
  refine mem_running (hgroups ▸ hmem) ?_ ?_
  · rw [State.untaken_resident hun]
    decide
  · rw [State.team?, hteams]
    exact hteam

end Sys2Proof.Machine
end

section
/-! SUPPORT. A group that stands still, GANGABORT and DRYDOWN_FREE (03 R63, R74, 12 R271). -/

namespace Sys2Proof.Machine

open Sys2Proof

/-! ### A group that stands still (03 R63) -/

theorem mkLanes_nth {α : Type} (v : Lanes α) : mkLanes (fun l => nth v l) = v := by
  apply Vector.ext
  intro l hl
  simp [mkLanes, nth, Nat.mod_eq_of_lt hl]

theorem mkLanes_congr {α : Type} {f h : Nat → α} (e : ∀ l < 128, f l = h l) : mkLanes f = mkLanes h := by
  apply Vector.ext
  intro l hl
  simpa [mkLanes] using e l hl

theorem maskOf_false {p : Nat → Bool} (h : ∀ l < 128, p l = false) : maskOf p = 0 := by
  apply BitVec.eq_of_getLsbD_eq
  intro l hl
  rw [getLsbD_maskOf p l hl, h l hl]
  simp

theorem Group.flush_of_settled {g : Group} (h : g.pend = []) (t : Nat) : g.flush t = g := by
  cases g
  cases h
  rfl

theorem Group.readyMask_eq_zero {g : Group} (h : ∀ l < 128, nth g.lanes l ≠ .ready) : g.readyMask = 0 := by
  refine maskOf_false fun l hl => ?_
  rw [Bool.eq_false_iff, ne_eq, Lane.isReady_iff]
  exact h l hl

theorem Group.park_of_no_ready {g : Group} (h : ∀ l < 128, nth g.lanes l ≠ .ready) (m : Mask) : g.park m = g := by
  have hlanes : (mkLanes fun l => if m.getLsbD l && (nth g.lanes l).isReady then .parked else nth g.lanes l) = g.lanes := by
    refine (mkLanes_congr fun l hl => if_neg ?_).trans (mkLanes_nth g.lanes)
    rw [Bool.and_eq_true, Lane.isReady_iff]
    exact fun e => h l hl e.2
  unfold Group.park
  rw [hlanes]

/-- Parking changes the lanes of a group and nothing else. -/
theorem State.parkLanes_cases (s : State) (g : Group) : s.parkLanes g = g ∨ ∃ m, s.parkLanes g = g.park m := by
  unfold State.parkLanes
  split
  · exact .inl rfl
  · exact .inr ⟨_, rfl⟩

theorem State.parkLanes_of_no_ready (s : State) {g : Group} (h : ∀ l < 128, nth g.lanes l ≠ .ready) : s.parkLanes g = g := by
  rcases s.parkLanes_cases g with e | ⟨m, e⟩ <;> rw [e]
  exact Group.park_of_no_ready h m

/-- A lane that does not wait is not woken. -/
theorem State.wakeLanes_eq (s : State) (g : Group) : ∃ r : Lanes (Option (Option W32)),
    (∀ l < 128, (nth g.lanes l).isWaiting = false → nth r l = none) ∧
    s.wakeLanes g = { g with lanes := mkLanes fun l => if (nth r l).isSome then .ready else nth g.lanes l,
                             pcv := mkLanes fun l => ((nth r l).bind id).getD (nth g.pcv l),
                             woken := g.woken ||| maskOf fun l => (nth r l).isSome } := by
  refine ⟨_, ?_, rfl⟩
  intro l hl hw
  rw [nth_mkLanes _ _ hl]
  split
  · rename_i hx
    rw [hx] at hw
    cases hw
  · rfl

theorem State.wakeLanes_of_no_waiting (s : State) {g : Group} (h : ∀ l < 128, (nth g.lanes l).isWaiting = false) : s.wakeLanes g = g := by
  obtain ⟨r, hr, e⟩ := s.wakeLanes_eq g
  have hnone : ∀ l < 128, nth r l = none := fun l hl => hr l hl (h l hl)
  have hlanes : (mkLanes fun l => if (nth r l).isSome then .ready else nth g.lanes l) = g.lanes :=
    (mkLanes_congr fun l hl => by rw [hnone l hl]; rfl).trans (mkLanes_nth g.lanes)
  have hpcv : (mkLanes fun l => ((nth r l).bind id).getD (nth g.pcv l)) = g.pcv :=
    (mkLanes_congr fun l hl => by rw [hnone l hl]; rfl).trans (mkLanes_nth g.pcv)
  have hwoken : (maskOf fun l => (nth r l).isSome) = 0 := maskOf_false fun l hl => by rw [hnone l hl]; rfl
  rw [e, hlanes, hpcv, hwoken, show g.woken ||| 0 = g.woken from BitVec.or_zero]

theorem Group.taken_of_no_ready {g : Group} (h : ∀ l < 128, nth g.lanes l ≠ .ready) (ht : g.trap = none) : g.taken = true := by
  rw [Group.taken, ht, Group.readyMask_eq_zero h]
  rfl

/-! ### GANGABORT (12 R271) -/

theorem exec_gangAbort (gid : Nat) (s : State) : exec (.gangAbort gid) s = execGangAbort gid s := rfl

theorem InContext.grpCtx {s : State} {g : Group} {c : Nat} (h : InContext s g c) : s.grpCtx g = c := by
  obtain ⟨t, k, ht, hk, rfl⟩ := h
  simp [State.grpCtx, State.grpGrid?, ht, hk]

theorem execGangAbort_standing {s : State} {gid : Nat} {g : Group} (hg : s.grp? gid = some g) (habort : g.gangAbort = true)
    (hres : g.res = .resident) (hpend : g.pend = []) (htrap : g.trap = none) (hready : ∀ l < 128, nth g.lanes l ≠ .ready) :
    execGangAbort gid s = .next (((s.setGrp g).noteTrap g Cause.gangAbort).endGroup gid false) := by
  unfold execGangAbort
  rw [hg]
  dsimp only
  rw [Group.flush_of_settled hpend, s.parkLanes_of_no_ready hready]
  simp [habort, hres, hpend, Group.taken_of_no_ready hready htrap]

/-- An aborted gang's group that stands still ends by force, with its record. -/
theorem gangAbort_ends {s : State} {gid c : Nat} {g : Group} (hg : s.grp? gid = some g) (habort : g.gangAbort = true)
    (hres : g.res = .resident) (hpend : g.pend = []) (htrap : g.trap = none) (hready : ∀ l < 128, nth g.lanes l ≠ .ready)
    (hctx : InContext s g c) :
    ∃ u r, exec (.gangAbort gid) s = .next u ∧ r ∈ (u.ctxD c).traps ∧ r.grp = gid ∧ r.cause = 0x09 ∧ r.resolved = true ∧
      ∀ y, u.grp? gid = some y → y.res = .draining ∧ y.ended = some false := by
  have hid := State.grp?_id s hg
  obtain ⟨-, -, -, r, hr, hgrp, hcause, hdone⟩ := noteTrap_spec (s.setGrp g) g Cause.gangAbort
  have hends := ends_endGroup ((s.setGrp g).noteTrap g Cause.gangAbort) gid false
  rw [show (s.setGrp g).grpCtx g = c from hctx.grpCtx] at hr
  refine ⟨_, r, (exec_gangAbort gid s).trans (execGangAbort_standing hg habort hres hpend htrap hready), hends.traps c r hr,
    hgrp.trans hid, hcause, hdone, fun y hy => ?_⟩
  exact hends.ended y (State.grp?_mem hy) (State.grp?_id _ hy)

/-! ### DRYDOWN_FREE (03 R74) -/

theorem exec_drydownFree (gid : Nat) (s : State) : exec (.drydownFree gid) s = .next (s.drydown gid) := rfl

theorem State.prune_of_empty {s : State} {gid : Nat} {g : Group} (hg : s.grp? gid = some g) (hq : g.obq = []) :
    s.prune gid = s.setGrp g := by
  have hsame : { g with obq := g.obq.filter fun e =>
      !(e.stage == .done && e.acqOk && s.performedAt g e 4) || g.pend.any (·.need.contains e.uid) } = g := by
    cases g
    cases hq
    rfl
  rw [State.prune, State.modGrp, hg]
  exact congrArg s.setGrp hsame

theorem State.heldAll_of_free {s : State} {g : Group} (h : ∀ x ∈ (s.core g.core).held, x.grp ≠ g.id) :
    (s.core g.core).held.filter (·.grp == g.id) = [] := by
  simpa [List.filter_eq_nil_iff] using h

theorem drydown_free {s : State} {gid : Nat} {g : Group} (hg : s.grp? gid = some g) (hres : g.res = .draining) (hq : g.obq = [])
    (heng : g.engines = []) (hlock : ∀ h ∈ (s.core g.core).held, h.grp ≠ gid) : s.drydown gid = (s.setGrp g).dropGroup g := by
  have hid := State.grp?_id s hg
  have hset : (s.setGrp g).grp? gid = some g := State.grp?_setGrp_of s hg hid
  have hfree : ((s.setGrp g).core g.core).held.filter (·.grp == g.id) = [] := State.heldAll_of_free (s := s.setGrp g) (by rw [hid]; exact hlock)
  have hheld : (s.setGrp g).heldAll g = [] := by rw [State.heldAll, hfree]; rfl
  have hlocks : (s.setGrp g).releaseLocks g = s.setGrp g := by rw [State.releaseLocks, hfree]; rfl
  unfold State.drydown
  rw [hg]
  dsimp only
  rw [State.prune_of_empty hg hq, hset]
  dsimp only
  rw [hheld, hlocks]
  simp [hres, hq, heng, State.rangesClean, State.runsClean, State.rangePhys]

theorem dropGroup_tracked {s : State} {g : Group} (htracked : ∀ x ∈ s.groups, x.core = g.core → x.untracked = false)
    (hg : g.untracked = false) : s.dropGroup g = { s with groups := s.groups.filter (·.id != g.id) } := by
  unfold State.dropGroup
  dsimp only
  rw [if_neg (by simp [hg])]
  unfold State.takeEntry
  have hnone : ({ s with groups := s.groups.filter (·.id != g.id) } : State).groups.find? (fun x => x.core == g.core && x.untracked) = none := by
    refine List.find?_eq_none.2 fun x hx => ?_
    have hx := htracked x (List.mem_filter.1 hx).1
    simpa using hx
  split
  · rfl
  · rw [hnone]

theorem drydownFree_goes {s : State} {gid : Nat} {g : Group} (hg : s.grp? gid = some g) (hres : g.res = .draining) (hq : g.obq = [])
    (heng : g.engines = []) (hlock : ∀ h ∈ (s.core g.core).held, h.grp ≠ gid)
    (htracked : ∀ x ∈ s.groups, x.core = g.core → x.untracked = false) :
    ∃ u, exec (.drydownFree gid) s = .next u ∧ u.grp? gid = none ∧ (∀ n, n ≠ gid → u.grp? n = s.grp? n) ∧ u.dram = s.dram ∧
      u.teams = s.teams := by
  have hid := State.grp?_id s hg
  have hmem := State.grp?_mem hg
  refine ⟨{ s.setGrp g with groups := (s.setGrp g).groups.filter (·.id != g.id) }, ?_, ?_, fun n hn => ?_, rfl, rfl⟩
  · rw [exec_drydownFree, drydown_free hg hres hq heng hlock, dropGroup_tracked ?_ (htracked g hmem rfl)]
    intro x hx hc
    rcases State.mem_setGrp hx with rfl | hx
    · exact htracked x hmem rfl
    · exact htracked x hx hc
  · rw [State.grp?, List.find?_filter]
    refine List.find?_eq_none.2 fun x _ => ?_
    simp [hid]
  · have hother := State.grp?_setGrp_other s (g' := g) (n := n) (by rw [hid]; exact hn)
    rw [State.grp?, List.find?_filter, ← hother, State.grp?]
    congr 1
    funext x
    by_cases hx : x.id = n
    · simp [hx, hid, hn]
    · simp [hx]

end Sys2Proof.Machine
end

section
/-! SUPPORT. PREEMPT_REQUEST, PREEMPT_WITHDRAW and PREEMPT_TAKE with places in the save pool (03 R63, R64, 08 R177, 12 R268, 14 R329, R330). -/

namespace Sys2Proof.Machine

open Sys2Proof

/-! ### Places in the save pool (14 R330) -/

/-- A group with its place in the save pool. -/
def Group.placedAt (g : Group) (i : Option (Nat × Nat)) : Group := { g with img := i }

/-- Places are reserved: groups are given their place, and nothing else of them changes. -/
structure State.Placed (s t : State) : Prop where
  dram : t.dram = s.dram
  dies : t.dies = s.dies
  grps : ∀ n g, s.grp? n = some g → ∃ i, t.grp? n = some (g.placedAt i)

theorem State.Placed.refl (s : State) : s.Placed s := ⟨rfl, rfl, fun _ g h => ⟨g.img, h⟩⟩

theorem State.Placed.trans {s t u : State} (h : s.Placed t) (k : t.Placed u) : s.Placed u where
  dram := k.dram.trans h.dram
  dies := k.dies.trans h.dies
  grps n g hg := by
    obtain ⟨i, hi⟩ := h.grps n g hg
    obtain ⟨j, hj⟩ := k.grps n _ hi
    exact ⟨j, hj⟩

theorem placed_setImg {s : State} {n : Nat} {g : Group} (h : s.grp? n = some g) (i : Option (Nat × Nat)) :
    s.Placed (s.setGrp (g.placedAt i)) where
  dram := rfl
  dies := rfl
  grps m x hx := by
    have hid : g.id = n := State.grp?_id s h
    by_cases hm : m = n
    · subst hm
      obtain rfl : g = x := Option.some.inj (h.symm.trans hx)
      exact ⟨i, State.grp?_setGrp_of s h hid⟩
    · refine ⟨x.img, (State.grp?_setGrp_other s (g' := g.placedAt i) ?_).trans hx⟩
      exact fun e => hm (e.trans hid)

/-- A group's place: the one it has, or a new one. -/
theorem reserveGroup_some {s t : State} {n : Nat} (h : s.reserveGroup n = some t) :
    s.Placed t ∧ t.teams = s.teams ∧ t.grids = s.grids ∧ t.cores = s.cores ∧
      ∀ g, s.grp? n = some g → ∃ i, i.isSome = true ∧ t.grp? n = some (g.placedAt i) := by
  unfold State.reserveGroup at h
  split at h
  · rename_i hg
    cases h
    exact ⟨.refl s, rfl, rfl, rfl, fun g hg' => absurd (hg.symm.trans hg') (by simp)⟩
  · rename_i g hg
    split at h
    · rename_i himg
      cases h
      refine ⟨.refl s, rfl, rfl, rfl, fun x hx => ?_⟩
      obtain rfl : g = x := Option.some.inj (hg.symm.trans hx)
      exact ⟨g.img, himg, hg⟩
    · obtain ⟨o, -, rfl⟩ := Option.map_eq_some_iff.1 h
      refine ⟨placed_setImg hg _, rfl, rfl, rfl, fun x hx => ?_⟩
      obtain rfl : g = x := Option.some.inj (hg.symm.trans hx)
      exact ⟨some (o, g.maxImage), rfl, State.grp?_setGrp_of s hg (show g.id = n from State.grp?_id s hg)⟩

theorem reserveGroups_some (ns : List Nat) (o : Option State) {t : State}
    (h : ns.foldl (fun o n => o.bind fun s => s.reserveGroup n) o = some t) : ∃ s, o = some s ∧ s.Placed t := by
  induction ns generalizing o with
  | nil => exact ⟨t, h, .refl t⟩
  | cons n ns ih =>
    obtain ⟨u, hu, hut⟩ := ih _ h
    obtain ⟨s, hs, hsu⟩ := Option.bind_eq_some_iff.1 hu
    exact ⟨s, hs, (reserveGroup_some hsu).1.trans hut⟩

theorem reserveTeam_some {s s' : State} {t : Team} (h : s.reserveTeam t = some s') : s.Placed s' := by
  obtain ⟨u, hu, hplaced⟩ := reserveGroups_some _ _ h
  refine State.Placed.trans ?_ hplaced
  split at hu
  · cases hu
    exact .refl s
  · obtain ⟨o, -, rfl⟩ := Option.map_eq_some_iff.1 hu
    exact ⟨rfl, rfl, fun n g hg => ⟨g.img, hg⟩⟩

/-- A group that holds its place for no request gives it up. -/
def Group.unplaced (g : Group) (team : Nat) : Group :=
  if g.team == team && g.res == .resident && g.preempt.isNone then { g with img := none } else g

theorem Group.unplaced_cases (g : Group) (team : Nat) : g.unplaced team = g ∨ g.unplaced team = { g with img := none } := by
  unfold Group.unplaced
  split
  · exact .inr rfl
  · exact .inl rfl

theorem releasePool_spec (s : State) (team : Nat) :
    (s.releasePool team).groups = s.groups.map (Group.unplaced · team) ∧ (s.releasePool team).dram = s.dram := by
  unfold State.releasePool
  dsimp only
  split
  · exact ⟨rfl, rfl⟩
  · split <;> exact ⟨rfl, rfl⟩

theorem releasePool_grp {s : State} {n : Nat} {g : Group} (h : s.grp? n = some g) (team : Nat) :
    (s.releasePool team).grp? n = some (g.unplaced team) := by
  have hid : ((fun x : Group => x.id == n) ∘ (Group.unplaced · team)) = fun x => x.id == n := by
    funext x
    rcases Group.unplaced_cases x team with e | e <;> simp [e]
  rw [State.grp?, (releasePool_spec s team).1, List.find?_map, hid]
  rw [State.grp?] at h
  rw [h]
  rfl

/-! ### PREEMPT_REQUEST (12 R268) -/

theorem exec_preemptRequest (gid : Nat) (s : State) : exec (.preemptRequest gid) s = execPreemptRequest gid s := rfl

theorem State.askable_of {s s1 : State} {g : Group} {t : Team} {k : Grid} (hres : g.res = .resident) (hpre : g.preempt = none)
    (ht : s.grpTeam? g = some t) (hk : s.grpGrid? g = some k) (hroom : s.reserveTeam t = some s1) : s.askable g = some (k, s1) := by
  unfold State.askable
  rw [if_neg (by simp [hres, hpre]), ht, hk]
  dsimp only
  rw [hroom]
  rfl

/-- A group asked to yield. -/
def Group.asked (g : Group) (t : Nat) : Group := { g with preempt := some t }

theorem execPreemptRequest_asks {s s1 : State} {gid p : Nat} {g : Group} {k : Grid} (hg : s.grp? gid = some g)
    (hask : s.askable g = some (k, s1)) (hp : p < 4) (hpri : k.p.pri < p) (hstarved : s.starved p = true)
    (hyoung : ∀ x ∈ s.groups, ∀ y s2, s.askable x = some (y, s2) → k.id < y.id → p ≤ y.p.pri) :
    execPreemptRequest gid s = .next (s1.modGrp gid fun g => s1.parkLanes (g.asked (s1.now g))) := by
  unfold execPreemptRequest
  rw [hg]
  dsimp only
  rw [hask]
  dsimp only
  refine (if_neg ?_).trans rfl
  rw [Bool.not_eq_true, Bool.not_eq_false', List.any_eq_true]
  refine ⟨p, List.mem_range.2 hp, ?_⟩
  have hno : (s.groups.any fun x => match s.askable x with
      | some (y, _) => decide (k.id < y.id) && decide (y.p.pri < p)
      | none => false) = false := by
    rw [List.any_eq_false]
    intro x hx
    cases hax : s.askable x with
    | none => simp
    | some ys =>
      have := hyoung x hx ys.1 ys.2 hax
      simp only [Bool.and_eq_true, decide_eq_true_eq, not_and, Nat.not_lt]
      exact this
  simp only [hpri, hstarved, decide_true, Bool.true_and, Bool.not_eq_true']
  exact hno

theorem Group.park_kept (g : Group) (m : Mask) :
    RegsKept g (g.park m) ∧ (g.park m).pcv = g.pcv ∧ (g.park m).id = g.id ∧ (g.park m).preempt = g.preempt := by
  unfold Group.park
  exact ⟨⟨rfl, rfl, rfl, rfl, rfl, rfl, rfl, rfl, rfl, rfl, rfl, rfl, rfl, rfl, rfl⟩, rfl, rfl, rfl⟩

/-- Parking keeps registers and addresses, and every lane as it is or parked. -/
theorem State.parkLanes_kept (s : State) (g : Group) : RegsKept g (s.parkLanes g) ∧ (s.parkLanes g).pcv = g.pcv ∧
    (s.parkLanes g).id = g.id ∧ (s.parkLanes g).preempt = g.preempt ∧
    ∀ l < 128, nth (s.parkLanes g).lanes l = nth g.lanes l ∨ (nth g.lanes l = .ready ∧ nth (s.parkLanes g).lanes l = .parked) := by
  rcases s.parkLanes_cases g with e | ⟨m, e⟩ <;> rw [e]
  · exact ⟨.refl g, rfl, rfl, rfl, fun _ _ => .inl rfl⟩
  · obtain ⟨hregs, hpcv, hid, hpre⟩ := g.park_kept m
    refine ⟨hregs, hpcv, hid, hpre, fun l hl => ?_⟩
    rw [Group.park, nth_mkLanes _ _ hl]
    split
    · rename_i h
      exact .inr ⟨(Lane.isReady_iff _).1 (Bool.and_eq_true_iff.1 h).2, rfl⟩
    · exact .inl rfl

theorem preemptRequest_marks {s s1 : State} {gid p : Nat} {g : Group} {t : Team} {k : Grid} (hg : s.grp? gid = some g)
    (hres : g.res = .resident) (hpre : g.preempt = none) (ht : s.grpTeam? g = some t) (hk : s.grpGrid? g = some k)
    (hroom : s.reserveTeam t = some s1) (hp : p < 4) (hpri : k.p.pri < p) (hstarved : s.starved p = true)
    (hyoung : ∀ x ∈ s.groups, ∀ y s2, s.askable x = some (y, s2) → k.id < y.id → p ≤ y.p.pri) :
    ∃ u g', exec (.preemptRequest gid) s = .next u ∧ u.grp? gid = some g' ∧ g'.preempt = some (s.now g) ∧ RegsKept g g' ∧
      g'.pcv = g.pcv ∧ u.dram = s.dram ∧ ∀ l < 128, nth g'.lanes l = nth g.lanes l ∨
        (nth g.lanes l = .ready ∧ nth g'.lanes l = .parked) := by
  have hplaced := reserveTeam_some hroom
  obtain ⟨i, hi⟩ := hplaced.grps gid g hg
  obtain ⟨hregs, hpcv, hid, hpreempt, hlanes⟩ := s1.parkLanes_kept ((g.placedAt i).asked (s1.now (g.placedAt i)))
  have hexec := execPreemptRequest_asks hg (State.askable_of hres hpre ht hk hroom) hp hpri hstarved hyoung
  rw [State.modGrp, hi] at hexec
  have hasks : (g.placedAt i).id = gid := State.grp?_id s1 hi
  refine ⟨_, _, (exec_preemptRequest gid s).trans hexec, State.grp?_setGrp_of s1 hi (hid.trans hasks), ?_, ?_, hpcv, hplaced.dram, hlanes⟩
  · rw [hpreempt]
    have hnow : s1.now (g.placedAt i) = s.now g := by
      rw [State.now, State.now, State.die, State.die, hplaced.dies]
      rfl
    rw [Group.asked, hnow]
  · have hasked : RegsKept g ((g.placedAt i).asked (s1.now (g.placedAt i))) :=
      ⟨rfl, rfl, rfl, rfl, rfl, rfl, rfl, rfl, rfl, rfl, rfl, rfl, rfl, rfl, rfl⟩
    exact hasked.trans hregs

/-! ### PREEMPT_WITHDRAW (03 R63) -/

theorem exec_preemptWithdraw (gid : Nat) (s : State) : exec (.preemptWithdraw gid) s = execPreemptWithdraw gid s := rfl

/-- A group whose request is withdrawn. -/
def Group.unasked (g : Group) : Group :=
  { g with preempt := none, lanes := mkLanes fun l => if nth g.lanes l == .parked && !g.gangAbort then .ready else nth g.lanes l }

theorem Group.unasked_kept (g : Group) : RegsKept g g.unasked ∧ g.unasked.preempt = none ∧ g.unasked.pcv = g.pcv ∧
    g.unasked.id = g.id := by
  unfold Group.unasked
  exact ⟨⟨rfl, rfl, rfl, rfl, rfl, rfl, rfl, rfl, rfl, rfl, rfl, rfl, rfl, rfl, rfl⟩, rfl, rfl, rfl⟩

theorem execPreemptWithdraw_asked {s : State} {gid : Nat} {g : Group} (hg : s.grp? gid = some g) (hres : g.res = .resident)
    (hpre : g.preempt.isSome = true) (hrun : (s.die g.die).phase = .run) :
    execPreemptWithdraw gid s = .next ((s.setGrp g.unasked).releasePool g.team) := by
  have hsome : g.preempt.isNone = false := by rw [Option.isNone_eq_false_iff]; exact hpre
  unfold execPreemptWithdraw
  rw [hg]
  dsimp only
  rw [if_neg (by simp [hres, hsome, hrun])]
  rfl

theorem preemptWithdraw_readies {s : State} {gid : Nat} {g : Group} (hg : s.grp? gid = some g) (hres : g.res = .resident)
    (hpre : g.preempt.isSome = true) (hrun : (s.die g.die).phase = .run) (habort : g.gangAbort = false) :
    ∃ u g', exec (.preemptWithdraw gid) s = .next u ∧ u.grp? gid = some g' ∧ g'.preempt = none ∧ RegsKept g g' ∧ g'.pcv = g.pcv ∧
      u.dram = s.dram ∧ ∀ l < 128, nth g'.lanes l = if nth g.lanes l = .parked then .ready else nth g.lanes l := by
  obtain ⟨hregs, hpre', hpcv, hid⟩ := g.unasked_kept
  have hset := releasePool_grp (State.grp?_setGrp_of s hg (hid.trans (State.grp?_id s hg))) g.team
  have hlanes : ∀ l < 128, nth g.unasked.lanes l = if nth g.lanes l = .parked then .ready else nth g.lanes l := by
    intro l hl
    rw [Group.unasked, nth_mkLanes _ _ hl, habort]
    simp
  refine ⟨_, _, (exec_preemptWithdraw gid s).trans (execPreemptWithdraw_asked hg hres hpre hrun), hset, ?_⟩
  generalize g.unasked = x at *
  rcases x.unplaced_cases g.team with e | e <;> rw [e]
  · exact ⟨hpre', hregs, hpcv, (releasePool_spec _ _).2, hlanes⟩
  · have hplace : RegsKept x { x with img := none } :=
      ⟨rfl, rfl, rfl, rfl, rfl, rfl, rfl, rfl, rfl, rfl, rfl, rfl, rfl, rfl, rfl⟩
    exact ⟨hpre', hregs.trans hplace, hpcv, (releasePool_spec _ _).2, hlanes⟩

/-! ### PREEMPT_TAKE (03 R64, 08 R177, 14 R329) -/

theorem exec_preemptTake (gid : Nat) (s : State) : exec (.preemptTake gid) s = execPreemptTake gid s := rfl

theorem poolWrite_aside (n : Nat) {s t : State} {die ctx va v : Nat} (h : s.poolWrite die ctx va v n = some t) : s.SameAside t := by
  induction n generalizing s va v with
  | zero => cases h; exact .refl _
  | succ n ih =>
    rw [State.poolWrite] at h
    split at h
    · cases h
    · obtain ⟨u, hu, ht⟩ := Option.bind_eq_some_iff.1 h
      exact (directWrite_aside hu).trans (ih ht)

/-- The same group as to its place on the machine, its registers and its addresses. -/
structure Group.Alike (x y : Group) : Prop where
  id    : y.id = x.id
  core  : y.core = x.core
  vregs : y.vregs = x.vregs
  sregs : y.sregs = x.sregs
  preds : y.preds = x.preds
  hnds  : y.hnds = x.hnds
  pcv   : y.pcv = x.pcv

theorem Group.Alike.trans {x y z : Group} (h : x.Alike y) (k : y.Alike z) : x.Alike z :=
  ⟨k.id.trans h.id, k.core.trans h.core, k.vregs.trans h.vregs, k.sregs.trans h.sregs, k.preds.trans h.preds, k.hnds.trans h.hnds,
    k.pcv.trans h.pcv⟩

/-- Every group is found again, alike and with its place in the pool. -/
structure State.FindsAlike (s t : State) : Prop where
  grps : ∀ n g, s.grp? n = some g → ∃ y, t.grp? n = some y ∧ g.Alike y ∧ y.img = g.img

theorem State.FindsAlike.of_groups {s t : State} (h : t.groups = s.groups) : s.FindsAlike t := by
  refine ⟨fun n g hg => ⟨g, ?_, ⟨rfl, rfl, rfl, rfl, rfl, rfl, rfl⟩, rfl⟩⟩
  rw [State.grp?, h]
  exact hg

theorem State.FindsAlike.trans {s t u : State} (h : s.FindsAlike t) (k : t.FindsAlike u) : s.FindsAlike u := by
  refine ⟨fun n g hg => ?_⟩
  obtain ⟨y, hy, hgy, hiy⟩ := h.grps n g hg
  obtain ⟨z, hz, hyz, hiz⟩ := k.grps n y hy
  exact ⟨z, hz, hgy.trans hyz, hiz.trans hiy⟩

theorem findsAlike_prune (s : State) (gid : Nat) : s.FindsAlike (s.prune gid) := by
  unfold State.prune State.modGrp
  split
  · rename_i x hx
    have hid : x.id = gid := State.grp?_id s hx
    refine ⟨fun n g hg => ?_⟩
    by_cases hn : n = gid
    · subst hn
      obtain rfl : x = g := Option.some.inj (hx.symm.trans hg)
      exact ⟨_, State.grp?_setGrp_of s hx hid, ⟨rfl, rfl, rfl, rfl, rfl, rfl, rfl⟩, rfl⟩
    · refine ⟨g, (State.grp?_setGrp_other s ?_).trans hg, ⟨rfl, rfl, rfl, rfl, rfl, rfl, rfl⟩, rfl⟩
      exact fun e => hn (e.trans hid)
  · exact .of_groups rfl

theorem findsAlike_cancelFills (s : State) (hit : Nat → Bool) (a k : Nat) : s.FindsAlike (s.cancelFills hit a k) := by
  obtain ⟨f, hf⟩ := cancelFills_groups s hit a k
  refine ⟨fun n g hg => ⟨{ g with obq := f g }, ?_, ⟨rfl, rfl, rfl, rfl, rfl, rfl, rfl⟩, rfl⟩⟩
  rw [State.grp?] at hg
  rw [State.grp?, hf, List.find?_map]
  show (s.groups.find? fun x => x.id == n).map _ = _
  rw [hg]
  rfl

theorem endCopyResv_groups (s : State) (q tile : Nat) : (s.endCopyResv q tile).groups = s.groups := by
  simp only [State.endCopyResv]

theorem endCopyResvs_groups (xs : List (Nat × Nat)) (s : State) :
    (xs.foldl (fun s x => s.endCopyResv x.1 x.2) s).groups = s.groups := by
  induction xs generalizing s with
  | nil => rfl
  | cons x xs ih => rw [List.foldl_cons, ih, endCopyResv_groups]

theorem findsAlike_dropAll (s : State) (cores quads : Nat → Bool) (a k : Nat) : s.FindsAlike (s.dropAll cores quads a k) := by
  unfold State.dropAll
  dsimp only
  refine State.FindsAlike.trans ?_ (findsAlike_cancelFills ..)
  exact .of_groups (endCopyResvs_groups _ s)

theorem findsAlike_dropRanges (s : State) (g : Group) (rs : List (Nat × Nat × Bool)) : s.FindsAlike (s.dropRanges g rs) := by
  unfold State.dropRanges
  dsimp only
  generalize s.rangePhys g rs = ps
  induction ps generalizing s with
  | nil => exact .of_groups rfl
  | cons p ps ih => exact (findsAlike_dropAll ..).trans (ih _)

/-- A saved group: it is not resident, its request is over, and it has its place; registers and addresses stay. -/
structure SavedFrom (g g' : Group) : Prop where
  res     : g'.res = .saved
  preempt : g'.preempt = none
  img     : g'.img.isSome = true
  vregs   : g'.vregs = g.vregs
  sregs   : g'.sregs = g.sregs
  preds   : g'.preds = g.preds
  hnds    : g'.hnds = g.hnds
  pcv     : g'.pcv = g.pcv

theorem State.modGrp_grp {s : State} {gid : Nat} {g : Group} {f : Group → Group} (h : s.grp? gid = some g) (hid : (f g).id = gid) :
    (s.modGrp gid f).grp? gid = some (f g) := by
  rw [State.modGrp, h]
  exact State.grp?_setGrp_of s h hid

theorem State.modGrp_core (s : State) (gid : Nat) (f : Group → Group) (c : Nat) : (s.modGrp gid f).core c = s.core c := by
  unfold State.modGrp
  split <;> rfl

/-- A group that is saved: what stands of it, and what its core gives up. -/
theorem saveGroup_spec {s t : State} {gid : Nat} {g : Group} (hg : s.grp? gid = some g) (hc : g.core < 192)
    (h : s.saveGroup gid = some t) :
    (∃ g', t.grp? gid = some g' ∧ SavedFrom g g') ∧ (∀ r ∈ (t.core g.core).resv, r.grp ≠ gid) ∧
      ∀ p ∈ (t.core g.core).pins, p.2 ≠ gid := by
  obtain ⟨g1, hg1, hsame1, -⟩ := (findsAlike_prune s gid).grps gid g hg
  unfold State.saveGroup at h
  dsimp only at h
  rw [hg1] at h
  dsimp only at h
  split at h
  · cases h
  · split at h
    · cases h
    · rename_i u hu
      obtain ⟨-, -, -, -, hplace⟩ := reserveGroup_some hu
      obtain ⟨i, hi, hgi⟩ := hplace _ hg1
      obtain ⟨g2, hg2, hsame2, himg2⟩ := (findsAlike_dropRanges u g1 (u.heldAll g1)).grps gid _ hgi
      obtain ⟨v, hv, rfl⟩ := Option.map_eq_some_iff.1 h
      have hgv : v.grp? gid = some g2 := by
        rw [State.grp?, (poolWrite_aside _ hv).2.1]
        exact hg2
      have hplaced : g1.Alike (g1.placedAt i) := ⟨rfl, rfl, rfl, rfl, rfl, rfl, rfl⟩
      have hsame := (hsame1.trans hplaced).trans hsame2
      have hcore : g1.core < 192 := by rw [hsame1.core]; exact hc
      rw [← hsame1.core]
      refine ⟨⟨_, State.modGrp_grp ?_ ?_, ⟨rfl, rfl, ?_, hsame.vregs, hsame.sregs, hsame.preds, hsame.hnds, hsame.pcv⟩⟩, ?_, ?_⟩
      · exact hgv
      · exact (show g2.id = gid from State.grp?_id v hgv)
      · show g2.img.isSome = true
        rw [himg2]
        exact hi
      · rw [State.modGrp_core, State.core_setCore _ _ _ hcore]
        intro r hr
        simpa using (List.mem_filter.1 hr).2
      · rw [State.modGrp_core, State.core_setCore _ _ _ hcore]
        intro p hp
        simpa using (List.mem_filter.1 hp).2

/-- A group under a request that stands still, its ranges clean, is saved; its team goes on where another group of it is not saved. -/
theorem execPreemptTake_standing {s s1 : State} {gid : Nat} {g : Group} (hg : s.grp? gid = some g) (hres : g.res = .resident)
    (hpre : g.preempt.isSome = true) (hpend : g.pend = []) (hlanes : ∀ l < 128, nth g.lanes l = .parked ∨ nth g.lanes l = .exited)
    (htrap : g.trap = none) (hclean : s.rangesClean g (s.heldAll g) = true) (hsave : (s.setGrp g).saveGroup gid = some s1)
    (hother : ∃ x ∈ s.liveGroups g.team, x.id ≠ gid ∧ x.res ≠ .saved) : execPreemptTake gid s = .next s1 := by
  have hready : ∀ l < 128, nth g.lanes l ≠ .ready := fun l hl e => by
    rcases hlanes l hl with h | h <;> rw [h] at e <;> cases e
  have hwait : ∀ l < 128, (nth g.lanes l).isWaiting = false := fun l hl => by
    rcases hlanes l hl with h | h <;> rw [h] <;> rfl
  have hlast : ((s.liveGroups g.team).all fun x => x.id == gid || x.res == .saved) = false := by
    obtain ⟨x, hx, hid, hsaved⟩ := hother
    rw [List.all_eq_false]
    exact ⟨x, hx, by simp [hid, hsaved]⟩
  have hsome : g.preempt.isNone = false := by rw [Option.isNone_eq_false_iff]; exact hpre
  unfold execPreemptTake
  rw [hg]
  dsimp only
  rw [Group.flush_of_settled hpend, s.wakeLanes_of_no_waiting hwait, s.parkLanes_of_no_ready hready, hlast, hclean, hsave]
  simp [hres, hsome, Group.taken_of_no_ready hready htrap]

theorem preemptTake_saves {s s1 : State} {gid : Nat} {g : Group} (hg : s.grp? gid = some g) (hres : g.res = .resident)
    (hpre : g.preempt.isSome = true) (hpend : g.pend = []) (hlanes : ∀ l < 128, nth g.lanes l = .parked ∨ nth g.lanes l = .exited)
    (htrap : g.trap = none) (hcore : g.core < 192) (hclean : s.rangesClean g (s.heldAll g) = true)
    (hsave : (s.setGrp g).saveGroup gid = some s1) (hother : ∃ x ∈ s.liveGroups g.team, x.id ≠ gid ∧ x.res ≠ .saved) :
    ∃ u g', exec (.preemptTake gid) s = .next u ∧ u.grp? gid = some g' ∧ g'.res = .saved ∧ g'.preempt = none ∧ g'.img.isSome = true ∧
      g'.vregs = g.vregs ∧ g'.sregs = g.sregs ∧ g'.preds = g.preds ∧ g'.hnds = g.hnds ∧ g'.pcv = g.pcv ∧
      (∀ r ∈ (u.core g.core).resv, r.grp ≠ gid) ∧ (∀ p ∈ (u.core g.core).pins, p.2 ≠ gid) := by
  obtain ⟨⟨g', hg', hsaved⟩, hresv, hpins⟩ := saveGroup_spec (State.grp?_setGrp_of s hg (State.grp?_id s hg)) hcore hsave
  exact ⟨s1, g', (exec_preemptTake gid s).trans (execPreemptTake_standing hg hres hpre hpend hlanes htrap hclean hsave hother), hg',
    hsaved.res, hsaved.preempt, hsaved.img, hsaved.vregs, hsaved.sregs, hsaved.preds, hsaved.hnds, hsaved.pcv, hresv, hpins⟩

end Sys2Proof.Machine
end

section
/-! SUPPORT. RESTORE: the group that an image describes on its new core and slot, and what moving it there leaves (03 R66, 14 R329). -/

namespace Sys2Proof.Machine

open Sys2Proof

/-! ### RESTORE (03 R66, 14 R329) -/

theorem exec_restore (gid core slot : Nat) (s : State) : exec (.restore gid core slot) s = execRestore gid core slot s := rfl

theorem poolRead_aside (n : Nat) {s t : State} {die ctx va v : Nat} (h : s.poolRead die ctx va n = some (v, t)) : s.SameAside t := by
  induction n generalizing s t va v with
  | zero =>
    simp only [State.poolRead, Option.some.injEq, Prod.mk.injEq] at h
    obtain ⟨-, rfl⟩ := h
    exact .refl s
  | succ n ih =>
    rw [State.poolRead] at h
    split at h
    · cases h
    · obtain ⟨⟨x, u⟩, hu, h⟩ := Option.bind_eq_some_iff.1 h
      obtain ⟨⟨y, u'⟩, hu', h⟩ := Option.map_eq_some_iff.1 h
      obtain ⟨-, rfl⟩ := Prod.mk.inj h
      exact (directRead_aside hu).trans (ih hu')

/-- A saved group of a team that stands on a core takes its slot there once its image can be read. -/
theorem execRestore_placed {s s' : State} {gid core slot : Nat} {g : Group} {t : Team} {k : Grid} (hg : s.grp? gid = some g)
    (hres : g.res = .saved) (hdue : g.trapDue = none) (hkept : s.trapSaved g = false) (ht : s.grpTeam? g = some t)
    (hk : s.grpGrid? g = some k) (hend : k.ending = none) (hrun : (s.die (core / 48)).phase = .run)
    (hslot : (s.freeSlots core).contains slot = true) (hplaced : t.saved = false) (hcore : t.core = core)
    (hrestore : s.restoreGroup g core slot = some s') : execRestore gid core slot s = .next s' := by
  have hfree : slot ∈ s.freeSlots core := by simpa using hslot
  unfold execRestore
  rw [hg]
  dsimp only
  rw [ht, hk]
  dsimp only
  rw [if_neg (by simp [hres, hdue, hkept, hend, hrun, hfree]), if_neg (by simp [hplaced]), if_neg (by simp [hcore]), hrestore]
  rfl

/-- The lanes of a mask stand at an address. -/
def Group.redirected (x : Group) (a : Mask × W32) : Group :=
  { x with pcv := mkLanes fun l => if a.1.getLsbD l then a.2 else nth x.pcv l }

/-- The group that an image describes, on its new core and slot. -/
def Group.onSlot (x : Group) (core slot now : Nat) : Group :=
  { x with freed := x.freedNow, res := .resident, core, slot, fair := 0, ibuf := none, iblk := [], retp := [], rot := none, nextIssue := now,
           lastIssue := now, img := none, adv := [] }

/-- The same with the lanes that left while it was saved redirected. -/
def Group.landed (x : Group) (core slot now : Nat) (adv : List (Mask × W32)) : Group :=
  adv.foldl Group.redirected (x.onSlot core slot now)

/-- The state in which it stands there, before the banks look at its waits. -/
def State.landing (s : State) (g x : Group) (ws : List Timed) (core now : Nat) : State :=
  ((((s.moveHeld g core).setGrp x).thawWaits x ws now).releasePool g.team).pressOut core g.id 96

theorem restoreGroup_eq {s s1 : State} {g : Group} {core slot off size w : Nat} {k : Grid} (himg : g.img = some (off, size))
    (hk : s.grpGrid? g = some k)
    (hread : s.poolRead (core / 48) k.ctx ((s.desc k.ctx).savebase + off) (size / 64) = some (w, s1)) :
    (∀ x ws, g.fromImage w (s1.die (core / 48)).cycle = some (x, ws) →
      ∃ u, u = s1.landing g (x.landed core slot (s1.die (core / 48)).cycle g.adv) ws core (s1.die (core / 48)).cycle ∧
        s.restoreGroup g core slot =
          some (((u.teams.filter fun t => t.bankq.any (·.grp == g.id)).map (·.id)).foldl State.bank u)) ∧
    (g.fromImage w (s1.die (core / 48)).cycle = none → s.restoreGroup g core slot = some (s1.endGrid k.id 9 1 0)) := by
  have hk1 : s1.grpGrid? g = some k := by
    obtain ⟨hteams, -, hgrids, -⟩ := poolRead_aside _ hread
    simp only [State.grpGrid?, State.team?, State.grid?, hteams, hgrids] at hk ⊢
    exact hk
  have hctx := State.grpCtx_of_grid hk
  constructor
  · intro x ws hx
    refine ⟨_, rfl, ?_⟩
    unfold State.restoreGroup
    rw [himg]
    dsimp only
    rw [hctx, hread, Option.map_some]
    dsimp only
    rw [hx]
    rfl
  · intro hx
    unfold State.restoreGroup
    rw [himg]
    dsimp only
    rw [hctx, hread, Option.map_some]
    dsimp only
    rw [hx]
    dsimp only
    rw [hk1]

theorem Group.fromImage_id {g x : Group} {w now : Nat} {ws : List Timed} (h : g.fromImage w now = some (x, ws)) : x.id = g.id := by
  have hid : ∀ r ∈ g.fromImage w now, r.1.id = g.id := by
    rw [Group.fromImage]
    extract_lets
    split
    intro r hr
    obtain ⟨-, hr⟩ := Option.ite_none_left_eq_some.1 hr
    exact congrArg (fun o => (o.map (·.1.id)).getD g.id) hr.symm
  exact hid _ h

theorem Group.redirected_kept (x : Group) (a : Mask × W32) : x.Kept (x.redirected a) ∧ (x.redirected a).lanes = x.lanes := by
  unfold Group.redirected
  exact ⟨⟨rfl, rfl, rfl, rfl, rfl, rfl, rfl, rfl, rfl, rfl⟩, rfl⟩

theorem redirects_kept (adv : List (Mask × W32)) (x : Group) :
    x.Kept (adv.foldl Group.redirected x) ∧ (adv.foldl Group.redirected x).lanes = x.lanes := by
  induction adv generalizing x with
  | nil => exact ⟨.refl x, rfl⟩
  | cons a adv ih =>
    obtain ⟨hone, hlane⟩ := x.redirected_kept a
    rw [List.foldl_cons]
    obtain ⟨hkept, hlanes⟩ := ih (x.redirected a)
    exact ⟨hone.trans hkept, hlanes.trans hlane⟩

/-- The group stands on its core and slot with the registers, and the lanes, of its image. -/
structure RestoredFrom (x : Group) (core slot : Nat) (g : Group) : Prop where
  id    : g.id = x.id
  res   : g.res = .resident
  core  : g.core = core
  slot  : g.slot = slot
  img   : g.img = none
  vregs : g.vregs = x.vregs
  sregs : g.sregs = x.sregs
  preds : g.preds = x.preds
  hnds  : g.hnds = x.hnds

theorem RestoredFrom.kept {x y z : Group} {core slot : Nat} (h : RestoredFrom x core slot y) (k : y.Kept z) : RestoredFrom x core slot z where
  id := k.id.trans h.id
  res := k.res.trans h.res
  core := k.core.trans h.core
  slot := k.slot.trans h.slot
  img := k.img.trans h.img
  vregs := k.vregs.trans h.vregs
  sregs := k.sregs.trans h.sregs
  preds := k.preds.trans h.preds
  hnds := k.hnds.trans h.hnds

theorem Group.landed_spec (x : Group) (core slot now : Nat) (adv : List (Mask × W32)) :
    RestoredFrom x core slot (x.landed core slot now adv) ∧ (x.landed core slot now adv).lanes = x.lanes ∧
      (adv = [] → (x.landed core slot now adv).pcv = x.pcv) := by
  obtain ⟨hkept, hlanes⟩ := redirects_kept adv (x.onSlot core slot now)
  have hslot : RestoredFrom x core slot (x.onSlot core slot now) := ⟨rfl, rfl, rfl, rfl, rfl, rfl, rfl, rfl, rfl⟩
  refine ⟨hslot.kept hkept, hlanes, ?_⟩
  rintro rfl
  rfl

/-! ### The only group of its number -/

/-- A group stands in a state, and no other has its number. -/
structure State.Stands (s : State) (x : Group) : Prop where
  here : s.grp? x.id = some x
  only : ∀ y ∈ s.groups, y.id = x.id → y = x

theorem stands_setGrp {s : State} {g x : Group} (h : s.grp? x.id = some g) : (s.setGrp x).Stands x where
  here := State.grp?_setGrp_of s h rfl
  only y hy hid := by
    obtain ⟨z, -, rfl⟩ := List.mem_map.1 hy
    split at hid <;> rename_i hz
    · rw [if_pos hz]
    · exact absurd hid hz

theorem State.Stands.of_groups {s t : State} {x : Group} (h : s.Stands x) (e : t.groups = s.groups) : t.Stands x where
  here := by rw [State.grp?, e]; exact h.here
  only := by rw [e]; exact h.only

theorem State.Stands.releasePool {s : State} {x : Group} (h : s.Stands x) (himg : x.img = none) (team : Nat) : (s.releasePool team).Stands x := by
  have hx : x.unplaced team = x := by
    rcases x.unplaced_cases team with e | e <;> rw [e]
    rw [← himg]
  refine ⟨(releasePool_grp h.here team).trans (by rw [hx]), fun y hy hid => ?_⟩
  rw [(releasePool_spec s team).1] at hy
  obtain ⟨z, hz, rfl⟩ := List.mem_map.1 hy
  have hzid : (z.unplaced team).id = z.id := by rcases z.unplaced_cases team with e | e <;> rw [e]
  rw [h.only z hz (hzid.symm.trans hid), hx]

theorem State.Stands.setGrp {s : State} {x y : Group} (h : s.Stands x) (hne : y.id ≠ x.id) : (s.setGrp y).Stands x where
  here := (State.grp?_setGrp_other s hne.symm).trans h.here
  only z hz hid := by
    rcases State.mem_setGrp hz with rfl | hz
    · exact absurd hid hne
    · exact h.only z hz hid

/-- What a scan for a group picks is one of those it looks at. -/
theorem mem_of_pick {p : Group → Group → Prop} [∀ g x, Decidable (p g x)] {xs : List Group} {o : Option Group} {r : Group}
    (h : xs.foldl (fun (o : Option Group) g => match o with
        | none => some g
        | some x => if p g x then some g else some x) o = some r) : r ∈ xs ∨ o = some r := by
  induction xs generalizing o with
  | nil => exact .inr h
  | cons x xs ih =>
    rcases ih h with hr | hr
    · exact .inl (List.mem_cons_of_mem x hr)
    · cases o with
      | none => exact .inl (by simp [Option.some.inj hr])
      | some y =>
        dsimp only at hr
        split at hr
        · exact .inl (by simp [Option.some.inj hr])
        · exact .inr hr

/-- The registers of other groups leave; the requester and the teams stay (02 R42). -/
theorem pressOut_stands (n : Nat) {s : State} {x : Group} (h : s.Stands x) (core : Nat) :
    (s.pressOut core x.id n).Stands x ∧ (s.pressOut core x.id n).teams = s.teams := by
  induction n generalizing s with
  | zero => exact ⟨h, rfl⟩
  | succ n ih =>
    unfold State.pressOut
    dsimp only
    split
    · exact ⟨h, rfl⟩
    · split
      · exact ⟨h, rfl⟩
      · rename_i y hpick
        have hy := (mem_of_pick (p := fun g x => g.lastIssue < x.lastIssue) hpick).resolve_right (by simp)
        have hne : y.id ≠ x.id := by simpa using (List.mem_filter.1 hy).2
        have hset : (s.setGrp { y with hidden := true }).Stands x := h.setGrp hne
        exact ih (hset.of_groups rfl)

/-- A group that no other has the number of is found again where groups stay. -/
theorem State.Stands.stays {s t : State} {x : Group} (h : s.Stands x) (k : s.Stays t) : ∃ y, t.grp? x.id = some y ∧ x.Kept y := by
  have hmem : x.id ∈ t.groups.map (·.id) := by
    rw [k.ids]
    exact List.mem_map_of_mem (State.grp?_mem h.here)
  obtain ⟨z, hz, hzid⟩ := List.mem_map.1 hmem
  cases hf : t.grp? x.id with
  | none => exact absurd (List.find?_eq_none.1 hf z hz) (by simpa using hzid)
  | some y =>
    obtain ⟨w, hw, hkept⟩ := k.grps y (State.grp?_mem hf)
    have hid := State.grp?_id t hf
    rw [h.only w hw (hkept.id.symm.trans hid)] at hkept
    exact ⟨y, rfl, hkept⟩

/-! ### Groups without waits at a bank -/

/-- No wait of a group stands at a bank. -/
def State.Unbanked (s : State) (n : Nat) : Prop := ∀ t ∈ s.teams, ∀ w ∈ t.bankq, w.grp ≠ n

theorem State.Unbanked.of_teams {s t : State} {n : Nat} (h : s.Unbanked n) (e : t.teams = s.teams) : t.Unbanked n := by
  rw [State.Unbanked, e]
  exact h

theorem State.Unbanked.thawWaits {s : State} {n : Nat} (h : s.Unbanked n) (g : Group) (ws : List Timed) (now : Nat) :
    (s.thawWaits g ws now).Unbanked n := by
  intro t ht w hw
  obtain ⟨t0, ht0, rfl⟩ := List.mem_map.1 ht
  obtain ⟨w0, hw0, rfl⟩ := List.mem_map.1 hw
  have := h t0 ht0 w0 hw0
  split
  · split
    · exact this
    · exact this
  · exact this

theorem State.Unbanked.releasePool {s : State} {n : Nat} (h : s.Unbanked n) (team : Nat) : (s.releasePool team).Unbanked n := by
  unfold State.releasePool
  dsimp only
  split
  · exact h
  · rename_i t ht
    split
    · exact h
    · intro y hy w hw
      obtain ⟨z, hz, rfl⟩ := List.mem_map.1 hy
      split at hw
      · exact h t (List.mem_of_find?_eq_some ht) w hw
      · exact h z hz w hw

theorem State.Unbanked.none_waits {s : State} {n : Nat} (h : s.Unbanked n) : s.teams.filter (fun t => t.bankq.any (·.grp == n)) = [] := by
  refine List.filter_eq_nil_iff.2 fun t ht => ?_
  rw [List.any_eq_true]
  rintro ⟨w, hw, hid⟩
  exact h t ht w hw (by simpa using hid)

/-! ### The state in which the group stands -/

/-- The group stands there, no other has its number, and no wait has come to a bank. -/
theorem State.landing_spec {s : State} {g x y : Group} (core : Nat) (ws : List Timed) (now : Nat) (hg : s.grp? g.id = some y)
    (hid : x.id = g.id) (himg : x.img = none) :
    (s.landing g x ws core now).Stands x ∧ ∀ n, s.Unbanked n → (s.landing g x ws core now).Unbanked n := by
  have hset : ((s.moveHeld g core).setGrp x).Stands x := stands_setGrp (g := y) (by rw [hid]; exact hg)
  have hthaw : (((s.moveHeld g core).setGrp x).thawWaits x ws now).Stands x := hset.of_groups rfl
  obtain ⟨hstands, hteams⟩ := pressOut_stands 96 (hthaw.releasePool himg g.team) core
  rw [State.landing, ← hid]
  refine ⟨hstands, fun n hn => ?_⟩
  have hmoved : ((s.moveHeld g core).setGrp x).Unbanked n := hn.of_teams rfl
  exact ((hmoved.thawWaits x ws now).releasePool g.team).of_teams hteams

theorem restore_lands {s s1 : State} {gid core slot off size w : Nat} {g : Group} {t : Team} {k : Grid} (hg : s.grp? gid = some g)
    (hres : g.res = .saved) (hdue : g.trapDue = none) (hkept : s.trapSaved g = false) (ht : s.grpTeam? g = some t)
    (hk : s.grpGrid? g = some k) (hend : k.ending = none) (hrun : (s.die (core / 48)).phase = .run)
    (hslot : (s.freeSlots core).contains slot = true) (hplaced : t.saved = false) (hcore : t.core = core) (himg : g.img = some (off, size))
    (hread : s.poolRead (core / 48) k.ctx ((s.desc k.ctx).savebase + off) (size / 64) = some (w, s1)) :
    (∀ x ws, g.fromImage w (s1.die (core / 48)).cycle = some (x, ws) →
      ∃ u g', exec (.restore gid core slot) s = .next u ∧ u.grp? gid = some g' ∧ g'.res = .resident ∧ g'.core = core ∧ g'.slot = slot ∧
        g'.img = none ∧ g'.vregs = x.vregs ∧ g'.sregs = x.sregs ∧ g'.preds = x.preds ∧ g'.hnds = x.hnds ∧
        ((∀ y ∈ s.teams, ∀ w ∈ y.bankq, w.grp ≠ gid) → g'.lanes = x.lanes ∧ (g.adv = [] → g'.pcv = x.pcv))) ∧
    (g.fromImage w (s1.die (core / 48)).cycle = none →
      ∃ u k', exec (.restore gid core slot) s = .next u ∧ u.grid? k.id = some k' ∧ k'.ending = some (9, 1)) := by
  obtain ⟨hteams, hgroups, hgrids, -⟩ := poolRead_aside _ hread
  have hgid : g.id = gid := State.grp?_id s hg
  have hg1 : s1.grp? g.id = some g := by rw [State.grp?, hgroups, hgid]; exact hg
  obtain ⟨hgood, hbad⟩ := restoreGroup_eq (slot := slot) himg hk hread
  have hexec {s' : State} (h : s.restoreGroup g core slot = some s') : exec (.restore gid core slot) s = .next s' :=
    (exec_restore gid core slot s).trans (execRestore_placed hg hres hdue hkept ht hk hend hrun hslot hplaced hcore h)
  constructor
  · intro x ws hx
    obtain ⟨u, rfl, hu⟩ := hgood x ws hx
    have hxid := Group.fromImage_id hx
    obtain ⟨hland, hlanes, hpcv⟩ := x.landed_spec core slot (s1.die (core / 48)).cycle g.adv
    generalize x.landed core slot (s1.die (core / 48)).cycle g.adv = x' at hu hland hlanes hpcv
    generalize (s1.die (core / 48)).cycle = now at hu
    have hid : x'.id = g.id := hland.id.trans hxid
    obtain ⟨hstands, hbanks⟩ := State.landing_spec core ws now hg1 hid hland.img
    obtain ⟨g', hg', hkept'⟩ := hstands.stays (stays_foldl stays_bank
      ((((s1.landing g x' ws core now).teams.filter fun t => t.bankq.any (·.grp == g.id)).map (·.id))) _)
    obtain ⟨-, r, c, sl, i, v, sr, p, h⟩ := hland.kept hkept'
    rw [hid, hgid] at hg'
    refine ⟨_, g', hexec hu, (by rw [hgid]; exact hg'), r, c, sl, i, v, sr, p, h, fun hfree => ?_⟩
    have hfree1 : s1.Unbanked g.id := State.Unbanked.of_teams (hgid ▸ hfree) hteams
    rw [← hgid, (hbanks _ hfree1).none_waits] at hg'
    obtain rfl : x' = g' := Option.some.inj (hstands.here.symm.trans (hid ▸ hg'))
    exact ⟨hlanes, hpcv⟩
  · intro hx
    have hgrid : s1.grid? k.id = some k := by rw [State.grid?, hgrids]; exact (State.grpGrid?_some hk).1
    obtain ⟨⟨k', hk', hend'⟩, -⟩ := endGrid_spec hgrid hend 9 1 0
    exact ⟨_, k', hexec (hbad hx), hk', hend'⟩

end Sys2Proof.Machine
end

section
/-! SUPPORT. O44 (03 R63-R66, R74, 08 R177, 12 R268, R271). -/

namespace Sys2Proof.Machine

open Sys2Proof

theorem exec_preemptTimeout (gid : Nat) (s : State) : exec (.preemptTimeout gid) s = .next (s.endUntaken gid) := rfl

/-- Settles O44: one theorem for each way in which a group yields, leaves, returns or ends. -/
theorem preemptionAndEnds : Obligations.PreemptionAndEnds := by
  intro s gid g hg
  refine ⟨?request, ?take, ?withdraw, ?timeout, ?restore, ?abort, ?free⟩
  case request =>
    intro t k p s1 hres hpre ht hk hroom hp hpri hstarved hyoung
    exact preemptRequest_marks hg hres hpre ht hk hroom hp hpri hstarved hyoung
  case take =>
    intro s1 hres hpre hpend hlanes htrap hcore hclean hsave hother
    exact preemptTake_saves hg hres hpre hpend hlanes htrap hcore hclean hsave hother
  case withdraw =>
    intro hres hpre hrun habort
    exact preemptWithdraw_readies hg hres hpre hrun habort
  case timeout =>
    intro x k hpre hk hlate huntaken hend
    obtain ⟨⟨k', hk', hend'⟩, hrec, hdrain⟩ := endUntaken_spec hg hpre hk hlate huntaken hend
    exact ⟨_, k', exec_preemptTimeout gid s, hk', hend', hrec, hdrain⟩
  case restore =>
    intro t k core slot off size w s1 hres hdue hkept ht hk hend hrun hslot hplaced hcore himg hread
    exact restore_lands hg hres hdue hkept ht hk hend hrun hslot hplaced hcore himg hread
  case abort =>
    intro c habort hres hpend htrap hready hctx
    exact gangAbort_ends hg habort hres hpend htrap hready hctx
  case free =>
    intro hres hq heng hheld htracked
    exact drydownFree_goes hg hres hq heng hheld htracked

end Sys2Proof.Machine
end
